-- ==== Sys2Proof/Word.lean ====
section
/-! DEFINITION. The word types of the QX-8400 model and their plainest arithmetic (spec/00_scope.md R1, spec/02 R20). -/

namespace Sys2Proof

/-- A 64-bit word: scalar registers, control words, addresses, instruction words (R20, R35). -/
abbrev Word := BitVec 64

/-- One byte of memory. -/
abbrev Byte := BitVec 8

/-- A vector row, an accumulator row: 768 bytes, lane l at bits 32l (R35, R89). -/
abbrev Row := BitVec 6144

/-- One bit per lane of a row (R35). -/
abbrev Lanes := BitVec 192

/-- A 64-byte granule of a window or of memory, or an accumulator granule (R90). -/
abbrev Granule := BitVec 512

end Sys2Proof
end

