-- ==== Sys2Proof/Config.lean ====
section
/-! DEFINITION. What the spec leaves open: opaque constants without a body (log 4). Nothing evaluates them and no proof can learn a
value of them; a statement holds whatever they are. Most take an index that the machine counts up, so that each use is fresh. -/

namespace Sys2Proof

/-- Order choices the spec leaves to the device: which of several pending steps comes next (log 6). -/
opaque Config.pick : Nat → Nat

/-- How many free choices follow one another at most before every open step has had its turn (R202, R225; log 68). -/
opaque Config.patience : Nat → Nat

/-- A byte the spec calls undefined (R4), by index and place. -/
opaque Config.byte : Nat → Nat → Byte

/-- A word the spec leaves unstated, by index and place. -/
opaque Config.word : Nat → Nat → BitVec 64

/-- An analog reading, step size or error, by index and place (R317, R320, R332, R335). -/
opaque Config.analog : Nat → Nat → Rat

/-- The constants of the analog devices (R344), by tile and kind, and by place. -/
opaque Config.device : Nat → Nat → Rat

/-- SHA-384 of bytes: 48 bytes (R425, R427, R428); the spec names the function and states no bits of it. -/
opaque Config.sha384 : List Byte → List Byte

/-- ECDSA P-384 verification of a firmware image (R425). -/
opaque Config.imageSigned : List Byte → Bool

/-- A signature, a key or a certificate chain, by what it covers (R427, R428). -/
opaque Config.sign : List Byte → List Byte
opaque Config.identityKey : List Byte → List Byte
opaque Config.certChain : List Byte → List Byte

/-- Contents of the factory flash image, of the boot ROM and of the fused floor, which the spec does not give (R425, R428). -/
opaque Config.flashByte : Nat → Byte
opaque Config.flashLen : Nat
opaque Config.bootRom : List Byte
opaque Config.fusedFloor : Nat

/-- Whether a storage target accepts a connection, and with which NVMe status it fails (R407). -/
opaque Config.openStatus : List Byte → Option (BitVec 32)

/-- The NVMe completion status of a storage read, by index and connection (R408). -/
opaque Config.readStatus : Nat → Nat → BitVec 16

/-- What a decoder makes of a stream, by codec and stream bytes: a sample by frame and position, and its end, as the frames decoded
without error and the code of R365 (R409), and the width and height of a frame; the spec names the codecs and states no decoding. -/
opaque Config.sample : Nat → List Byte → Nat → Nat → Nat
opaque Config.decodeEnd : Nat → List Byte → Nat × Nat
opaque Config.frameSize : Nat → List Byte → Nat → Nat × Nat

/-- The module's number and the domain's modules as the links' training gives them (R413, R418; log 2). -/
opaque Config.trainedId : Nat
opaque Config.trainedDomain : List Nat

/-- Whether a unit passes the self-test of R418, by unit code. -/
opaque Config.selfTest : Nat → Bool

end Sys2Proof
end

