-- ==== Sys2Proof/Syntax.lean ====
section
/-! DEFINITION. The instructions and device steps of the QX-8400: one constructor of `Instr` per row of spec/opcode_table.json.
The structures hold the fields of the word formats (spec/02 R21-R28), raw as the words carry them; WellFormed says which
values an instruction accepts (R33). Device steps carry plain data that says where the step happens. -/

namespace Sys2Proof

/-- The guard fields GN and G of word 0 (R21, R29). -/
structure Guard where
  gn : Bool
  g : BitVec 5
  deriving DecidableEq, Repr

/-- R and V format: word 0 with X laid out as R23. -/
structure RF where
  gd : Guard
  d : BitVec 6
  a : BitVec 6
  b : BitVec 6
  c : BitVec 6
  ty : BitVec 4
  rm : BitVec 3
  fn : BitVec 8
  deriving DecidableEq, Repr

/-- I format, and PTB, whose X is one signed number (R23, R25). -/
structure IF where
  gd : Guard
  d : BitVec 6
  a : BitVec 6
  b : BitVec 6
  x : BitVec 32
  deriving DecidableEq, Repr

/-- M format (R24). -/
structure MF where
  gd : Guard
  d : BitVec 6
  a : BitVec 6
  b : BitVec 6
  k : BitVec 4
  sc : BitVec 3
  aq : Bool
  rl : Bool
  sz : BitVec 3
  disp : BitVec 20
  deriving DecidableEq, Repr

/-- L format of LOOP, LOOPR and LBRK (R25). -/
structure LF where
  gd : Guard
  d : BitVec 6
  a : BitVec 6
  b : BitVec 6
  lvl : BitVec 2
  cnt : BitVec 14
  fin : BitVec 16
  deriving DecidableEq, Repr

/-- An engine command: word 0 in R format and word 1 (R22, R28). -/
structure EF where
  r : RF
  k : BitVec 4
  sc : BitVec 3
  aq : Bool
  rl : Bool
  ev : Bool
  term : BitVec 6
  sub : BitVec 8
  eng : BitVec 40
  deriving DecidableEq, Repr

/-- The two allowances of a core: macros (A_m) and crossbar tiles (A_x) (R274). -/
inductive AllowKind where
  | macros
  | tiles
  deriving DecidableEq, Repr

/-- An access that reaches the controller of a compute-capable block through an alias window (R83, R367-R381).
`core` and `ctx` name the submitting context, `ea` the effective address with its alias code, `pa` the domain physical
address, `size` the bytes, `data` what a store carries. -/
structure WindowStore where
  core : Nat
  ctx : Nat
  ea : Word
  pa : Nat
  size : Nat
  isStore : Bool
  data : Word
  k : Nat
  deriving DecidableEq, Repr

/-- A bank of a pseudo-channel of a stack (R374). -/
structure BankId where
  stack : Nat
  chan : Nat
  bank : Nat
  deriving DecidableEq, Repr

/-- A host SEND: its queue pair and its 256 bytes (R404). -/
structure HostReq where
  qp : Nat
  msg : List Byte
  deriving DecidableEq, Repr

/-- A reward message at a join unit (R389): the oldest one that waits at the unit of a die, or the bytes of one that another module has
sent and that reaches it now (R12). -/
structure MsgArrival where
  die : Nat
  far : Option (List Byte)
  deriving DecidableEq, Repr

/-- The units of R296 and R423. -/
inductive UnitCode where
  | accStore (core : Nat)
  | windows (core : Nat)
  | scratchMacro (core idx : Nat)
  | icache (core : Nat)
  | tile (core idx : Nat)
  | ring (boundary : Nat)
  | link (idx : Nat)
  deriving DecidableEq, Repr

/-- Where an uncorrectable storage error is met (R294, R382). -/
inductive ErrSite where
  | accRow (core row word : Nat)
  | window (core granule : Nat)
  | memLine (line : Nat)
  | register (core ctx : Nat)
  | calibration (core tile : Nat)
  /-- a single-bit error of a unit, corrected and counted (R294, R296) -/
  | corrected (u : UnitCode)
  /-- a parity error in a 64-byte line of the instruction cache (R295) -/
  | parity (core line : Nat)
  /-- a staging row of the tiles with this number, among the operands of their running command (R382) -/
  | staging (tiles : Nat)
  deriving DecidableEq, Repr

/-- The instructions and device steps, in the table's order. -/
inductive Instr where
  /-- NOP (R56): Advances the program counter and has no other effect. -/
  | nop (f : RF)
  /-- PTB (R57): Writes a PC-relative word address into a branch target register. -/
  | ptb (f : IF)
  /-- PTBR (R57): Writes a scalar register value into a branch target, checking alignment and the high byte. -/
  | ptbr (f : RF)
  /-- BT (R58): Transfers control through a branch target after two delay slots that always execute. -/
  | bt (f : RF)
  /-- BTL (R58): Transfers control as BT does and writes the link register when the branch is taken. -/
  | btl (f : RF)
  /-- LOOP (R62): Opens a hardware loop level with an immediate trip count. -/
  | loop (f : LF)
  /-- LOOPR (R62): Opens a hardware loop level with its trip count taken from a scalar register. -/
  | loopr (f : LF)
  /-- LBRK (R63): Leaves an active loop level and every level above it, then runs the end test of the level below. -/
  | lbrk (f : LF)
  /-- TRAP (R64): Raises trap 0x12 with the immediate as trap.info. -/
  | trap (f : IF)
  /-- BRK (R64): Raises breakpoint trap 0x10 with the immediate as trap.info. -/
  | brk (f : IF)
  /-- DONE (R64): Drains the context, performs the join decrement and any retire copies, and frees the context. -/
  | done (f : RF)
  /-- ADD (R66): Adds two scalar registers modulo 2^64. -/
  | add (f : RF)
  /-- ADDI (R66): Adds a sign-extended immediate to a scalar register. -/
  | addi (f : IF)
  /-- SUB (R66): Subtracts two scalar registers modulo 2^64. -/
  | sub (f : RF)
  /-- MUL (R66): Writes the low 64 bits of a product. -/
  | mul (f : RF)
  /-- MULH (R66): Writes the high 64 bits of a signed product. -/
  | mulh (f : RF)
  /-- MULHW (R66): Writes the high 64 bits of an unsigned product. -/
  | mulhw (f : RF)
  /-- DIV (R67): Signed division truncated toward zero, with defined results for zero and overflow. -/
  | div (f : RF)
  /-- DIVW (R67): Unsigned division, returning all ones for a zero divisor. -/
  | divw (f : RF)
  /-- REM (R67): Signed remainder taking the sign of the dividend. -/
  | rem (f : RF)
  /-- REMW (R67): Unsigned remainder. -/
  | remw (f : RF)
  /-- AND (R66): Bitwise AND of two scalar registers. -/
  | and (f : RF)
  /-- ANDI (R66): Bitwise AND with a sign-extended immediate. -/
  | andi (f : IF)
  /-- OR (R66): Bitwise OR of two scalar registers. -/
  | or (f : RF)
  /-- ORI (R66): Bitwise OR with a sign-extended immediate. -/
  | ori (f : IF)
  /-- XOR (R66): Bitwise XOR of two scalar registers. -/
  | xor (f : RF)
  /-- ANDN (R66): AND of one register with the complement of another. -/
  | andn (f : RF)
  /-- SHL (R66): Logical left shift, giving 0 for amounts of 64 or more. -/
  | shl (f : RF)
  /-- SHR (R66): Logical right shift, giving 0 for amounts of 64 or more. -/
  | shr (f : RF)
  /-- SAR (R66): Arithmetic right shift. -/
  | sar (f : RF)
  /-- ROT (R66): Rotates left by the amount modulo 64. -/
  | rot (f : RF)
  /-- CLZ (R66): Counts leading zero bits. -/
  | clz (f : RF)
  /-- CTZ (R66): Counts trailing zero bits. -/
  | ctz (f : RF)
  /-- POPC (R66): Counts one bits. -/
  | popc (f : RF)
  /-- MIN (R66): Signed minimum. -/
  | min (f : RF)
  /-- MAX (R66): Signed maximum. -/
  | max (f : RF)
  /-- MINW (R66): Unsigned minimum. -/
  | minw (f : RF)
  /-- MAXW (R66): Unsigned maximum. -/
  | maxw (f : RF)
  /-- SEXT (R66): Sign-extends the low 8, 16 or 32 bits. -/
  | sext (f : RF)
  /-- ZEXT (R66): Zero-extends the low 8, 16 or 32 bits. -/
  | zext (f : RF)
  /-- LI (R66): Loads a sign-extended immediate. -/
  | li (f : IF)
  /-- LIH (R66): Writes the immediate into the high 32 bits, keeping the low half. -/
  | lih (f : IF)
  /-- MOV (R66): Copies a scalar register. -/
  | mov (f : RF)
  /-- SEL (R66): Selects one of two scalars by lane 0 of an unmarked predicate. -/
  | sel (f : RF)
  /-- CMP (R66): Sets every lane of a predicate from a register compare. -/
  | cmp (f : RF)
  /-- CMPI (R66): Sets every lane of a predicate from a compare against an immediate. -/
  | cmpi (f : IF)
  /-- ADDX (R66): Adds a register shifted left by 0 to 7 bits. -/
  | addx (f : RF)
  /-- BFX (R66): Extracts a bit field with sign or zero extension. -/
  | bfx (f : RF)
  /-- BFI (R66): Inserts a bit field into the destination register. -/
  | bfi (f : RF)
  /-- FADD (R70): Adds two f32 values with one rounding. -/
  | fadd (f : RF)
  /-- FSUB (R70): Subtracts two f32 values with one rounding. -/
  | fsub (f : RF)
  /-- FMUL (R70): Multiplies two f32 values with one rounding. -/
  | fmul (f : RF)
  /-- FFMA (R70): Fused multiply-add of three f32 values with one rounding. -/
  | ffma (f : RF)
  /-- FDIV (R70): Divides two f32 values with one rounding. -/
  | fdiv (f : RF)
  /-- FSQRT (R70): Takes the f32 square root with one rounding. -/
  | fsqrt (f : RF)
  /-- FMIN (R70): f32 minimum under the NaN and signed-zero rules. -/
  | fmin (f : RF)
  /-- FMAX (R70): f32 maximum under the NaN and signed-zero rules. -/
  | fmax (f : RF)
  /-- FABS (R70): Clears the f32 sign bit. -/
  | fabs (f : RF)
  /-- FNEG (R70): Inverts the f32 sign bit. -/
  | fneg (f : RF)
  /-- FCMP (R70): Sets every lane of a predicate from an f32 compare. -/
  | fcmp (f : RF)
  /-- FCVT (R71): Converts a scalar between integer and float formats under RM. -/
  | fcvt (f : RF)
  /-- PSET_CLEAR (R72): PSET with FN 0 clears every lane of a predicate. -/
  | psetClear (f : RF)
  /-- PSET_SET (R72): PSET with FN 1 sets every lane of a predicate. -/
  | psetSet (f : RF)
  /-- PSET_GROUP (R72): PSET with FN 2 to 4 loads 64 lanes of a predicate from a scalar register. -/
  | psetGroup (f : RF)
  /-- PAND (R72): Lanewise AND of two predicates. -/
  | pand (f : RF)
  /-- POR (R72): Lanewise OR of two predicates. -/
  | por (f : RF)
  /-- PXOR (R72): Lanewise XOR of two predicates. -/
  | pxor (f : RF)
  /-- PANDN (R72): Lanewise AND-NOT of two predicates. -/
  | pandn (f : RF)
  /-- PNOT (R72): Lanewise NOT of a predicate. -/
  | pnot (f : RF)
  /-- PFIRST (R72): Keeps only the lowest set lane of a predicate. -/
  | pfirst (f : RF)
  /-- PCNT (R72): Counts the set lanes of an unmarked predicate into a scalar. -/
  | pcnt (f : RF)
  /-- PLEN (R72): Sets the predicate lanes below a scalar length. -/
  | plen (f : RF)
  /-- VANY (R72): Votes whether any masked lane is set, writing every lane after 4 cycles. -/
  | vany (f : RF)
  /-- VALL (R72): Votes whether every masked lane is set, writing every lane after 4 cycles. -/
  | vall (f : RF)
  /-- LD (R77): Loads a zero-extended value from memory, or performs the load side of an alias window. -/
  | ld (f : MF)
  /-- LDS (R77): Loads a sign-extended value from memory. -/
  | lds (f : MF)
  /-- ST (R77): Stores a scalar through the store buffer, or performs an alias reduction or window store. -/
  | st (f : MF)
  /-- LDX (R81): Loads a value and sets the context's reservation on its granule. -/
  | ldx (f : MF)
  /-- STX (R81): Stores under the reservation, writes success or failure, and clears the reservation. -/
  | stx (f : MF)
  /-- AADD (R79): Atomic add returning the old value. -/
  | aadd (f : MF)
  /-- AMIN (R79): Atomic signed minimum. -/
  | amin (f : MF)
  /-- AMAX (R79): Atomic signed maximum. -/
  | amax (f : MF)
  /-- AMINW (R79): Atomic unsigned minimum. -/
  | aminw (f : MF)
  /-- AMAXW (R79): Atomic unsigned maximum. -/
  | amaxw (f : MF)
  /-- AAND (R79): Atomic AND. -/
  | aand (f : MF)
  /-- AOR (R79): Atomic OR. -/
  | aor (f : MF)
  /-- AXOR (R79): Atomic XOR. -/
  | axor (f : MF)
  /-- AXCH (R79): Atomic exchange. -/
  | axch (f : MF)
  /-- ACAS (R79): Atomic compare-and-swap against the old destination value. -/
  | acas (f : MF)
  /-- FENCE (R85): Holds issue until earlier accesses of the masked classes have performed at the scope. -/
  | fence (f : MF)
  /-- FENCEL (R86): Light half of the split fence, ordering all but store-to-load. -/
  | fencel (f : MF)
  /-- FENCEH (R86): Heavy half of the split fence, draining every store buffer within the scope. -/
  | fenceh (f : MF)
  /-- MBR (R87): Reads a mailbox word of the launch. -/
  | mbr (f : IF)
  /-- MBW (R87): Writes a mailbox word of the launch. -/
  | mbw (f : IF)
  /-- MFC (R257): Reads a control word into a scalar register. -/
  | mfc (f : IF)
  /-- MTC (R257): Writes a control word that has no row of its own, with its access and field checks. -/
  | mtc (f : IF)
  /-- RNG_SEED_WRITE (R148): An MTC to rng.seed restarts the core generator stream from the next cycle. -/
  | rngSeedWrite (f : IF)
  /-- ENG_POISON_CLEAR (R139): An MTC to eng.poison clears the poison fields written with 1. -/
  | engPoisonClear (f : IF)
  /-- ACC_GRANT_WRITE (R41): An MTC at runtime level sets the context's accumulator grant. -/
  | accGrantWrite (f : IF)
  /-- VIEW_WORD_WRITE (R40): An MTC to view.v or view.t sets the base and stride of the context's views. -/
  | viewWordWrite (f : IF)
  /-- LOOP_COUNTER_WRITE (R132): An MTC to ctx.lcL writes the loop counter alone, keeping the rest of the level. -/
  | loopCounterWrite (f : IF)
  /-- BRANCH_TARGET_WRITE (R257): An MTC to ctx.bN writes a branch target after the checks of PTBR. -/
  | branchTargetWrite (f : IF)
  /-- XB_GAIN_WRITE (R337): An MTC to xbN.gain waits for the tile to be idle, writes the gains and may clear CALV. -/
  | xbGainWrite (f : IF)
  /-- XB_SYM_WRITE (R313): An MTC to xbN.sym selects a column and, with WR, writes its symmetry point once the tile is idle. -/
  | xbSymWrite (f : IF)
  /-- ERET (R258): Returns from a handler to trap.pc at the previous privilege level. -/
  | eret (f : RF)
  /-- SYSC (R259): Raises system-call trap 0x11. -/
  | sysc (f : IF)
  /-- TLBI_PAGE (R260): Drops the translation of one page within the scope and waits for acknowledgement. -/
  | tlbiPage (f : MF)
  /-- TLBI_ALL (R260): Drops every unpinned translation within the scope and waits for acknowledgement. -/
  | tlbiAll (f : MF)
  /-- PWRB_ON (R261): Switches named register banks on after pending results land. -/
  | pwrbOn (f : IF)
  /-- PWRB_RET (R261): Puts named register banks into retention. -/
  | pwrbRet (f : IF)
  /-- PWRB_OFF (R261): Switches named register banks off, losing their content. -/
  | pwrbOff (f : IF)
  /-- SPAWN (R155): Pushes a copy of a continuation record to the issuing grotto or the pinned core's grotto. -/
  | spawn (f : RF)
  /-- SPAWN_G (R155): Pushes a continuation record to a named grotto. -/
  | spawnG (f : RF)
  /-- JOIN (R156): Atomically decrements a join block and pushes its record when it reaches zero. -/
  | join (f : RF)
  /-- WAITF (R158): Reads a future with acquire and waits while it is empty. -/
  | waitf (f : RF)
  /-- FUTURE_WAKE (R158): A write to a waited future's granule makes the waiting context read it again and continue if full. -/
  | futureWake (c k : Nat)
  /-- YIELD (R160): Passes the context over until every other ready context has issued once. -/
  | yield (f : RF)
  /-- YIELD_Q (R160): Drains and spills the task, requeues its pinned resume record, and frees the context. -/
  | yieldQ (f : RF)
  /-- RENQ_CPY (R161): Places a command block into another core's copy engine queue. -/
  | renqCpy (f : RF)
  /-- RENQ_GAT (R161): Places a command block into another core's gather engine queue. -/
  | renqGat (f : RF)
  /-- RNGT_CFG (R162): Configures a grotto range unit with its total and chunking parameters. -/
  | rngtCfg (f : RF)
  /-- RNGT (R162): Takes one guided-self-scheduling chunk from a range unit. -/
  | rngt (f : RF)
  /-- PIPEW_GET (R163): Acquires the next free slot of a pipe for writing, waiting while the pipe is full. -/
  | pipewGet (f : RF)
  /-- PIPEW_PUT (R163): Commits the held write slot of a pipe with release. -/
  | pipewPut (f : RF)
  /-- PIPER_GET (R163): Acquires the oldest committed slot of a pipe, waiting while the pipe is empty. -/
  | piperGet (f : RF)
  /-- PIPER_PUT (R163): Frees the held read slot of a pipe with release. -/
  | piperPut (f : RF)
  /-- PIPE_WAKE (R163): A write to a pipe descriptor lets a waiting get reload the index and continue when room or data exists. -/
  | pipeWake (c k : Nat)
  /-- BAR (R165): Arrives at a grotto barrier and waits for the phase to complete. -/
  | bar (f : RF)
  /-- BAR_CFG (R165): Sets the party count of a grotto barrier for its next phase. -/
  | barCfg (f : RF)
  /-- GBAR (R165): Arrives at a gang barrier and waits for every live member. -/
  | gbar (f : RF)
  /-- WALK (R166): Hands an operator block to the grotto walker, which expands it into tile steps. -/
  | walk (f : RF)
  /-- SENDH (R157): Copies scratchpad bytes to another core and queues a handler start there. -/
  | sendh (f : RF)
  /-- VADD (R97): Elementwise vector add. -/
  | vadd (f : RF)
  /-- VSUB (R97): Elementwise vector subtract. -/
  | vsub (f : RF)
  /-- VMUL (R97): Elementwise vector multiply. -/
  | vmul (f : RF)
  /-- VFMA (R97): Elementwise fused multiply-add with one rounding. -/
  | vfma (f : RF)
  /-- VMIN (R97): Elementwise minimum. -/
  | vmin (f : RF)
  /-- VMAX (R97): Elementwise maximum. -/
  | vmax (f : RF)
  /-- VABS (R97): Elementwise absolute value. -/
  | vabs (f : RF)
  /-- VNEG (R97): Elementwise negation. -/
  | vneg (f : RF)
  /-- VAND (R96): Bitwise AND over a whole row. -/
  | vand (f : RF)
  /-- VOR (R96): Bitwise OR over a whole row. -/
  | vor (f : RF)
  /-- VXOR (R96): Bitwise XOR over a whole row. -/
  | vxor (f : RF)
  /-- VSHL (R98): Elementwise left shift. -/
  | vshl (f : RF)
  /-- VSHR (R98): Elementwise logical right shift. -/
  | vshr (f : RF)
  /-- VSAR (R98): Elementwise arithmetic right shift. -/
  | vsar (f : RF)
  /-- VCMP (R99): Sets predicate lanes from an elementwise compare and sets the bounded mark. -/
  | vcmp (f : RF)
  /-- VSEL (R99): Selects lanes from two rows under a predicate. -/
  | vsel (f : RF)
  /-- VCVT (R100): Converts one part of a row between element types. -/
  | vcvt (f : RF)
  /-- VCLAMP (R99): Clamps elements between two bounds. -/
  | vclamp (f : RF)
  /-- VREDS (R101): Sums the masked lanes of a row in a fixed tree order. -/
  | vreds (f : RF)
  /-- VREDM_MAX (R101): Takes the largest masked element of a row. -/
  | vredmMax (f : RF)
  /-- VREDM_MIN (R101): Takes the smallest masked element of a row. -/
  | vredmMin (f : RF)
  /-- VSCAN_INC (R102): Serial inclusive prefix sum over lanes. -/
  | vscanInc (f : RF)
  /-- VSCAN_EXC (R102): Serial exclusive prefix sum over lanes. -/
  | vscanExc (f : RF)
  /-- VPERM (R103): Permutes lanes of one row by an index row. -/
  | vperm (f : RF)
  /-- VPERM_TWO (R103): Permutes lanes drawn from two rows by an index row. -/
  | vpermTwo (f : RF)
  /-- VBCAST (R103): Broadcasts a scalar into every element. -/
  | vbcast (f : RF)
  /-- VBCAST_ELEMENT (R103): Broadcasts one element of a row into every element. -/
  | vbcastElement (f : RF)
  /-- VINS (R103): Inserts a scalar into one element of a row. -/
  | vins (f : RF)
  /-- VEXT (R103): Extracts one element of a row into a scalar. -/
  | vext (f : RF)
  /-- VIOTA (R103): Writes consecutive integers from a scalar base. -/
  | viota (f : RF)
  /-- VLD (R107): Loads a 768-byte row, plain or under a layout word. -/
  | vld (f : MF)
  /-- VST (R107): Stores the masked lanes of a row through the store buffer. -/
  | vst (f : MF)
  /-- VLDT (R107): Loads eight consecutive rows into a tile view. -/
  | vldt (f : MF)
  /-- VRNG (R104): Fills lanes with rotated copies of the core generator word of the cycle. -/
  | vrng (f : RF)
  /-- VKRNG (R104): Fills lanes with keyed-mix values of a key and element indices. -/
  | vkrng (f : RF)
  /-- SETVW_V (R108): Sets base and stride of the vector views. -/
  | setvwV (f : RF)
  /-- SETVW_T (R108): Sets base and stride of the tile views. -/
  | setvwT (f : RF)
  /-- TLD (R115): Checks a table header and loads its coefficients into a table slot in the background. -/
  | tld (f : MF)
  /-- TABLE_LOAD_COMPLETE (R115): The background coefficient load ends and the slot stops being loading. -/
  | tableLoadComplete (c n : Nat)
  /-- TEV (R117): Evaluates a piecewise cubic table over the masked elements of a row. -/
  | tev (f : RF)
  /-- TCFG_INV (R116): Invalidates a table slot after its loads and evaluations finish. -/
  | tcfgInv (f : RF)
  /-- TCFG_STAT (R116): Returns a table slot's status word. -/
  | tcfgStat (f : RF)
  /-- AMOV (R110): Copies an accumulator row and its bound into a vector view. -/
  | amov (f : RF)
  /-- ACLR (R111): Clears a run of granted accumulator rows. -/
  | aclr (f : RF)
  /-- ALDV (R110): Copies a vector view into an accumulator row. -/
  | aldv (f : RF)
  /-- ALDV_ADD (R110): Adds a vector view into an accumulator row with one rounding per lane. -/
  | aldvAdd (f : RF)
  /-- ADMIT (R112): Admits a bounded accumulator row as exact when its bound is within the threshold. -/
  | admitRow (f : RF)
  /-- ADMIT_VIEW (R112): Admits the granules of a bounded view as exact when within the threshold. -/
  | admitView (f : RF)
  /-- CPY (R231): Copies bytes, optionally converting or under layout words. -/
  | cpy (f : EF)
  /-- CPY_FILL (R231): Fills a destination with a 64-bit pattern. -/
  | cpyFill (f : EF)
  /-- CPY_FROM (R233): Copies granted accumulator rows to memory. -/
  | cpyFrom (f : EF)
  /-- CPY_TO (R233): Copies memory into granted accumulator rows. -/
  | cpyTo (f : EF)
  /-- CPYW (R234): Stalls until a command completes and returns its status word. -/
  | cpyw (f : EF)
  /-- CPYW_ALL (R234): Stalls until every earlier engine command of the context completes and counts the failures. -/
  | cpywAll (f : EF)
  /-- CCAN (R235): Requests cancellation of a command and returns its status after acknowledgement. -/
  | ccan (f : EF)
  /-- CPOLL (R234): Returns the current status word of a command at once. -/
  | cpoll (f : EF)
  /-- GATH (R237): Gathers indexed table rows into a destination. -/
  | gath (f : EF)
  /-- GATH_SUM (R237): Sums bags of indexed table rows in fixed order. -/
  | gathSum (f : EF)
  /-- SCAD (R237): Scatter-adds source rows into indexed table rows. -/
  | scad (f : EF)
  /-- COLL_BCAST (R239): Broadcasts the root member's source to every member of a group. -/
  | collBcast (f : EF)
  /-- COLL_SUM (R239): Sums the members' sources in fixed order and writes the result to every member. -/
  | collSum (f : EF)
  /-- COLL_MAX (R239): Takes the elementwise maximum over members. -/
  | collMax (f : EF)
  /-- COLL_MIN (R239): Takes the elementwise minimum over members. -/
  | collMin (f : EF)
  /-- COLL_MATCH (R239): Once every member has issued the k-th COLL of a group, the unit combines the contributions. -/
  | collMatch (c q : Nat)
  /-- EVCFG_CNT (R242): Configures an event counter's threshold and source and zeroes it. -/
  | evcfgCnt (f : EF)
  /-- EVCFG_TERM (R242): Configures the two product masks of an event term. -/
  | evcfgTerm (f : EF)
  /-- EVARM (R242): Arms an event term. -/
  | evarm (f : EF)
  /-- EVARM_CLR (R242): Clears the term's counters and arms it. -/
  | evarmClr (f : EF)
  /-- EVARM_STAT (R242): Returns armed terms, counters at threshold and fault bits. -/
  | evarmStat (f : EF)
  /-- EVENT_TERM_FIRING (R243): An armed term whose product reaches its thresholds fires, subtracts them, disarms and starts its armed commands. -/
  | eventTermFiring (c t : Nat)
  /-- MSTN (R247): Marks a run of scratchpad macros as a stationary region and zeroes its weights. -/
  | mstn (f : EF)
  /-- MLDW (R249): Loads q4 or q3 weight groups into a stationary region. -/
  | mldw (f : EF)
  /-- WEIGHT_GROUP_LOAD_COMPLETE (R269): A group load ends after 24 cycles and its multipliers take effect together. -/
  | weightGroupLoadComplete (c m : Nat)
  /-- MMS (R251): Streams activation vectors past a stationary region and adds group sums into accumulator rows. -/
  | mms (f : EF)
  /-- MMS_PAIR_COMPLETE (R271): A pair ends after 12 or 24 cycles and its group sum enters its row. -/
  | mmsPairComplete (c m : Nat)
  /-- SCACC (R254): Scales partial rows by group scales and accumulates them into destination rows. -/
  | scacc (f : EF)
  /-- MRLS (R248): Removes a stationary region and zeroes its macros after its readers finish. -/
  | mrls (f : EF)
  /-- MHINT_MMS (R276): Declares a coming macro burst so the allowance ramps ahead of it. -/
  | mhintMms (f : EF)
  /-- MHINT_XMV (R276): Declares a coming crossbar product burst so the tile allowance ramps ahead of it. -/
  | mhintXmv (f : EF)
  /-- ALLOWANCE_RISE (R274): Every rise interval while demand exceeds the allowance, the macro or tile allowance rises by one. -/
  | allowanceRise (c : Nat) (u : AllowKind)
  /-- ALLOWANCE_FALL (R274): Every fall interval while demand is below an unheld allowance, the allowance falls by one. -/
  | allowanceFall (c : Nat) (u : AllowKind)
  /-- LEAD_IN_END (R275): The lead-in before a burst ends, the allowance first rises and the held context issues. -/
  | leadInEnd (c : Nat) (u : AllowKind)
  /-- TAIL_END (R274): The tail after the allowance reaches zero ends and a new burst may open. -/
  | tailEnd (c : Nat) (u : AllowKind)
  /-- XMV (R317): Runs forward analog products of input vectors into six accumulator rows each, with bounds. -/
  | xmv (f : EF)
  /-- XMVT (R317): Runs transposed analog products of input vectors into accumulator rows, with bounds. -/
  | xmvt (f : EF)
  /-- XUPD (R320): Applies stochastic rank-one pulse trains to the drip devices and writes an exact record. -/
  | xupd (f : EF)
  /-- XDEP (R322): Deposits drip columns into the stone array and records the pulses. -/
  | xdep (f : EF)
  /-- XDEP_RST (R322): Deposits drip columns and resets each drip device to its symmetry point. -/
  | xdepRst (f : EF)
  /-- XCAL (R339): Restores references, recomputes offsets and gains, and sets or clears calibration validity. -/
  | xcal (f : EF)
  /-- XSYM (R324): Pulses drip columns to their symmetry points and records each column's point. -/
  | xsym (f : EF)
  /-- XRD (R325): Reads weight estimates and per-column bounds through the lantern to A pages. -/
  | xrd (f : EF)
  /-- XPGM (R326): Programs stone weights from bf16 targets by closed-loop verify passes. -/
  | xpgm (f : EF)
  /-- XSTAT (R327): Returns the tile status word at once. -/
  | xstat (f : EF)
  /-- XSTAT_WAIT (R327): Stalls until the tile queue is empty, then returns its status. -/
  | xstatWait (f : EF)
  /-- XSTAT_BLK (R327): Queues behind the tile's commands and writes a 64-byte status block. -/
  | xstatBlk (f : EF)
  /-- CROSSBAR_COMMAND_COMPLETE (R315): A tile command ends after its cycles, its rows land and it counts as an event. -/
  | crossbarCommandComplete (c t : Nat)
  /-- IDLE_SWEEP (R334): After 65,536 cycles without a measurement the tile takes a reference measurement. -/
  | idleSweep (c t : Nat)
  /-- PCFG (R358): Configures the 16 pearl tiles of a compute-capable block from an image. -/
  | pcfg (f : EF)
  /-- RJCFG (R359): Writes the 16 configuration words of a die's reward join unit. -/
  | rjcfg (f : EF)
  /-- RJCFG_VER (R359): Writes only the learner policy version of a join unit. -/
  | rjcfgVer (f : EF)
  /-- RJSEAL (R361): Seals an episode descriptor into its unit's join table and returns the seal number. -/
  | rjseal (f : EF)
  /-- RJSEND (R362): Delivers up to 256 reward messages to the join unit of each key. -/
  | rjsend (f : EF)
  /-- RJTAKE (R363): Removes and returns the oldest released descriptor address of a unit. -/
  | rjtake (f : EF)
  /-- STRD (R364): Reads storage blocks over NVMe over RDMA straight into HBM. -/
  | strd (f : EF)
  /-- MDEC (R365): Decodes a video stream into frame surfaces on a media slice. -/
  | mdec (f : EF)
  /-- MRSZ (R366): Crops, resizes and colour-converts a surface into three planes. -/
  | mrsz (f : EF)
  /-- ENGINE_COMMAND_START (R186): A queued engine command starts once no earlier command holds a conflicting footprint part. -/
  | engineCommandStart (c q : Nat)
  /-- ENGINE_COMMAND_COMPLETE (R197): An engine command completes after its writes perform, records status, feeds its event counter and frees its slot. -/
  | engineCommandComplete (c q : Nat)
  /-- REWARD_ARRIVAL (R389): A reward message arrives at a join unit, is classified, joined, held or discarded, and ages the other entries. -/
  | rewardArrival (d : MsgArrival)
  /-- ENTRY_TIMEOUT (R393): An entry whose age reaches ETMO is marked timed out and queued for scan. -/
  | entryTimeout (d : Nat)
  /-- ORPHAN_LOSS (R393): An orphan whose age reaches OTMO is discarded and counted. -/
  | orphanLoss (d : Nat)
  /-- EPISODE_SCAN (R395): The scan engine takes a queued entry, judges staleness and writes rewards, advantages and returns. -/
  | episodeScan (d : Nat)
  /-- EPISODE_RELEASE (R396): A ready entry is appended to the release queue and a learner record is pushed. -/
  | episodeRelease (d : Nat)
  /-- RELAYOUT_COMMAND (R370): A command-window store submits a relayout of source rows into striped rows. -/
  | relayoutCommand (w : WindowStore)
  /-- POOLING_COMMAND (R371): A command-window store submits an indexed sum of table rows into an output row. -/
  | poolingCommand (w : WindowStore)
  /-- STACK_COMMAND_COMPLETE (R378): A pearl-tile command finishes its writes and DONE counts it. -/
  | stackCommandComplete (b : Nat)
  /-- STATUS_WINDOW_STORE (R367): A dword store to the status window sets TRAPEN and optionally clears the block's status. -/
  | statusWindowStore (w : WindowStore)
  /-- REDUCE_ADD_F32 (R380): A store through alias 0x1 adds f32 elements at the stack indivisibly. -/
  | reduceAddF32 (w : WindowStore)
  /-- REDUCE_ADD_BF16 (R380): A store through alias 0x2 adds bf16 elements at the stack indivisibly. -/
  | reduceAddBf16 (w : WindowStore)
  /-- REDUCE_MAX_F32 (R380): A store through alias 0x3 takes the f32 maximum at the stack indivisibly. -/
  | reduceMaxF32 (w : WindowStore)
  /-- PEARL_DATA_ACCESS (R381): An access through alias 0x6 reads or writes a pearl tile's data store. -/
  | pearlDataAccess (w : WindowStore)
  /-- COMPUTE_ROW_REFRESH (R375): Each refresh command of a bank also refreshes one compute row in rotation. -/
  | computeRowRefresh (b : BankId)
  /-- COMPUTE_ROW_FORCED_REFRESH (R376): A compute row whose disturbance count reaches 2,048 is refreshed before the next activation of its subarray. -/
  | computeRowForcedRefresh (b : BankId) (r : Nat)
  /-- RESULT_LANDING (R126): An exposed result lands in its scheduled cycle with its tags and clears pending bits. -/
  | resultLanding (c : Nat)
  /-- LOAD_RETURN (R130): An interlocked load result returns and writes its destination. -/
  | loadReturn (c k i : Nat)
  /-- LOAD_ERROR_RETURN (R131): A load returning an uncorrectable error stops the context and enters trap 0x0B after the drain. -/
  | loadErrorReturn (c k i : Nat)
  /-- TRAP_ENTRY (R280): After the drain, the context records the trap and enters the handler at the raised level. -/
  | trapEntry (c k : Nat)
  /-- RESERVATION_EXPIRY (R82): 256 instructions after an LDX the context's reservation is cleared. -/
  | reservationExpiry (c k : Nat)
  /-- FAULT_RECORD_PLACEMENT (R284): A translation miss or other fault places a record in the die's fault ring once its slot is free. -/
  | faultRecordPlacement (d : Nat)
  /-- FAULT_ANSWER (R285): The runtime's ANSWER makes the die retry, trap or discard the faulted work and free the slot. -/
  | faultAnswer (d n : Nat)
  /-- PREEMPT_REQUEST (R289): An RHDR request with OP 1 saves a gang to the save area and frees its contexts. -/
  | preemptRequest (d : Nat)
  /-- RESTORE_REQUEST (R292): An RHDR request with OP 2 queues a saved gang for readmission and restores it. -/
  | restoreRequest (d : Nat)
  /-- MIGRATION_REQUEST (R309): A migration CTL write makes the firmware copy engine move a page and rewrite its leaf. -/
  | migrationRequest
  /-- GROTTO_POP (R215): The grotto head pops an eligible record into a free context of a requesting core. -/
  | grottoPop (g : Nat)
  /-- STEAL (R216): An idle grotto takes one unpinned record from a surplus grotto of its die. -/
  | steal (g : Nat)
  /-- HANDLER_START (R157): A pending SENDH handler takes the next free context of its core. -/
  | handlerStart (c : Nat)
  /-- SPILL (R159): A waiting task is spilled to its frame to free its context for a ready record. -/
  | spill (c k : Nat)
  /-- WAIT_RESUME (R159): When a spilled task's condition is met, its pinned resume record is pushed. -/
  | waitResume (g i : Nat)
  /-- GANG_ADMISSION (R218): A pending gang is placed in the first grotto with enough free contexts. -/
  | gangAdmission
  /-- STEP_TAKE (R221): A free context of an eligible core takes an offered walker step. -/
  | stepTake (c : Nat)
  /-- WALK_COMPLETE (R223): When every step has finished and every retire copy completed, the walker decrements JOINA. -/
  | walkComplete (g i : Nat)
  /-- LAUNCH (R406): A host launch request is checked and creates the initial task or gang. -/
  | launch (q : HostReq)
  /-- MAILBOX_WRITE (R404): A host request writes one mailbox word of a launch. -/
  | mailboxWrite (q : HostReq)
  /-- MAILBOX_READ (R404): A host request reads one mailbox word of a launch. -/
  | mailboxRead (q : HostReq)
  /-- RETIRE_LAUNCH (R406): A host request frees an ended launch's space number and mailbox set. -/
  | retireLaunch (q : HostReq)
  /-- OPEN_STORAGE_CONNECTION (R407): A host request opens an NVMe-over-RDMA storage connection. -/
  | openStorageConnection (q : HostReq)
  /-- CLOSE_STORAGE_CONNECTION (R408): A host request closes a storage connection after its reads complete. -/
  | closeStorageConnection (q : HostReq)
  /-- HOST_RDMA_WRITE (R403): A host RDMA WRITE stores into the module's HBM places. -/
  | hostRdmaWrite (qp pa : Nat) (data : List Byte)
  /-- HOST_RDMA_READ (R403): A host RDMA READ returns HBM bytes, or a NAK on a poisoned or uncorrectable line. -/
  | hostRdmaRead (qp pa n : Nat)
  /-- NVME_TRANSPORT_ERROR (R408): A transport error closes a storage connection and ends its unfinished reads. -/
  | nvmeTransportError (conn : Nat)
  /-- FIRMWARE_RECOVERY (R426): A TYPE 0x11 request verifies a signed image and writes it to flash. -/
  | firmwareRecovery (q : HostReq)
  /-- ATTESTATION_REPORT (R428): A TYPE 0x12 request writes a signed report of measurements. -/
  | attestationReport (q : HostReq)
  /-- CERTIFICATE_CHAIN (R427): A TYPE 0x13 request writes the identity key's certificate chain. -/
  | certificateChain (q : HostReq)
  /-- POWER_UP (R418): The boot ROM verifies firmware, which derives the identity key and self-tests units. -/
  | powerUp
  /-- IO_DIE_START (R418): The I/O die starts and the Ethernet port accepts connections. -/
  | ioDieStart
  /-- COMPUTE_DIE_START (R418): Each compute die starts 5,000 controller cycles after the one before. -/
  | computeDieStart (d : Nat)
  /-- GROTTO_START (R418): Each grotto starts 64 controller cycles after the previous one, starting its cores. -/
  | grottoStart (g : Nat)
  /-- LINK_TRAINING (R418): Ring boundaries and Umaot links are trained and the domain table is set. -/
  | linkTraining (m : Nat) (domain : List Nat)
  /-- MODULE_READY (R418): The public region is written, STATE becomes ready and the rollback floor may rise. -/
  | moduleReady
  /-- POWER_WINDOW_END (R420): At the end of each power window the caps fall or rise by the mean draw and the health block is updated. -/
  | powerWindowEnd (draw : Nat)
  /-- THERMAL_THROTTLE (R422): A sensor at its throttle value holds both caps at 1. -/
  | thermalThrottle (sensor temp : Nat)
  /-- THERMAL_STOP (R422): A sensor at its stop value halts every die and sets STATE 3. -/
  | thermalStop (sensor temp : Nat)
  /-- UNCORRECTABLE_STORAGE_ERROR (R294): A double-bit ECC error poisons a row or line, traps or discards the task. -/
  | uncorrectableStorageError (e : ErrSite)
  /-- ERROR_WINDOW_CLOSE (R296): At the 2^20-th access of a window a unit's access and error counts return to zero. -/
  | errorWindowClose (u : UnitCode)
  /-- LASTING_FAULT_DECLARATION (R296): An error count reaching its threshold declares the unit in lasting fault and places a KIND 4 record. -/
  | lastingFaultDeclaration (u : UnitCode)
  /-- RING_FLIT_RETRANSMIT (R412): A ring flit failing its CRC is retransmitted. -/
  | ringFlitRetransmit (b : Nat)
  /-- RING_BOUNDARY_FAULT (R412): After 16 failed retransmissions the boundary is in lasting fault and traffic crossing it fails. -/
  | ringBoundaryFault (b : Nat)
  /-- UMAOT_FLIT_RETRANSMIT (R416): An Umaot flit failing its CRC is retransmitted. -/
  | umaotFlitRetransmit (l : Nat)
  /-- UMAOT_REQUEST_RESEND (R416): A request unacknowledged after 65,536 flits is resent on another link. -/
  | umaotRequestResend (l m : Nat)
  /-- DESTINATION_UNREACHABLE (R416): After four failed resends a destination is declared unreachable and its requests end. -/
  | destinationUnreachable (l m : Nat)
  /-- ILLEGAL_ENCODING (R33): A fetched word with OP 0x00, a reserved opcode, or another encoding that is no instruction raises trap 0x01. -/
  | illegalEncoding (w : Word)
  /-- STORE_PERFORM (R202): A store leaves the context's store buffer and performs at memory, at the destination module or after the invalidations of a D page are acknowledged. -/
  | storePerform (c k i : Nat)
  /-- TRANSLATION_QUERY_ANSWER (R304): The home slice answers a TLB miss query after its walk, releasing the waiting context or engine. -/
  | translationQueryAnswer (c k : Nat)
  /-- CORE_CLOCK_CYCLE (R148): At each core clock cycle the random generator state advances and cyc increments. -/
  | coreClockCycle (c : Nat)
  /-- HOST_QUEUE_PAIR_CONNECT (R402): A host establishes a RoCEv2 launch queue pair, up to 16. -/
  | hostQueuePairConnect (qp : Nat)
  /-- ROUTE_RESTORE (R416): Firmware restores a route, making an unreachable destination module reachable again. -/
  | routeRestore (m : Nat)
  /-- UMAOT_LINK_DOWN (R417): An Umaot link is declared down and firmware routes around it. -/
  | umaotLinkDown (l : Nat)
  /-- THROTTLE_END (R422): Every sensor falls below its throttle value and the caps are again free to rise under R420. -/
  | throttleEnd (temps : List Nat)
  deriving DecidableEq, Repr

end Sys2Proof
end

