-- ==== Sys2Proof/WellFormed.lean ====
section
/-! DEFINITION. Which field values an instruction accepts (spec/02 R27-R33 and the encoding table of each instruction chapter).
`wf0` speaks of word 0, `wf1` of word 1; a value that fails is an illegal encoding, trap 0x01 (R33). ENG limits are no part of
this check: they are trap 0x0D at issue (R33, log 5). A device step has no encoding and is well formed as it stands. -/

namespace Sys2Proof

/-- R21, R33: G is 0-23, or 31 with GN = 0. -/
def Guard.wf (g : Guard) : Bool := g.g.toNat < 24 || (g.g == 31 && !g.gn)

/-- The unguarded form (R21). -/
def Guard.always : Guard := { gn := false, g := 31 }

/-- R27 type codes: the float, integer and signed members the vector chapter calls F, I and I_s (R96). -/
def tyF : List Nat := [8, 9, 10]
def tyI : List Nat := [0, 1, 2, 4, 5, 6]
def tyIs : List Nat := [0, 1, 2]
/-- The types of VBCAST, VINS, VEXT (R103). -/
def tyMove : List Nat := [0, 1, 2, 4, 5, 6, 8, 9, 10, 11, 12]
/-- The types of VCVT (R100) and of FCVT (R71). -/
def tyVcvt : List Nat := [0, 1, 2, 4, 5, 6, 8, 9, 10, 11, 12, 13, 14]
def tyFcvt : List Nat := [2, 3, 6, 7, 8, 9, 10, 11, 12]

/-- R68: integer and float condition codes. -/
def ccInt (n : Nat) : Bool := n < 10
def ccFp (n : Nat) : Bool := n < 6 || n == 10 || n == 11

/-- R89: elements per row of a type code. -/
def elemsPerRow (ty : Nat) : Nat :=
  if ty == 2 || ty == 6 || ty == 10 then 192
  else if ty == 1 || ty == 5 || ty == 8 || ty == 9 then 384
  else if ty == 13 || ty == 14 then 1536
  else if ty == 3 || ty == 7 then 96
  else 768

/-- A predicate that may be written: p1-p23 (R35). -/
def predDest (n : BitVec 6) : Bool := 0 < n.toNat && n.toNat < 24
/-- A predicate that may be read: p0-p23. -/
def predSrc (n : BitVec 6) : Bool := n.toNat < 24

/-- The operand fields an instruction does not use are zero (R32, R33); `m` says for D, A, B, C whether it is used. -/
def RF.uses (f : RF) (d a b c : Bool) : Bool :=
  f.gd.wf && (d || f.d == 0) && (a || f.a == 0) && (b || f.b == 0) && (c || f.c == 0)

/-- TY, RM and FN all zero. -/
def RF.plain (f : RF) : Bool := f.ty == 0 && f.rm == 0 && f.fn == 0

/-- FN has no bit outside the mask. -/
def RF.fnIn (f : RF) (mask : BitVec 8) : Bool := (f.fn &&& ~~~mask) == 0

def RF.tyIn (f : RF) (l : List Nat) : Bool := l.contains f.ty.toNat

/-- RM is one of the five modes (R27), or zero for an integer type (R93). -/
def RF.rmF (f : RF) : Bool := if f.tyIn tyF then f.rm.toNat < 5 else f.rm == 0

def IF.uses (f : IF) (d a b : Bool) : Bool :=
  f.gd.wf && (d || f.d == 0) && (a || f.a == 0) && (b || f.b == 0)

def MF.uses (f : MF) (d a b : Bool) : Bool :=
  f.gd.wf && f.sc.toNat < 5 && (d || f.d == 0) && (a || f.a == 0) && (b || f.b == 0)

/-- K, SC, AQ, RL and SZ zero. -/
def MF.noOrder (f : MF) : Bool := f.k == 0 && !f.aq && !f.rl

def LF.uses (f : LF) (a : Bool) : Bool := f.gd.wf && f.d == 0 && (a || f.a == 0) && f.b == 0

/-- R28: the word 1 fields that every engine command checks. -/
def EF.word1 (f : EF) : Bool := f.sc.toNat < 5 && (if f.ev then f.term.toNat < 8 else f.term == 0)

/-- K, SC, AQ, RL, EV and TERM zero (R227, R246, R315, R354). -/
def EF.bare (f : EF) : Bool := f.k == 0 && f.sc == 0 && !f.aq && !f.rl && !f.ev && f.term == 0

/-- R43: numbers of control words that MFC may name. -/
def ctlReadable (n : Nat) : Bool :=
  n < 4 || (0x10 ≤ n && n ≤ 0x14) || n == 0x20 || n == 0x21 || n == 0x30 || n == 0x31 || n == 0x40 || n == 0x41 ||
  n == 0x50 || n == 0x51 || (0x60 ≤ n && n ≤ 0x6B) || n == 0x70 || (0x80 ≤ n && n ≤ 0x8F) || (0xA0 ≤ n && n ≤ 0xA2) ||
  (0xB0 ≤ n && n ≤ 0xB3) || (0xB8 ≤ n && n ≤ 0xBF)

/-- R43: numbers whose write column is not "none" and that have no table row of their own. -/
def ctlPlainWrite (n : Nat) : Bool := n < 4 || n == 0x30 || n == 0x31

/-- R71: FCVT's two types, which differ. -/
def fcvtTypes (f : RF) : Bool :=
  f.tyIn tyFcvt && tyFcvt.contains f.fn.toNat && f.ty.toNat != f.fn.toNat

/-- R100: VCVT's types and part. -/
def vcvtTypes (f : RF) : Bool :=
  let src := (f.fn.extractLsb' 0 4).toNat
  let part := (f.fn.extractLsb' 4 3).toNat
  let ns := elemsPerRow src
  let nd := elemsPerRow f.ty.toNat
  f.tyIn tyVcvt && tyVcvt.contains src && src != f.ty.toNat && !f.fn.getLsbD 7 && part < max ns nd / min ns nd

/-- R66-R67: BFX and BFI position and length. -/
def fieldRange (f : RF) : Bool := 0 < f.fn.toNat && f.fn.toNat ≤ 64 && f.c.toNat + f.fn.toNat ≤ 64

/-- R261: the PWRB fields with the state bits given. -/
def pwrbFields (f : IF) (st : BitVec 2) : Bool :=
  f.uses false false false && f.x.extractLsb' 10 22 == 0 && f.x.extractLsb' 4 4 != 0 && f.x.extractLsb' 2 2 == 0 &&
  f.x.extractLsb' 0 2 == st

/-- R226: a conversion's rounding mode; without a conversion RM is zero, and rsr is never accepted. -/
def EF.convRm (f : EF) : Bool := if f.r.ty == 0 && f.r.fn == 0 then f.r.rm == 0 else f.r.rm.toNat < 4

/-- R226: TY is a code of R27 and FN[7:4] is zero. -/
def EF.convTy (f : EF) : Bool := f.r.ty != 15 && f.r.fnIn 0x0F && f.r.fn != 15

/-- Word 0 of the instruction holds no value that R33 refuses. -/
def Instr.wf0 : Instr → Bool
  | .nop f | .done f | .eret f | .yield f => f.uses false false false false && f.plain
  | .yieldQ f => f.uses false false false false && f.ty == 0 && f.rm == 0 && f.fn == 1
  | .ptb f => f.uses true false false && f.d.toNat < 8
  | .ptbr f => f.uses true true false false && f.plain && f.d.toNat < 8
  | .bt f | .btl f => f.uses false true false false && f.plain && f.a.toNat < 8
  | .loop f => f.uses false && f.fin != 0
  | .loopr f => f.uses true && f.fin != 0 && f.cnt == 0
  | .lbrk f => f.uses false && f.fin == 0 && f.cnt == 0
  | .trap f | .brk f | .sysc f => f.uses false false false
  | .add f | .sub f | .mul f | .mulh f | .mulhw f | .div f | .divw f | .rem f | .remw f | .and f | .or f | .xor f | .andn f
  | .shl f | .shr f | .sar f | .rot f | .min f | .max f | .minw f | .maxw f => f.uses true true true false && f.plain
  | .clz f | .ctz f | .popc f | .mov f => f.uses true true false false && f.plain
  | .addi f | .andi f | .ori f => f.uses true true false
  | .sext f => f.uses true true false false && f.tyIn [0, 1, 2] && f.rm == 0 && f.fn == 0
  | .zext f => f.uses true true false false && f.tyIn [4, 5, 6] && f.rm == 0 && f.fn == 0
  | .li f | .lih f => f.uses true false false
  | .sel f => f.uses true true true true && f.plain && predSrc f.c
  | .cmp f => f.uses true true true false && predDest f.d && f.ty == 0 && f.rm == 0 && ccInt f.fn.toNat
  | .cmpi f => f.uses true true true && predDest f.d && ccInt f.b.toNat
  | .addx f => f.uses true true true false && f.ty == 0 && f.rm == 0 && f.fn.toNat < 8
  | .bfx f => f.uses true true false true && f.tyIn [3, 7] && f.rm == 0 && fieldRange f
  | .bfi f => f.uses true true false true && f.ty == 0 && f.rm == 0 && fieldRange f
  | .fadd f | .fsub f | .fmul f | .fdiv f => f.uses true true true false && f.ty == 10 && f.rm.toNat < 5 && f.fn == 0
  | .ffma f => f.uses true true true true && f.ty == 10 && f.rm.toNat < 5 && f.fn == 0
  | .fsqrt f => f.uses true true false false && f.ty == 10 && f.rm.toNat < 5 && f.fn == 0
  | .fmin f | .fmax f => f.uses true true true false && f.ty == 10 && f.rm == 0 && f.fn == 0
  | .fabs f | .fneg f => f.uses true true false false && f.ty == 10 && f.rm == 0 && f.fn == 0
  | .fcmp f => f.uses true true true false && predDest f.d && f.ty == 10 && f.rm == 0 && ccFp f.fn.toNat
  | .fcvt f => f.uses true true false false && f.rm.toNat < 5 && fcvtTypes f
  | .psetClear f => f.uses true false false false && predDest f.d && f.plain
  | .psetSet f => f.uses true false false false && predDest f.d && f.ty == 0 && f.rm == 0 && f.fn == 1
  | .psetGroup f => f.uses true true false false && predDest f.d && f.ty == 0 && f.rm == 0 && 2 ≤ f.fn.toNat && f.fn.toNat ≤ 4
  | .pand f | .por f | .pxor f | .pandn f =>
    f.uses true true true false && f.plain && predDest f.d && predSrc f.a && predSrc f.b
  | .pnot f | .pfirst f | .vany f | .vall f => f.uses true true false false && f.plain && predDest f.d && predSrc f.a
  | .pcnt f => f.uses true true false false && f.plain && predSrc f.a
  | .plen f => f.uses true true false false && f.plain && predDest f.d
  | .ld f | .lds f => f.uses true true true && f.sz.toNat < 4 && !f.rl
  | .st f => f.uses true true true && f.sz.toNat < 4 && !f.aq
  | .ldx f => f.uses true true false && (f.sz == 2 || f.sz == 3) && !f.rl
  | .stx f => f.uses true true true && (f.sz == 2 || f.sz == 3) && !f.aq
  | .aadd f | .amin f | .amax f | .aminw f | .amaxw f | .aand f | .aor f | .axor f | .axch f | .acas f =>
    f.uses true true true && (f.sz == 2 || f.sz == 3)
  | .fence f => f.uses false false false && f.noOrder && f.sz == 0 && f.disp.extractLsb' 16 4 == 0 && f.disp != 0
  | .fencel f => f.uses false false false && f.noOrder && f.sc == 0 && f.sz == 0 && f.disp == 0
  | .fenceh f => f.uses false false false && f.noOrder && f.sc != 0 && f.sz == 0 && f.disp == 0
  | .mbr f => f.uses true false false && f.x.toNat < 16
  | .mbw f => f.uses false true false && f.x.toNat < 16
  | .mfc f => f.uses true false false && ctlReadable f.x.toNat
  | .mtc f => f.uses false true false && ctlPlainWrite f.x.toNat
  | .rngSeedWrite f => f.uses false true false && f.x == 0x21
  | .engPoisonClear f => f.uses false true false && f.x == 0x41
  | .accGrantWrite f => f.uses false true false && f.x == 0xA2
  | .viewWordWrite f => f.uses false true false && (f.x == 0xA0 || f.x == 0xA1)
  | .loopCounterWrite f => f.uses false true false && 0xB0 ≤ f.x.toNat && f.x.toNat ≤ 0xB3
  | .branchTargetWrite f => f.uses false true false && 0xB8 ≤ f.x.toNat && f.x.toNat ≤ 0xBF
  | .xbGainWrite f => f.uses false true false && 0x68 ≤ f.x.toNat && f.x.toNat ≤ 0x6B
  | .xbSymWrite f => f.uses false true false && 0x64 ≤ f.x.toNat && f.x.toNat ≤ 0x67
  | .tlbiPage f => f.uses false true false && f.noOrder && f.sc != 0 && f.sz == 0
  | .tlbiAll f => f.uses false false false && f.noOrder && f.sc != 0 && f.sz == 3 && f.disp == 0
  | .pwrbOn f => pwrbFields f 3
  | .pwrbRet f => pwrbFields f 1
  | .pwrbOff f => pwrbFields f 0
  | .spawn f | .walk f => f.uses false true false false && f.plain
  | .spawnG f => f.uses false true true false && f.ty == 0 && f.rm == 0 && f.fn == 1
  | .join f | .waitf f => f.uses true true false false && f.plain
  | .renqCpy f => f.uses false true true false && f.plain
  | .renqGat f => f.uses false true true false && f.ty == 0 && f.rm == 0 && f.fn == 1
  | .rngtCfg f => f.uses false true true true && f.plain && f.c.toNat < 16
  | .rngt f => f.uses true false false true && f.ty == 0 && f.rm == 0 && f.fn == 1 && f.c.toNat < 16
  | .pipewGet f | .piperGet f => f.uses true false true false && f.plain
  | .pipewPut f | .piperPut f => f.uses false false true false && f.ty == 0 && f.rm == 0 && f.fn == 1
  | .bar f => f.uses true false false true && f.plain && f.c.toNat < 16
  | .barCfg f => f.uses false true false true && f.ty == 0 && f.rm == 0 && f.fn == 1 && f.c.toNat < 16
  | .gbar f => f.uses true false false true && f.plain && f.c.toNat < 4
  | .sendh f => f.uses false true true true && f.ty == 0 && f.rm == 0
  | .vadd f | .vsub f | .vmul f =>
    f.uses true true true false && f.tyIn (tyF ++ tyI) && f.rmF && f.fnIn (if f.tyIn tyI then 0xC0 else 0x80)
  | .vfma f => f.uses true true true true && f.tyIn tyF && f.rmF && f.fnIn 0x80
  | .vmin f | .vmax f => f.uses true true true false && f.tyIn (tyF ++ tyI) && f.rm == 0 && f.fnIn 0x80
  | .vabs f => f.uses true true false false && f.tyIn (tyF ++ tyIs) && f.rm == 0 && f.fnIn (if f.tyIn tyI then 0x40 else 0)
  | .vneg f => f.uses true true false false && f.tyIn (tyF ++ tyI) && f.rm == 0 && f.fnIn (if f.tyIn tyI then 0x40 else 0)
  | .vand f | .vor f | .vxor f => f.uses true true true false && f.ty == 0 && f.rm == 0 && f.fnIn 0x80
  | .vshl f | .vshr f | .vsar f => f.uses true true true false && f.tyIn tyI && f.rm == 0 && f.fnIn 0x80
  | .vcmp f => f.uses true true true false && predDest f.d && f.rm == 0 &&
      ((f.ty == 10 && ccFp (f.fn.toNat % 128)) || (f.ty == 2 && ccInt (f.fn.toNat % 128)))
  | .vsel f => f.uses true true true true && predSrc f.c && f.ty == 0 && f.rm == 0 && f.fnIn 0x80
  | .vclamp f => f.uses true true true true && f.tyIn (tyF ++ tyI) && f.rm == 0 && f.fnIn 0x80
  | .vcvt f => f.uses true true false false && f.rm.toNat < 5 && vcvtTypes f
  | .vreds f => f.uses true true false false && f.tyIn [2, 6, 9, 10] && f.rm == 0 && f.fn == 0
  | .vredmMax f => f.uses true true false false && f.tyIn [2, 6, 9, 10] && f.rm == 0 && f.fn == 0
  | .vredmMin f => f.uses true true false false && f.tyIn [2, 6, 9, 10] && f.rm == 0 && f.fn == 1
  | .vscanInc f => f.uses true true false false && f.tyIn [2, 6, 10] && f.rm == 0 && f.fn == 0
  | .vscanExc f => f.uses true true false false && f.tyIn [2, 6, 10] && f.rm == 0 && f.fn == 1
  | .vperm f => f.uses true true true false && f.plain
  | .vpermTwo f => f.uses true true true true && f.ty == 0 && f.rm == 0 && f.fn == 1
  | .vbcast f => f.uses true true false false && f.tyIn tyMove && f.rm == 0 && f.fn == 0
  | .vbcastElement f => f.uses true true true false && f.tyIn tyMove && f.rm == 0 && f.fn == 1
  | .vins f | .vext f => f.uses true true true false && f.tyIn tyMove && f.rm == 0 && f.fn == 0
  | .viota f => f.uses true true false false && f.tyIn tyI && f.rm == 0 && f.fn == 0
  | .vld f => f.uses true true true && f.sz == 4 && !f.rl && (f.b == 0 || !f.disp.getLsbD 19)
  | .vst f => f.uses true true true && f.sz == 4 && !f.aq && (f.b == 0 || !f.disp.getLsbD 19)
  | .vldt f => f.uses true true true && f.sz == 4 && !f.rl && (f.b == 0 || !f.disp.getLsbD 19) && f.d.toNat < 16
  | .vrng f => f.uses true false false false && f.plain
  | .vkrng f => f.uses true true true false && f.plain
  | .setvwV f => f.uses false true true false && f.plain
  | .setvwT f => f.uses false true true false && f.ty == 0 && f.rm == 0 && f.fn == 1
  | .tld f => f.uses true true true && f.sz == 0 && !f.rl && f.d.toNat < 8
  | .tev f => f.uses true true false false && f.tyIn [9, 10] && f.rm.toNat < 5 && f.fn.toNat < 8
  | .tcfgInv f => f.uses false false false true && f.plain && f.c.toNat < 8
  | .tcfgStat f => f.uses true false false true && f.ty == 0 && f.rm == 0 && f.fn == 1 && f.c.toNat < 8
  | .amov f => f.uses true true false true && f.plain
  | .aclr f => f.uses false true true true && f.plain
  | .aldv f => f.uses false true true true && f.plain
  | .aldvAdd f => f.uses false true true true && f.ty == 0 && f.rm.toNat < 5 && f.fn == 1
  | .admitRow f => f.uses true true true true && predDest f.d && f.plain
  | .admitView f => f.uses true true true false && predDest f.d && f.ty == 0 && f.rm == 0 && f.fn == 1
  | .cpy f | .gath f => f.r.uses true true true true && f.convTy && f.convRm
  | .gathSum f => f.r.uses true true true true && f.convTy && f.r.rm == 0
  | .scad f => f.r.uses true true true true && f.convTy && f.r.rm == 0
  | .cpyFill f | .cpyFrom f | .cpyTo f => f.r.uses true true true true && f.r.plain
  | .collBcast f => f.r.uses true true true true && f.convTy && f.r.rm == 0
  | .collSum f | .collMax f | .collMin f => f.r.uses true true true true && f.convTy && f.r.rm.toNat < 4
  | .cpyw f | .ccan f | .cpoll f => f.r.uses true true false false && f.r.plain
  | .cpywAll f => f.r.uses true false false false && f.r.plain
  | .evcfgCnt f | .evcfgTerm f => f.r.uses false true false false && f.r.plain
  | .evarm f | .evarmClr f => f.r.uses false false false false && f.r.plain
  | .evarmStat f => f.r.uses true false false false && f.r.plain
  | .mstn f => f.r.uses false false false false && f.r.tyIn [13, 14] && f.r.rm == 0 && f.r.fn == 0
  | .mldw f => f.r.uses false true false false && f.r.tyIn [13, 14] && f.r.rm == 0 && f.r.fn == 0
  | .mms f => f.r.uses true true true false && f.r.tyIn [9, 11, 12] && f.r.rm == 0 && f.r.fn == 0
  | .scacc f => f.r.uses true true true false && f.r.ty == 0 && f.r.rm.toNat < 4 && f.r.fn == 0
  | .mrls f | .mhintMms f | .mhintXmv f => f.r.uses false false false false && f.r.plain
  | .xmv f | .xmvt f => f.r.uses true true false false && f.r.tyIn [9, 10, 11, 12] && f.r.rm == 0 && f.r.fn == 0
  | .xupd f => f.r.uses true true true true && f.r.tyIn [9, 10] && f.r.rm == 0 && f.r.fn == 0
  | .xdep f | .xdepRst f => f.r.uses false false false true && f.r.plain
  | .xcal f => f.r.uses false false false false && f.r.plain
  | .xsym f | .xrd f | .xpgm f | .xstatBlk f => f.r.uses false true false false && f.r.plain
  | .xstat f | .xstatWait f => f.r.uses true false false false && f.r.plain
  | .pcfg f | .rjsend f => f.r.uses true true true false && f.r.plain
  | .rjcfg f | .rjcfgVer f => f.r.uses false true false false && f.r.plain
  | .rjseal f | .rjtake f | .strd f | .mdec f => f.r.uses true true false false && f.r.plain
  | .mrsz f => f.r.uses true true false false && f.r.tyIn [9, 11, 12] && f.r.rm.toNat < 4 && f.r.fn == 0
  | _ => true

/-- Word 1 of an engine command holds no value that R33 refuses; SUB is the value of the form. -/
def Instr.wf1 : Instr → Bool
  | .cpy f | .gath f | .scad f | .collBcast f => f.word1 && f.sub == 0
  | .cpyFill f | .gathSum f | .collSum f => f.word1 && f.sub == 1
  | .cpyFrom f | .collMax f => f.word1 && f.sub == 2
  | .cpyTo f | .collMin f => f.word1 && f.sub == 3
  | .cpyw f | .ccan f | .cpoll f | .evcfgCnt f | .evarm f | .mstn f | .mrls f | .mhintMms f | .xstat f | .rjcfg f | .rjtake f =>
    f.bare && f.sub == 0
  | .cpywAll f | .evcfgTerm f | .evarmClr f | .mhintXmv f | .xstatWait f | .rjcfgVer f => f.bare && f.sub == 1
  | .evarmStat f | .xstatBlk f => f.bare && f.sub == 2
  | .mldw f | .mms f | .scacc f | .xmv f | .xmvt f | .xupd f | .xsym f | .xrd f | .xpgm f | .pcfg f | .rjsend f | .strd f | .mdec f
  | .mrsz f => f.word1 && f.sub == 0
  | .xdep f => f.word1 && f.sub == 0 && !f.eng.getLsbD 8
  | .xdepRst f => f.word1 && f.sub == 0 && f.eng.getLsbD 8
  | .xcal f => f.word1 && f.sub == 0 && f.k == 0 && f.sc == 0 && !f.aq && !f.rl
  | .rjseal f => f.word1 && f.sub == 0 && !f.ev
  | _ => true

/-- The instruction holds no field value that R33 refuses. -/
def Instr.wf (i : Instr) : Bool := i.wf0 && i.wf1

end Sys2Proof
end

