-- ==== Sys2Proof/Decode.lean ====
section
/-! DEFINITION. Decoding of instruction words and their encoder (spec/02 R20-R34).
`decode` is total on words, `decodeBytes` on any bytes; an encoding that is no instruction is refused with the reason and
the offending word (R33, R34). `encode` writes the words of an instruction from the same layouts. -/

namespace Sys2Proof

/-! ## Bytes and words -/

/-- Little-endian value of bytes, first byte lowest (R20). -/
def leNat : List Byte → Nat
  | [] => 0
  | b :: bs => b.toNat + 256 * leNat bs

/-- The `n` low bytes of a number, lowest first. -/
def leBytes : Nat → Nat → List Byte
  | 0, _ => []
  | n + 1, v => BitVec.ofNat 8 v :: leBytes n (v / 256)

/-! ## The layouts (R21-R28) -/

/-- R21: word 0. -/
def packWord0 (op : Nat) (gd : Guard) (d a b : BitVec 6) (x : BitVec 32) : Word :=
  BitVec.ofNat 8 op ++ d ++ a ++ b ++ BitVec.ofBool gd.gn ++ gd.g ++ x

/-- R21: fields of word 0. -/
def opOf (w : Word) : Nat := (w.extractLsb' 56 8).toNat
def guardOf (w : Word) : Guard := { gn := w.getLsbD 37, g := w.extractLsb' 32 5 }
def dOf (w : Word) : BitVec 6 := w.extractLsb' 50 6
def aOf (w : Word) : BitVec 6 := w.extractLsb' 44 6
def bOf (w : Word) : BitVec 6 := w.extractLsb' 38 6
def xOf (w : Word) : BitVec 32 := w.extractLsb' 0 32

/-- R23: X of the R format. -/
def packR (f : RF) : BitVec 32 := f.c ++ f.ty ++ f.rm ++ (0 : BitVec 3) ++ f.fn ++ (0 : BitVec 8)
def unpackR (w : Word) : RF :=
  { gd := guardOf w, d := dOf w, a := aOf w, b := bOf w, c := w.extractLsb' 26 6, ty := w.extractLsb' 22 4,
    rm := w.extractLsb' 19 3, fn := w.extractLsb' 8 8 }
/-- R23: the reserved bits of the R format are zero. -/
def rReserved (w : Word) : Bool := w.extractLsb' 16 3 == 0 && w.extractLsb' 0 8 == 0

/-- R23: X of the I format. -/
def unpackI (w : Word) : IF := { gd := guardOf w, d := dOf w, a := aOf w, b := bOf w, x := xOf w }

/-- R24: X of the M format. -/
def packM (f : MF) : BitVec 32 := f.k ++ f.sc ++ BitVec.ofBool f.aq ++ BitVec.ofBool f.rl ++ f.sz ++ f.disp
def unpackM (w : Word) : MF :=
  { gd := guardOf w, d := dOf w, a := aOf w, b := bOf w, k := w.extractLsb' 28 4, sc := w.extractLsb' 25 3,
    aq := w.getLsbD 24, rl := w.getLsbD 23, sz := w.extractLsb' 20 3, disp := w.extractLsb' 0 20 }

/-- R25: X of the L format. -/
def packL (f : LF) : BitVec 32 := f.lvl ++ f.cnt ++ f.fin
def unpackL (w : Word) : LF :=
  { gd := guardOf w, d := dOf w, a := aOf w, b := bOf w, lvl := w.extractLsb' 30 2, cnt := w.extractLsb' 16 14,
    fin := w.extractLsb' 0 16 }

/-- R28: word 1. -/
def packWord1 (f : EF) : Word :=
  f.k ++ f.sc ++ BitVec.ofBool f.aq ++ BitVec.ofBool f.rl ++ BitVec.ofBool f.ev ++ f.term ++ f.sub ++ f.eng
def unpackE (w v : Word) : EF :=
  { r := unpackR w, k := v.extractLsb' 60 4, sc := v.extractLsb' 57 3, aq := v.getLsbD 56, rl := v.getLsbD 55,
    ev := v.getLsbD 54, term := v.extractLsb' 48 6, sub := v.extractLsb' 40 8, eng := v.extractLsb' 0 40 }

/-! ## The opcode map (R31, R32) -/

/-- The formats of R32; `none` for OP 0x00 and the reserved opcodes. -/
inductive Format where
  | r
  | i
  | m
  | l
  | e
  deriving DecidableEq, Repr

def formatOf (op : Nat) : Option Format :=
  if op = 0 then none
  else if op == 0x02 || op == 0x09 || op == 0x0A || op == 0x0D || op == 0x17 || op == 0x19 || op == 0x29 || op == 0x2A ||
      op == 0x2E || (0x5B ≤ op && op ≤ 0x5E) || op == 0x60 || op == 0x62 then some .i
  else if (0x49 ≤ op && op ≤ 0x5A) || op == 0x61 || (0x88 ≤ op && op ≤ 0x8A) || op == 0x8F then some .m
  else if 0x06 ≤ op && op ≤ 0x08 then some .l
  else if op ≤ 0x95 then some .r
  else if 0xC0 ≤ op && op ≤ 0xDF then some .e
  else none

/-- The MTC form a control-word number selects (R43; the words with a row of their own). -/
def mtcForm (f : IF) : Instr :=
  let n := f.x.toNat
  if n == 0x21 then .rngSeedWrite f else if n == 0x41 then .engPoisonClear f else if n == 0xA2 then .accGrantWrite f
  else if n == 0xA0 || n == 0xA1 then .viewWordWrite f else if 0xB0 ≤ n && n ≤ 0xB3 then .loopCounterWrite f
  else if 0xB8 ≤ n && n ≤ 0xBF then .branchTargetWrite f else if 0x68 ≤ n && n ≤ 0x6B then .xbGainWrite f
  else if 0x64 ≤ n && n ≤ 0x67 then .xbSymWrite f else .mtc f

/-- R31, R32: the R and V format instruction of an opcode (part 0). -/
def selectR0 (op : Nat) (f : RF) : Option Instr :=
  match op with
  | 0x01 => some (.nop f)
  | 0x03 => some (.ptbr f)
  | 0x04 => some (.bt f)
  | 0x05 => some (.btl f)
  | 0x0B => some (.done f)
  | 0x0C => some (.add f)
  | 0x0E => some (.sub f)
  | 0x0F => some (.mul f)
  | 0x10 => some (.mulh f)
  | 0x11 => some (.mulhw f)
  | 0x12 => some (.div f)
  | 0x13 => some (.divw f)
  | 0x14 => some (.rem f)
  | 0x15 => some (.remw f)
  | 0x16 => some (.and f)
  | 0x18 => some (.or f)
  | 0x1A => some (.xor f)
  | 0x1B => some (.andn f)
  | 0x1C => some (.shl f)
  | 0x1D => some (.shr f)
  | 0x1E => some (.sar f)
  | 0x1F => some (.rot f)
  | 0x20 => some (.clz f)
  | 0x21 => some (.ctz f)
  | 0x22 => some (.popc f)
  | 0x23 => some (.min f)
  | 0x24 => some (.max f)
  | 0x25 => some (.minw f)
  | 0x26 => some (.maxw f)
  | 0x27 => some (.sext f)
  | 0x28 => some (.zext f)
  | 0x2B => some (.mov f)
  | 0x2C => some (.sel f)
  | 0x2D => some (.cmp f)
  | 0x2F => some (.addx f)
  | 0x30 => some (.bfx f)
  | 0x31 => some (.bfi f)
  | 0x32 => some (.fadd f)
  | 0x33 => some (.fsub f)
  | 0x34 => some (.fmul f)
  | _ => none

/-- R31, R32: the R and V format instruction of an opcode (part 1). -/
def selectR1 (op : Nat) (f : RF) : Option Instr :=
  match op with
  | 0x35 => some (.ffma f)
  | 0x36 => some (.fdiv f)
  | 0x37 => some (.fsqrt f)
  | 0x38 => some (.fmin f)
  | 0x39 => some (.fmax f)
  | 0x3A => some (.fabs f)
  | 0x3B => some (.fneg f)
  | 0x3C => some (.fcmp f)
  | 0x3D => some (.fcvt f)
  | 0x3E => match f.fn.toNat with | 0 => some (.psetClear f) | 1 => some (.psetSet f) | 2 => some (.psetGroup f) | 3 => some (.psetGroup f) | 4 => some (.psetGroup f) | _ => none
  | 0x3F => some (.pand f)
  | 0x40 => some (.por f)
  | 0x41 => some (.pxor f)
  | 0x42 => some (.pandn f)
  | 0x43 => some (.pnot f)
  | 0x44 => some (.pfirst f)
  | 0x45 => some (.pcnt f)
  | 0x46 => some (.plen f)
  | 0x47 => some (.vany f)
  | 0x48 => some (.vall f)
  | 0x5F => some (.eret f)
  | 0x63 => match f.fn.toNat with | 0 => some (.spawn f) | 1 => some (.spawnG f) | _ => none
  | 0x64 => some (.join f)
  | 0x65 => some (.waitf f)
  | 0x66 => match f.fn.toNat with | 0 => some (.yield f) | 1 => some (.yieldQ f) | _ => none
  | 0x67 => match f.fn.toNat with | 0 => some (.renqCpy f) | 1 => some (.renqGat f) | _ => none
  | 0x68 => match f.fn.toNat with | 0 => some (.rngtCfg f) | 1 => some (.rngt f) | _ => none
  | 0x69 => match f.fn.toNat with | 0 => some (.pipewGet f) | 1 => some (.pipewPut f) | _ => none
  | 0x6A => match f.fn.toNat with | 0 => some (.piperGet f) | 1 => some (.piperPut f) | _ => none
  | 0x6B => match f.fn.toNat with | 0 => some (.bar f) | 1 => some (.barCfg f) | _ => none
  | 0x6C => some (.gbar f)
  | 0x6D => some (.walk f)
  | 0x6E => some (.sendh f)
  | 0x6F => some (.vadd f)
  | 0x70 => some (.vsub f)
  | 0x71 => some (.vmul f)
  | 0x72 => some (.vfma f)
  | 0x73 => some (.vmin f)
  | 0x74 => some (.vmax f)
  | 0x75 => some (.vabs f)
  | _ => none

/-- R31, R32: the R and V format instruction of an opcode (part 2). -/
def selectR2 (op : Nat) (f : RF) : Option Instr :=
  match op with
  | 0x76 => some (.vneg f)
  | 0x77 => some (.vand f)
  | 0x78 => some (.vor f)
  | 0x79 => some (.vxor f)
  | 0x7A => some (.vshl f)
  | 0x7B => some (.vshr f)
  | 0x7C => some (.vsar f)
  | 0x7D => some (.vcmp f)
  | 0x7E => some (.vsel f)
  | 0x7F => some (.vcvt f)
  | 0x80 => some (.vclamp f)
  | 0x81 => some (.vreds f)
  | 0x82 => match f.fn.toNat with | 0 => some (.vredmMax f) | 1 => some (.vredmMin f) | _ => none
  | 0x83 => match f.fn.toNat with | 0 => some (.vscanInc f) | 1 => some (.vscanExc f) | _ => none
  | 0x84 => match f.fn.toNat with | 0 => some (.vperm f) | 1 => some (.vpermTwo f) | _ => none
  | 0x85 => match f.fn.toNat with | 0 => some (.vbcast f) | 1 => some (.vbcastElement f) | _ => none
  | 0x86 => some (.vins f)
  | 0x87 => some (.vext f)
  | 0x8B => some (.vrng f)
  | 0x8C => some (.vkrng f)
  | 0x8D => some (.viota f)
  | 0x8E => match f.fn.toNat with | 0 => some (.setvwV f) | 1 => some (.setvwT f) | _ => none
  | 0x90 => some (.tev f)
  | 0x91 => match f.fn.toNat with | 0 => some (.tcfgInv f) | 1 => some (.tcfgStat f) | _ => none
  | 0x92 => some (.amov f)
  | 0x93 => some (.aclr f)
  | 0x94 => match f.fn.toNat with | 0 => some (.aldv f) | 1 => some (.aldvAdd f) | _ => none
  | 0x95 => match f.fn.toNat with | 0 => some (.admitRow f) | 1 => some (.admitView f) | _ => none
  | _ => none

/-- R31, R32: the R and V format instruction of an opcode. -/
def selectR (op : Nat) (f : RF) : Option Instr :=
  if op ≤ 0x34 then selectR0 op f else if op ≤ 0x75 then selectR1 op f else selectR2 op f

/-- R31, R32: the I format instruction of an opcode. -/
def selectI (op : Nat) (f : IF) : Option Instr :=
  match op with
  | 0x02 => some (.ptb f)
  | 0x09 => some (.trap f)
  | 0x0A => some (.brk f)
  | 0x0D => some (.addi f)
  | 0x17 => some (.andi f)
  | 0x19 => some (.ori f)
  | 0x29 => some (.li f)
  | 0x2A => some (.lih f)
  | 0x2E => some (.cmpi f)
  | 0x5B => some (.mbr f)
  | 0x5C => some (.mbw f)
  | 0x5D => some (.mfc f)
  | 0x5E => some (mtcForm f)
  | 0x60 => some (.sysc f)
  | 0x62 => match (f.x.extractLsb' 0 2).toNat with | 0 => some (.pwrbOff f) | 1 => some (.pwrbRet f) | 3 => some (.pwrbOn f) | _ => none
  | _ => none

/-- R31, R32: the M format instruction of an opcode. -/
def selectM (op : Nat) (f : MF) : Option Instr :=
  match op with
  | 0x49 => some (.ld f)
  | 0x4A => some (.lds f)
  | 0x4B => some (.st f)
  | 0x4C => some (.ldx f)
  | 0x4D => some (.stx f)
  | 0x4E => some (.aadd f)
  | 0x4F => some (.amin f)
  | 0x50 => some (.amax f)
  | 0x51 => some (.aminw f)
  | 0x52 => some (.amaxw f)
  | 0x53 => some (.aand f)
  | 0x54 => some (.aor f)
  | 0x55 => some (.axor f)
  | 0x56 => some (.axch f)
  | 0x57 => some (.acas f)
  | 0x58 => some (.fence f)
  | 0x59 => some (.fencel f)
  | 0x5A => some (.fenceh f)
  | 0x61 => match f.sz.toNat with | 0 => some (.tlbiPage f) | 3 => some (.tlbiAll f) | _ => none
  | 0x88 => some (.vld f)
  | 0x89 => some (.vst f)
  | 0x8A => some (.vldt f)
  | 0x8F => some (.tld f)
  | _ => none

/-- R31, R32: the L format instruction of an opcode. -/
def selectL (op : Nat) (f : LF) : Option Instr :=
  match op with
  | 0x06 => some (.loop f)
  | 0x07 => some (.loopr f)
  | 0x08 => some (.lbrk f)
  | _ => none

/-- R31, R32: the engine-command format instruction of an opcode. -/
def selectE (op : Nat) (f : EF) : Option Instr :=
  match op with
  | 0xC0 => match f.sub.toNat with | 0 => some (.cpy f) | 1 => some (.cpyFill f) | 2 => some (.cpyFrom f) | 3 => some (.cpyTo f) | _ => none
  | 0xC1 => match f.sub.toNat with | 0 => some (.cpyw f) | 1 => some (.cpywAll f) | _ => none
  | 0xC2 => some (.ccan f)
  | 0xC3 => some (.cpoll f)
  | 0xC4 => match f.sub.toNat with | 0 => some (.gath f) | 1 => some (.gathSum f) | _ => none
  | 0xC5 => some (.scad f)
  | 0xC6 => match f.sub.toNat with | 0 => some (.collBcast f) | 1 => some (.collSum f) | 2 => some (.collMax f) | 3 => some (.collMin f) | _ => none
  | 0xC7 => match f.sub.toNat with | 0 => some (.evcfgCnt f) | 1 => some (.evcfgTerm f) | _ => none
  | 0xC8 => match f.sub.toNat with | 0 => some (.evarm f) | 1 => some (.evarmClr f) | 2 => some (.evarmStat f) | _ => none
  | 0xC9 => some (.mstn f)
  | 0xCA => some (.mldw f)
  | 0xCB => some (.mms f)
  | 0xCC => some (.scacc f)
  | 0xCD => some (.mrls f)
  | 0xCE => match f.sub.toNat with | 0 => some (.mhintMms f) | 1 => some (.mhintXmv f) | _ => none
  | 0xCF => some (.xmv f)
  | 0xD0 => some (.xmvt f)
  | 0xD1 => some (.xupd f)
  | 0xD2 => some (if f.eng.getLsbD 8 then .xdepRst f else .xdep f)
  | 0xD3 => some (.xcal f)
  | 0xD4 => some (.xsym f)
  | 0xD5 => some (.xrd f)
  | 0xD6 => some (.xpgm f)
  | 0xD7 => match f.sub.toNat with | 0 => some (.xstat f) | 1 => some (.xstatWait f) | 2 => some (.xstatBlk f) | _ => none
  | 0xD8 => some (.pcfg f)
  | 0xD9 => match f.sub.toNat with | 0 => some (.rjcfg f) | 1 => some (.rjcfgVer f) | _ => none
  | 0xDA => some (.rjseal f)
  | 0xDB => some (.rjsend f)
  | 0xDC => some (.rjtake f)
  | 0xDD => some (.strd f)
  | 0xDE => some (.mdec f)
  | 0xDF => some (.mrsz f)
  | _ => none

/-! ## The decoder -/

/-- Why words are no instruction (R33), by name. -/
inductive Reject where
  /-- fewer bytes than a word -/
  | tooShort
  /-- OP 0x00 or a reserved opcode -/
  | reservedOpcode
  /-- a reserved bit of X is set -/
  | reservedBits
  /-- an FN, SZ or state value the instruction does not list -/
  | unlistedFunction
  /-- a field of word 0 that R33 refuses -/
  | badField
  /-- a SUB value the command does not list -/
  | unlistedSub
  /-- a field of word 1 that R33 refuses -/
  | badWord1
  deriving DecidableEq, Repr

/-- What decoding gives: an instruction and its length in words, a demand for word 1, or a refusal with its offending word. -/
inductive Decoded where
  | instr (i : Instr) (len : Nat)
  | needWord1
  | illegal (why : Reject) (w : Word)
  deriving DecidableEq, Repr

/-- The instruction word 0 names in a single-word format, before its field values are checked. -/
def selectWord (w : Word) : Option Instr :=
  match formatOf (opOf w) with
  | some .r => selectR (opOf w) (unpackR w)
  | some .i => selectI (opOf w) (unpackI w)
  | some .m => selectM (opOf w) (unpackM w)
  | some .l => selectL (opOf w) (unpackL w)
  | _ => none

/-- Checks of word 0 over a selected instruction (R33). -/
def checkWord0 (w : Word) (i : Instr) : Option Reject :=
  if (formatOf (opOf w) == some .r || formatOf (opOf w) == some .e) && !rReserved w then some .reservedBits
  else if !i.wf0 then some .badField
  else none

/-- A single-word instruction (R31-R33). -/
def decodeSingle (w : Word) : Decoded :=
  match selectWord w with
  | none => .illegal .unlistedFunction w
  | some i =>
    match checkWord0 w i with
    | some why => .illegal why w
    | none => .instr i 1

/-- An engine command with its word 1. A fault that lies in word 0 alone or in both words names word 0 (R34). A SUB value that
the command does not list lies in word 1, and word 0 is then judged as for SUB 0. -/
def decodeEngine (w v : Word) : Decoded :=
  match selectE (opOf w) (unpackE w v) with
  | none =>
    match selectE (opOf w) { unpackE w v with sub := 0 } with
    | none => .illegal .reservedOpcode w
    | some i =>
      match checkWord0 w i with
      | some why => .illegal why w
      | none => .illegal .unlistedSub v
  | some i =>
    match checkWord0 w i with
    | some why => .illegal why w
    | none => if i.wf1 then .instr i 2 else .illegal .badWord1 v

/-- Decode word 0 and, where it is there, word 1. -/
def decode (w : Word) (v : Option Word) : Decoded :=
  match formatOf (opOf w) with
  | none => .illegal .reservedOpcode w
  | some .e =>
    match v with
    | none => .needWord1
    | some v => decodeEngine w v
  | some _ => decodeSingle w

/-- Decode from the bytes at an address, lowest first; total on any bytes. -/
def decodeBytes (bs : List Byte) : Decoded :=
  if bs.length < 8 then .illegal .tooShort 0
  else
    let w := BitVec.ofNat 64 (leNat (bs.take 8))
    let rest := bs.drop 8
    decode w (if rest.length < 8 then none else some (BitVec.ofNat 64 (leNat (rest.take 8))))

/-! ## The encoder -/

/-- The bundle of an instruction with its format. -/
inductive Bundle where
  | r (f : RF)
  | i (f : IF)
  | m (f : MF)
  | l (f : LF)
  | e (f : EF)
  deriving DecidableEq, Repr

/-- R31: the opcode and the fields of an instruction; `none` for a device step. -/
def Instr.bundle : Instr → Option (Nat × Bundle)
  | .nop f => some (0x01, .r f)
  | .ptb f => some (0x02, .i f)
  | .ptbr f => some (0x03, .r f)
  | .bt f => some (0x04, .r f)
  | .btl f => some (0x05, .r f)
  | .loop f => some (0x06, .l f)
  | .loopr f => some (0x07, .l f)
  | .lbrk f => some (0x08, .l f)
  | .trap f => some (0x09, .i f)
  | .brk f => some (0x0A, .i f)
  | .done f => some (0x0B, .r f)
  | .add f => some (0x0C, .r f)
  | .addi f => some (0x0D, .i f)
  | .sub f => some (0x0E, .r f)
  | .mul f => some (0x0F, .r f)
  | .mulh f => some (0x10, .r f)
  | .mulhw f => some (0x11, .r f)
  | .div f => some (0x12, .r f)
  | .divw f => some (0x13, .r f)
  | .rem f => some (0x14, .r f)
  | .remw f => some (0x15, .r f)
  | .and f => some (0x16, .r f)
  | .andi f => some (0x17, .i f)
  | .or f => some (0x18, .r f)
  | .ori f => some (0x19, .i f)
  | .xor f => some (0x1A, .r f)
  | .andn f => some (0x1B, .r f)
  | .shl f => some (0x1C, .r f)
  | .shr f => some (0x1D, .r f)
  | .sar f => some (0x1E, .r f)
  | .rot f => some (0x1F, .r f)
  | .clz f => some (0x20, .r f)
  | .ctz f => some (0x21, .r f)
  | .popc f => some (0x22, .r f)
  | .min f => some (0x23, .r f)
  | .max f => some (0x24, .r f)
  | .minw f => some (0x25, .r f)
  | .maxw f => some (0x26, .r f)
  | .sext f => some (0x27, .r f)
  | .zext f => some (0x28, .r f)
  | .li f => some (0x29, .i f)
  | .lih f => some (0x2A, .i f)
  | .mov f => some (0x2B, .r f)
  | .sel f => some (0x2C, .r f)
  | .cmp f => some (0x2D, .r f)
  | .cmpi f => some (0x2E, .i f)
  | .addx f => some (0x2F, .r f)
  | .bfx f => some (0x30, .r f)
  | .bfi f => some (0x31, .r f)
  | .fadd f => some (0x32, .r f)
  | .fsub f => some (0x33, .r f)
  | .fmul f => some (0x34, .r f)
  | .ffma f => some (0x35, .r f)
  | .fdiv f => some (0x36, .r f)
  | .fsqrt f => some (0x37, .r f)
  | .fmin f => some (0x38, .r f)
  | .fmax f => some (0x39, .r f)
  | .fabs f => some (0x3A, .r f)
  | .fneg f => some (0x3B, .r f)
  | .fcmp f => some (0x3C, .r f)
  | .fcvt f => some (0x3D, .r f)
  | .psetClear f => some (0x3E, .r f)
  | .psetSet f => some (0x3E, .r f)
  | .psetGroup f => some (0x3E, .r f)
  | .pand f => some (0x3F, .r f)
  | .por f => some (0x40, .r f)
  | .pxor f => some (0x41, .r f)
  | .pandn f => some (0x42, .r f)
  | .pnot f => some (0x43, .r f)
  | .pfirst f => some (0x44, .r f)
  | .pcnt f => some (0x45, .r f)
  | .plen f => some (0x46, .r f)
  | .vany f => some (0x47, .r f)
  | .vall f => some (0x48, .r f)
  | .ld f => some (0x49, .m f)
  | .lds f => some (0x4A, .m f)
  | .st f => some (0x4B, .m f)
  | .ldx f => some (0x4C, .m f)
  | .stx f => some (0x4D, .m f)
  | .aadd f => some (0x4E, .m f)
  | .amin f => some (0x4F, .m f)
  | .amax f => some (0x50, .m f)
  | .aminw f => some (0x51, .m f)
  | .amaxw f => some (0x52, .m f)
  | .aand f => some (0x53, .m f)
  | .aor f => some (0x54, .m f)
  | .axor f => some (0x55, .m f)
  | .axch f => some (0x56, .m f)
  | .acas f => some (0x57, .m f)
  | .fence f => some (0x58, .m f)
  | .fencel f => some (0x59, .m f)
  | .fenceh f => some (0x5A, .m f)
  | .mbr f => some (0x5B, .i f)
  | .mbw f => some (0x5C, .i f)
  | .mfc f => some (0x5D, .i f)
  | .mtc f => some (0x5E, .i f)
  | .rngSeedWrite f => some (0x5E, .i f)
  | .engPoisonClear f => some (0x5E, .i f)
  | .accGrantWrite f => some (0x5E, .i f)
  | .viewWordWrite f => some (0x5E, .i f)
  | .loopCounterWrite f => some (0x5E, .i f)
  | .branchTargetWrite f => some (0x5E, .i f)
  | .xbGainWrite f => some (0x5E, .i f)
  | .xbSymWrite f => some (0x5E, .i f)
  | .eret f => some (0x5F, .r f)
  | .sysc f => some (0x60, .i f)
  | .tlbiPage f => some (0x61, .m f)
  | .tlbiAll f => some (0x61, .m f)
  | .pwrbOff f => some (0x62, .i f)
  | .pwrbRet f => some (0x62, .i f)
  | .pwrbOn f => some (0x62, .i f)
  | .spawn f => some (0x63, .r f)
  | .spawnG f => some (0x63, .r f)
  | .join f => some (0x64, .r f)
  | .waitf f => some (0x65, .r f)
  | .yield f => some (0x66, .r f)
  | .yieldQ f => some (0x66, .r f)
  | .renqCpy f => some (0x67, .r f)
  | .renqGat f => some (0x67, .r f)
  | .rngtCfg f => some (0x68, .r f)
  | .rngt f => some (0x68, .r f)
  | .pipewGet f => some (0x69, .r f)
  | .pipewPut f => some (0x69, .r f)
  | .piperGet f => some (0x6A, .r f)
  | .piperPut f => some (0x6A, .r f)
  | .bar f => some (0x6B, .r f)
  | .barCfg f => some (0x6B, .r f)
  | .gbar f => some (0x6C, .r f)
  | .walk f => some (0x6D, .r f)
  | .sendh f => some (0x6E, .r f)
  | .vadd f => some (0x6F, .r f)
  | .vsub f => some (0x70, .r f)
  | .vmul f => some (0x71, .r f)
  | .vfma f => some (0x72, .r f)
  | .vmin f => some (0x73, .r f)
  | .vmax f => some (0x74, .r f)
  | .vabs f => some (0x75, .r f)
  | .vneg f => some (0x76, .r f)
  | .vand f => some (0x77, .r f)
  | .vor f => some (0x78, .r f)
  | .vxor f => some (0x79, .r f)
  | .vshl f => some (0x7A, .r f)
  | .vshr f => some (0x7B, .r f)
  | .vsar f => some (0x7C, .r f)
  | .vcmp f => some (0x7D, .r f)
  | .vsel f => some (0x7E, .r f)
  | .vcvt f => some (0x7F, .r f)
  | .vclamp f => some (0x80, .r f)
  | .vreds f => some (0x81, .r f)
  | .vredmMax f => some (0x82, .r f)
  | .vredmMin f => some (0x82, .r f)
  | .vscanInc f => some (0x83, .r f)
  | .vscanExc f => some (0x83, .r f)
  | .vperm f => some (0x84, .r f)
  | .vpermTwo f => some (0x84, .r f)
  | .vbcast f => some (0x85, .r f)
  | .vbcastElement f => some (0x85, .r f)
  | .vins f => some (0x86, .r f)
  | .vext f => some (0x87, .r f)
  | .vld f => some (0x88, .m f)
  | .vst f => some (0x89, .m f)
  | .vldt f => some (0x8A, .m f)
  | .vrng f => some (0x8B, .r f)
  | .vkrng f => some (0x8C, .r f)
  | .viota f => some (0x8D, .r f)
  | .setvwV f => some (0x8E, .r f)
  | .setvwT f => some (0x8E, .r f)
  | .tld f => some (0x8F, .m f)
  | .tev f => some (0x90, .r f)
  | .tcfgInv f => some (0x91, .r f)
  | .tcfgStat f => some (0x91, .r f)
  | .amov f => some (0x92, .r f)
  | .aclr f => some (0x93, .r f)
  | .aldv f => some (0x94, .r f)
  | .aldvAdd f => some (0x94, .r f)
  | .admitRow f => some (0x95, .r f)
  | .admitView f => some (0x95, .r f)
  | .cpy f => some (0xC0, .e f)
  | .cpyFill f => some (0xC0, .e f)
  | .cpyFrom f => some (0xC0, .e f)
  | .cpyTo f => some (0xC0, .e f)
  | .cpyw f => some (0xC1, .e f)
  | .cpywAll f => some (0xC1, .e f)
  | .ccan f => some (0xC2, .e f)
  | .cpoll f => some (0xC3, .e f)
  | .gath f => some (0xC4, .e f)
  | .gathSum f => some (0xC4, .e f)
  | .scad f => some (0xC5, .e f)
  | .collBcast f => some (0xC6, .e f)
  | .collSum f => some (0xC6, .e f)
  | .collMax f => some (0xC6, .e f)
  | .collMin f => some (0xC6, .e f)
  | .evcfgCnt f => some (0xC7, .e f)
  | .evcfgTerm f => some (0xC7, .e f)
  | .evarm f => some (0xC8, .e f)
  | .evarmClr f => some (0xC8, .e f)
  | .evarmStat f => some (0xC8, .e f)
  | .mstn f => some (0xC9, .e f)
  | .mldw f => some (0xCA, .e f)
  | .mms f => some (0xCB, .e f)
  | .scacc f => some (0xCC, .e f)
  | .mrls f => some (0xCD, .e f)
  | .mhintMms f => some (0xCE, .e f)
  | .mhintXmv f => some (0xCE, .e f)
  | .xmv f => some (0xCF, .e f)
  | .xmvt f => some (0xD0, .e f)
  | .xupd f => some (0xD1, .e f)
  | .xdep f => some (0xD2, .e f)
  | .xdepRst f => some (0xD2, .e f)
  | .xcal f => some (0xD3, .e f)
  | .xsym f => some (0xD4, .e f)
  | .xrd f => some (0xD5, .e f)
  | .xpgm f => some (0xD6, .e f)
  | .xstat f => some (0xD7, .e f)
  | .xstatWait f => some (0xD7, .e f)
  | .xstatBlk f => some (0xD7, .e f)
  | .pcfg f => some (0xD8, .e f)
  | .rjcfg f => some (0xD9, .e f)
  | .rjcfgVer f => some (0xD9, .e f)
  | .rjseal f => some (0xDA, .e f)
  | .rjsend f => some (0xDB, .e f)
  | .rjtake f => some (0xDC, .e f)
  | .strd f => some (0xDD, .e f)
  | .mdec f => some (0xDE, .e f)
  | .mrsz f => some (0xDF, .e f)
  | _ => none

/-- R21-R28: the words of a bundle under an opcode. -/
def encodeBundle (op : Nat) : Bundle → List Word
  | .r f => [packWord0 op f.gd f.d f.a f.b (packR f)]
  | .i f => [packWord0 op f.gd f.d f.a f.b f.x]
  | .m f => [packWord0 op f.gd f.d f.a f.b (packM f)]
  | .l f => [packWord0 op f.gd f.d f.a f.b (packL f)]
  | .e f => [packWord0 op f.r.gd f.r.d f.r.a f.r.b (packR f.r), packWord1 f]

/-- The words of an instruction; a device step has none. -/
def encode (i : Instr) : Option (List Word) := i.bundle.map fun p => encodeBundle p.1 p.2

/-- Decode a list of words as fetched. -/
def decodeWords : List Word → Decoded
  | [] => .illegal .tooShort 0
  | [w] => decode w none
  | w :: v :: _ => decode w (some v)

/-- The instruction the decoder reads from bits numbered as spec/opcode_table.json numbers them: word 0 is bits 63..0,
word 1 bits 127..64; bits above `nbits` are zero. The words are laid out as bytes in memory order and decoded. -/
def decodeTableWord (nbits w : Nat) : Option Instr :=
  match decodeBytes (leBytes 16 (w % 2 ^ nbits)) with
  | .instr i _ => some i
  | _ => none

end Sys2Proof
end

