-- ==== Sys2Proof/Machine/Numbers.lean ====
section
/-! DEFINITION. Number formats, the one rounding, conversions and the two generators (spec/08 R134-R149,
spec/03 R68-R71, spec/05 R98, R100). Values are exact rationals; a result is rounded once, where the spec names a rounding. -/

namespace Sys2Proof.Machine

/-! ## Values and formats (R134-R137) -/

/-- A floating value: NaN with its sign bit, an infinity, or a signed magnitude (so that the two zeros differ). -/
inductive Fv where
  | nan (neg : Bool)
  | inf (neg : Bool)
  | fin (neg : Bool) (mag : Rat)
  deriving DecidableEq, Repr

/-- R134: a floating format; `ieee` says that the top exponent holds infinities and NaN. -/
structure FFmt where
  ebits : Nat
  fbits : Nat
  bias : Nat
  ieee : Bool
  deriving DecidableEq, Repr

def fmtF32 : FFmt := ⟨8, 23, 127, true⟩
def fmtF16 : FFmt := ⟨5, 10, 15, true⟩
def fmtBf16 : FFmt := ⟨8, 7, 127, true⟩
def fmtE4 : FFmt := ⟨4, 3, 7, false⟩
def fmtE5 : FFmt := ⟨5, 2, 15, false⟩

/-- R27: the floating format of a type code, if it is one. -/
def fmtOf (ty : Nat) : Option FFmt :=
  match ty with
  | 8 => some fmtF16
  | 9 => some fmtBf16
  | 10 => some fmtF32
  | 11 => some fmtE4
  | 12 => some fmtE5
  | _ => none

/-- R27, R89: width in bits of a type code. -/
def tyWidth (ty : Nat) : Nat :=
  match ty with
  | 0 | 4 | 11 | 12 => 8
  | 1 | 5 | 8 | 9 => 16
  | 2 | 6 | 10 => 32
  | 3 | 7 => 64
  | _ => 4

/-- R27: the type is signed (i8-i64, q4, q3). -/
def tySigned (ty : Nat) : Bool := ty < 4 || ty == 13 || ty == 14

def FFmt.width (f : FFmt) : Nat := 1 + f.ebits + f.fbits

/-- A power of two with any integer exponent. -/
def pow2 (e : Int) : Rat := if 0 ≤ e then ((2 ^ e.toNat : Nat) : Rat) else 1 / ((2 ^ (-e).toNat : Nat) : Rat)

/-- R134: the value of a code. -/
def FFmt.value (f : FFmt) (code : Nat) : Fv :=
  let neg := (code / 2 ^ (f.ebits + f.fbits)) % 2 == 1
  let e := (code / 2 ^ f.fbits) % 2 ^ f.ebits
  let m := code % 2 ^ f.fbits
  if f.ieee && e == 2 ^ f.ebits - 1 then (if m == 0 then .inf neg else .nan neg)
  else if e == 0 then .fin neg ((m : Rat) * pow2 (1 - (f.bias : Int) - f.fbits))
  else .fin neg (((2 ^ f.fbits + m : Nat) : Rat) * pow2 ((e : Int) - f.bias - f.fbits))

/-- R135: the canonical NaN. -/
def FFmt.canonNan (f : FFmt) : Nat := (2 ^ f.ebits - 1) * 2 ^ f.fbits + 2 ^ (f.fbits - 1)

/-- Code of infinity without sign; one past the largest code of a format without infinities. -/
def FFmt.top (f : FFmt) : Nat := if f.ieee then (2 ^ f.ebits - 1) * 2 ^ f.fbits else 2 ^ (f.ebits + f.fbits)

def FFmt.signed (f : FFmt) (neg : Bool) (code : Nat) : Nat := if neg then 2 ^ (f.ebits + f.fbits) + code else code

/-! ## Rounding (R140, R141) -/

/-- Integer square root of a number below 4^n, one bit a step. -/
def isqrt : Nat → Nat → Nat
  | 0, _ => 0
  | n + 1, x =>
    let r := 2 * isqrt n (x / 4)
    if (r + 1) * (r + 1) ≤ x then r + 1 else r

/-- Floor of the binary logarithm of a positive rational. -/
def log2Rat (x : Rat) : Int :=
  let e : Int := (Nat.log2 x.num.natAbs : Int) - (Nat.log2 x.den : Int)
  if pow2 e ≤ x then e else e - 1

/-- R140, R141: the integer multiple of the spacing that a magnitude rounds to. `t` is the magnitude over the spacing, scaled by
2^32 and floored; `sticky` says that something was cut off; `r` holds the random bits, `k` of them. -/
def roundScaled (rm : Nat) (neg : Bool) (t : Nat) (sticky : Bool) (k r : Nat) : Nat :=
  let fl := t / 2 ^ 32
  let fr := t % 2 ^ 32
  let inexact := fr != 0 || sticky
  match rm with
  | 0 => if fr > 2 ^ 31 || (fr == 2 ^ 31 && (sticky || fl % 2 == 1)) then fl + 1 else fl
  | 1 => fl
  | 2 => if inexact && !neg then fl + 1 else fl
  | 3 => if inexact && neg then fl + 1 else fl
  | _ => (t / 2 ^ (32 - k) + r % 2 ^ k) / 2 ^ k

/-- Scale a non-negative rational by 2^32 and floor it, with the sticky flag. -/
def scaleRat (t : Rat) : Nat × Bool :=
  let n := t.num.natAbs * 2 ^ 32
  (n / t.den, n % t.den != 0)

/-- R141: the number of random bits of a destination of this width. -/
def rsrBits (width : Nat) : Nat := if width ≤ 16 then 16 else 32

/-- R138, R140: the code above the largest one. Overflow follows IEEE 754 where the format has infinities, else saturates. -/
def FFmt.overflow (f : FFmt) (rm : Nat) (neg : Bool) : Nat :=
  if !f.ieee then f.signed neg (f.top - 1)
  else if rm == 1 || (rm == 2 && neg) || (rm == 3 && !neg) then f.signed neg (f.top - 1)
  else f.signed neg f.top

/-- Assemble a code from the rounded multiple `m` of the spacing of exponent `e` (already at least the smallest normal). -/
def FFmt.assemble (f : FFmt) (rm : Nat) (neg : Bool) (e : Int) (m : Nat) : Nat :=
  let code := ((e + f.bias).toNat - 1) * 2 ^ f.fbits + m
  if code ≥ f.top then f.overflow rm neg else f.signed neg code

/-- Exponent of the binade a magnitude is rounded in. -/
def FFmt.binade (f : FFmt) (x : Rat) : Int := max (log2Rat x) (1 - (f.bias : Int))

/-- R140: a positive magnitude rounded once; `g` is the element's generator word. -/
def FFmt.roundMag (f : FFmt) (rm : Nat) (neg : Bool) (x : Rat) (g : Nat) : Nat :=
  let e := f.binade x
  let (t, st) := scaleRat (x / pow2 (e - f.fbits))
  f.assemble rm neg e (roundScaled rm neg t st (rsrBits f.width) g)

/-- R138, R140, R141: a value rounded to a format. NaN and infinities of a format without them saturate by sign. -/
def FFmt.round (f : FFmt) (rm : Nat) (v : Fv) (g : Nat) : Nat :=
  match v with
  | .nan neg => if f.ieee then f.canonNan else f.signed neg (f.top - 1)
  | .inf neg => if f.ieee then f.signed neg f.top else f.signed neg (f.top - 1)
  | .fin neg x => if x == 0 then f.signed neg 0 else f.roundMag rm neg x g

/-! ## Exact operations -/

def Fv.isNan : Fv → Bool
  | .nan _ => true
  | _ => false
def Fv.neg : Fv → Bool
  | .nan n => n
  | .inf n => n
  | .fin n _ => n
/-- The rational value of a finite one. -/
def Fv.rat : Fv → Rat
  | .fin n x => if n then -x else x
  | _ => 0
def Fv.isFin : Fv → Bool
  | .fin _ _ => true
  | _ => false
def Fv.negate : Fv → Fv
  | .nan n => .nan n
  | .inf n => .inf !n
  | .fin n x => .fin (!n) x

/-- A rational as a value; an exact zero sum is -0 under rdn only (R140). -/
def Fv.ofSum (rm : Nat) (x : Rat) : Fv := if x == 0 then .fin (rm == 3) 0 else .fin (x < 0) |x|

/-- The exact sum. -/
def Fv.add (rm : Nat) : Fv → Fv → Fv
  | .nan _, _ => .nan false
  | _, .nan _ => .nan false
  | .inf a, .inf b => if a == b then .inf a else .nan false
  | .inf a, _ => .inf a
  | _, .inf b => .inf b
  | .fin a x, .fin b y =>
    if x == 0 && y == 0 && a == b then .fin a 0 else Fv.ofSum rm ((if a then -x else x) + (if b then -y else y))

def Fv.isZero : Fv → Bool
  | .fin _ x => x == 0
  | _ => false

/-- The exact product. -/
def Fv.mul (a b : Fv) : Fv :=
  match a, b with
  | .nan _, _ => .nan false
  | _, .nan _ => .nan false
  | .fin s x, .fin t y => .fin (s != t) (x * y)
  | a, b => if a.isZero || b.isZero then .nan false else .inf (a.neg != b.neg)

/-- The exact quotient (R70). -/
def Fv.div (a b : Fv) : Fv :=
  match a, b with
  | .nan _, _ => .nan false
  | _, .nan _ => .nan false
  | .inf _, .inf _ => .nan false
  | .inf s, .fin t _ => .inf (s != t)
  | .fin s _, .inf t => .fin (s != t) 0
  | .fin s x, .fin t y => if y == 0 then (if x == 0 then .nan false else .inf (s != t)) else .fin (s != t) (x / y)

/-- R70: FMIN and FMAX; `big` picks the larger. -/
def Fv.pick (big : Bool) (a b : Fv) : Fv :=
  if a.isNan then (if b.isNan then .nan false else b)
  else if b.isNan then a
  else
    let less := match a, b with
      | .inf s, .inf t => s && !t
      | .inf s, _ => s
      | _, .inf t => !t
      | .fin s x, .fin t y =>
        if x == 0 && y == 0 then s && !t else decide ((if s then -x else x) < (if t then -y else y))
      | _, _ => false
    if less == big then b else a

/-- R70: the square root rounded once. -/
def FFmt.sqrt (f : FFmt) (rm : Nat) (v : Fv) (g : Nat) : Nat :=
  match v with
  | .nan _ => f.canonNan
  | .inf neg => if neg then f.canonNan else f.top
  | .fin neg x =>
    if x == 0 then f.signed neg 0
    else if neg then f.canonNan
    else
      let e := max (log2Rat x / 2) (1 - (f.bias : Int))
      let y := x / pow2 (2 * (e - f.fbits)) * ((2 ^ 64 : Nat) : Rat)
      let n := y.num.natAbs / y.den
      let t := isqrt 64 n
      f.assemble rm false e (roundScaled rm false t (t * t != n || y.den != 1) (rsrBits f.width) g)

/-! ## Integers -/

/-- Two's-complement reading of the low `w` bits. -/
def sInt (w n : Nat) : Int := let m := n % 2 ^ w; if m < 2 ^ (w - 1) then (m : Int) else (m : Int) - (2 ^ w : Nat)
/-- Low `w` bits of an integer. -/
def wrapInt (w : Nat) (i : Int) : Nat := (i % ((2 ^ w : Nat) : Int)).toNat

/-- R27: range of an integer type, with q4 and q3 (R137). -/
def tyRange (ty : Nat) : Int × Int :=
  if ty == 13 then (-8, 7)
  else if ty == 14 then (-4, 3)
  else if tySigned ty then (-((2 ^ (tyWidth ty - 1) : Nat) : Int), ((2 ^ (tyWidth ty - 1) : Nat) : Int) - 1)
  else (0, ((2 ^ tyWidth ty : Nat) : Int) - 1)

/-- R142: SAT_TY. -/
def satTy (ty : Nat) (v : Int) : Int := max (tyRange ty).1 (min (tyRange ty).2 v)

/-- The integer an element of an integer, q4 or q3 type stands for; a q3 nibble is read saturated (R89, R137). -/
def intValue (ty : Nat) (n : Nat) : Int :=
  if ty == 14 then satTy 14 (sInt 4 n)
  else if tySigned ty then sInt (tyWidth ty) n
  else ((n % 2 ^ tyWidth ty : Nat) : Int)

/-- An exact rational rounded to an integer under a mode (R140, R141). -/
def roundToInt (rm : Nat) (v : Rat) (k g : Nat) : Int :=
  let (t, st) := scaleRat |v|
  let m : Int := roundScaled rm (v < 0) t st k g
  if v < 0 then -m else m

/-! ## Conversion (R71, R100, R138) -/

/-- A value as the spec's CONV reads it. -/
def srcValue (ty : Nat) (n : Nat) : Fv :=
  match fmtOf ty with
  | some f => f.value n
  | none => let i := intValue ty n; .fin (i < 0) |(i : Rat)|

/-- R71, R100, R138: the code of a value in a destination type, and whether a NaN or an infinity was saturated (poison). -/
def convert (src dst rm n g : Nat) : Nat × Bool :=
  let v := srcValue src n
  match fmtOf dst with
  | some f => (f.round rm v g, !f.ieee && !v.isFin)
  | none =>
    let w := tyWidth dst
    match v with
    | .fin _ _ => (wrapInt w (satTy dst (roundToInt rm v.rat (rsrBits w) g)), false)
    | .inf neg => (wrapInt w (if neg then (tyRange dst).1 else (tyRange dst).2), w == 4)
    | .nan neg => if w == 4 then (wrapInt w (if neg then (tyRange dst).1 else (tyRange dst).2), true) else (0, false)

/-- R142: the exact f32 value of an element. -/
def f32Of (ty n : Nat) : Fv := srcValue ty n

/-- Rounded f32 sum, difference and product, to nearest even (R101, R143). -/
def rneAdd (a b : Nat) : Nat := fmtF32.round 0 (Fv.add 0 (fmtF32.value a) (fmtF32.value b)) 0
def rneSub (a b : Nat) : Nat := fmtF32.round 0 (Fv.add 0 (fmtF32.value a) (fmtF32.value b).negate) 0
def rneMul (a b : Nat) : Nat := fmtF32.round 0 (Fv.mul (fmtF32.value a) (fmtF32.value b)) 0
def rneFma (a b c : Nat) : Nat := fmtF32.round 0 (Fv.add 0 (Fv.mul (fmtF32.value a) (fmtF32.value b)) (fmtF32.value c)) 0

/-! ## The generators (R148, R149) -/

/-- R148: one STEP of the core generator. -/
def rngStep (s : Word) : Word :=
  let a := s ^^^ (s <<< 13)
  let b := a ^^^ (a >>> 7)
  b ^^^ (b <<< 17)

/-- R148: the word of a cycle, from the state after that cycle's STEP. -/
def rngWord (s : Word) : BitVec 32 := s.extractLsb' 32 32 ^^^ s.extractLsb' 0 32

/-- R148: the state a seed sets. -/
def seedState (v : Word) : Word := if v == 0 then 0x9E3779B97F4A7C15 else v

/-- R142: ROTL32. -/
def rotl32 (v : BitVec 32) (n : Nat) : BitVec 32 := v.rotateLeft (n % 32)

/-- R149: the constants of the four rounds. -/
def kmixQ : List (BitVec 32) := [0x9E3779B9, 0x7F4A7C15, 0xF39CC060, 0x5CEDC834]

/-- R149: one round on (a, b, c, d). -/
def kmixRound (s : BitVec 32 × BitVec 32 × BitVec 32 × BitVec 32) (q : BitVec 32) :
    BitVec 32 × BitVec 32 × BitVec 32 × BitVec 32 :=
  let (a, b, c, d) := s
  let a := a + c + q
  let d := rotl32 (d ^^^ a) 16
  let c := c + d
  let b := rotl32 (b ^^^ c) 12
  let a := a + b
  let d := rotl32 (d ^^^ a) 8
  let c := c + d
  let b := rotl32 (b ^^^ c) 7
  (a, b, c, d)

/-- R149: KMIX. -/
def kmix (key idx : Word) : BitVec 32 :=
  let (a, b, c, d) := kmixQ.foldl kmixRound
    (key.extractLsb' 0 32, key.extractLsb' 32 32, idx.extractLsb' 0 32, idx.extractLsb' 32 32)
  a ^^^ b ^^^ c ^^^ d

end Sys2Proof.Machine
end

