-- ==== Sys2Proof/Machine/Flags.lean ====
section
/-! DEFINITION. The flag computations: granule tags and their bounds (spec/02 R42, spec/05 R91-R93, spec/08 R150) and the condition
codes of comparisons (spec/03 R68). -/

namespace Sys2Proof.Machine

/-! ## Bounds (R91, R150) -/

/-- A tag: the B bit and the BOUND of a granule or a side word (R37, R90). -/
structure Tag where
  b : Bool
  bound : BitVec 16
  deriving DecidableEq, Repr

def Tag.exact : Tag := ⟨false, 0⟩
def boundUnknown : BitVec 16 := 0x7F80
def Tag.unknown : Tag := ⟨true, boundUnknown⟩

/-- The value of a bound, `none` for the unknown one. -/
def boundVal (c : BitVec 16) : Option Rat := if c.toNat < 0x7F80 then some (fmtBf16.value c.toNat).rat else none

/-- R150: a non-negative value rounded towards plus infinity to bf16; `none` and overflow give the unknown bound. -/
def boundOf : Option Rat → BitVec 16
  | none => boundUnknown
  | some x => if x ≤ 0 then 0 else BitVec.ofNat 16 (min 0x7F80 (fmtBf16.roundMag 2 false x 0))

/-- R90, R110: the larger of two tags, B by OR. -/
def Tag.or (a c : Tag) : Tag := ⟨a.b || c.b, if a.bound.toNat < c.bound.toNat then c.bound else a.bound⟩

/-- A result tag with the bound given, if any source is bounded (R91). -/
def Tag.result (srcs : List Tag) (v : Option Rat) : Tag := if srcs.any (·.b) then ⟨true, boundOf v⟩ else .exact

/-- R91, R150: sum of bounds. -/
def optAdd (a c : Option Rat) : Option Rat := do return (← a) + (← c)
def optMul (a c : Option Rat) : Option Rat := do return (← a) * (← c)

/-- R91: the bound of a source; an exact one has 0. -/
def Tag.val (t : Tag) : Option Rat := if t.b then boundVal t.bound else some 0

/-- R91: the largest magnitude among values; `none` if one of them is a NaN or an infinity. -/
def maxMag (vs : List Fv) : Option Rat :=
  vs.foldl (fun m v => match m, v with
    | some m, .fin _ x => some (if m < x then x else m)
    | _, _ => none) (some 0)

/-! ## Condition codes (R68) -/

/-- R68: the integer column. -/
def ccIntEval (cc : Nat) (w a b : Nat) : Bool :=
  match cc with
  | 0 => a % 2 ^ w == b % 2 ^ w
  | 1 => a % 2 ^ w != b % 2 ^ w
  | 2 => sInt w a < sInt w b
  | 3 => sInt w b ≤ sInt w a
  | 4 => sInt w a ≤ sInt w b
  | 5 => sInt w b < sInt w a
  | 6 => a % 2 ^ w < b % 2 ^ w
  | 7 => b % 2 ^ w ≤ a % 2 ^ w
  | 8 => a % 2 ^ w ≤ b % 2 ^ w
  | _ => b % 2 ^ w < a % 2 ^ w

/-- Order of two values that are not NaN: negative, zero or positive. -/
def Fv.cmp (a b : Fv) : Int :=
  let key : Fv → Int × Rat := fun v => match v with
    | .inf n => (if n then -1 else 1, 0)
    | v => (0, v.rat)
  let (i, x) := key a
  let (j, y) := key b
  if i < j then -1 else if j < i then 1 else if x < y then -1 else if y < x then 1 else 0

/-- R68: the float column. -/
def ccFpEval (cc : Nat) (a b : Fv) : Bool :=
  let un := a.isNan || b.isNan
  let c := Fv.cmp a b
  match cc with
  | 0 => !un && c == 0
  | 1 => un || c != 0
  | 2 => !un && c < 0
  | 3 => !un && 0 ≤ c
  | 4 => !un && c ≤ 0
  | 5 => !un && 0 < c
  | 10 => un
  | _ => !un

end Sys2Proof.Machine
end

