-- ==== Sys2Proof/Machine/Tables.lean ====
section
/-! DEFINITION. Sparse tables: lists of (number, value) with rising numbers and no entry equal to what an unlisted number reads as.
Memory, register files and every other numbered store of the state are held in this one canonical form. -/

namespace Sys2Proof.Machine

/-- A sparse table. -/
abbrev Tab (α : Type) := List (Nat × α)

/-- The value at a number; `d` gives what an unlisted number reads as. -/
def Tab.get {α : Type} (d : Nat → α) : Tab α → Nat → α
  | [], k => d k
  | (i, v) :: t, k => if i = k then v else Tab.get d t k

/-- Put an entry in its place, dropping any entry there before. -/
def Tab.insert {α : Type} (k : Nat) (v : α) : Tab α → Tab α
  | [] => [(k, v)]
  | (i, u) :: t => if k < i then (k, v) :: (i, u) :: t else if i = k then (k, v) :: t else (i, u) :: Tab.insert k v t

/-- Drop the entry of a number. -/
def Tab.erase {α : Type} (k : Nat) (t : Tab α) : Tab α := t.filter fun p => p.1 != k

/-- Write a value, keeping the canonical form: writing what an unlisted number reads as removes the entry. -/
def Tab.set {α : Type} [DecidableEq α] (d : Nat → α) (t : Tab α) (k : Nat) (v : α) : Tab α :=
  if v = d k then Tab.erase k t else Tab.insert k v t

/-- The numbers rise strictly from a floor and no entry equals the default. -/
def Tab.wfFrom {α : Type} [DecidableEq α] (d : Nat → α) : Nat → Tab α → Bool
  | _, [] => true
  | lo, (i, v) :: t => lo ≤ i && v ≠ d i && Tab.wfFrom d (i + 1) t

/-- The canonical form. -/
def Tab.wf {α : Type} [DecidableEq α] (d : Nat → α) (t : Tab α) : Bool := Tab.wfFrom d 0 t

/-- Write a list of entries in order. -/
def Tab.setAll {α : Type} [DecidableEq α] (d : Nat → α) (t : Tab α) (l : List (Nat × α)) : Tab α :=
  l.foldl (fun t p => Tab.set d t p.1 p.2) t

end Sys2Proof.Machine
end

