-- ==== Sys2Proof/Machine/State.lean ====
section
/-! DEFINITION. The state of one QX-8400 module as plain data (INVENTORY.md '## State' names the rule of every field), the fault and
refusal names, and the state right after reset: before power-up, with nothing started (spec/32 R418). Every numbered store is a
sparse table (Tables.lean) whose default is the value that core start, die start or power-up gives. -/

namespace Sys2Proof.Machine

/-! ## A context -/

/-- One hardware loop level (R62). -/
structure LoopLevel where
  act : Bool
  start : Word
  endw : Word
  trip : Word
  lc : Word
  deriving DecidableEq, Repr

def LoopLevel.init : LoopLevel := ⟨false, 0, 0, 0, 0⟩

/-- Delay slots of a BT or BTL still to issue, where control goes after them (R58), and the two slot words as fetched (R59). -/
structure Delay where
  left : Nat
  taken : Bool
  target : Word
  w1 : Word
  w2 : Word
  deriving DecidableEq, Repr

/-- A reservation (R81): its granule as an effective and as a physical address, its scope, and the instructions issued. -/
structure Resv where
  ea : Word
  gran : Nat
  sc : Nat
  /-- counted from the LDX on, itself included -/
  issued : Nat
  deriving DecidableEq, Repr

/-- An interval of the spin detector (R203): its number, its first load's address and value once returned, whether it stored. -/
structure Interval where
  num : Nat
  load : Option (Word × Option Word)
  stored : Bool
  deriving DecidableEq, Repr

/-- The spin detector (R203): ADDR, VAL, N, the running interval, and those that a backward transfer has closed and whose update waits
for a first load, oldest first. -/
structure Spin where
  addr : Word
  val : Word
  n : Nat
  cur : Interval
  pend : List Interval
  deriving DecidableEq, Repr

def Spin.init : Spin := ⟨0, 0, 0, ⟨0, none, false⟩, []⟩

/-- What a pending access does when it performs (R77, R79, R81, R87, R106). -/
inductive AccKind where
  /-- LD, LDS, LDX to register `dst` -/
  | load (dst : Nat) (signed : Bool)
  /-- an atomic of the table of R79: opcode, operand, expected value -/
  | amo (dst op : Nat) (b expect : Word)
  /-- MBR of word n -/
  | mbr (dst n : Nat)
  /-- rows from the granule at `gran` on, lanes under the mask; bounded when they come from an A page -/
  | vload (gran : Nat) (mask : Lanes) (bounded : Bool)
  /-- ST -/
  | store (data : Word)
  /-- VST: lanes under the mask -/
  | vstore (mask : Lanes) (data : Row)
  /-- MBW of word n -/
  | mbw (n : Nat) (data : Word)
  /-- an accepted store through alias 1, 2, 3 or 6 (R379) -/
  | window (aliasNo : Nat) (data : Word)
  /-- a load through alias 5 or 6 (R367, R381) -/
  | wload (dst : Nat) (signed : Bool) (aliasNo : Nat)
  /-- the coefficients of a table slot (R115) -/
  | table (n : Nat)
  /-- the mark a FENCEL leaves between earlier and later accesses (R86) -/
  | fencel
  deriving DecidableEq, Repr

/-- An access of a context that has issued and not yet performed (R77, R130, R189-R192). -/
structure Access where
  kind : AccKind
  pc : Word
  ea : Word
  /-- physical bit address of each element in order; one element for a scalar access -/
  bits : List Nat
  /-- width of an element in bits -/
  ew : Nat
  /-- whether the page is read-duplicated, and its HOLD bits (R199, R298) -/
  dpage : Bool
  hold : Nat
  /-- a row: HOLD of each of its D pages, by physical 64 KiB frame -/
  holds : List (Nat × Nat)
  /-- layout tag a layout-form row store leaves (R183) -/
  ltag : Option (BitVec 9)
  k : Nat
  sc : Nat
  aq : Bool
  rl : Bool
  /-- module the access targets (R189) -/
  modl : Nat
  /-- commands of the core with a lower number were issued before it (R192) -/
  mark : Nat
  /-- instructions the context has issued from it on, itself included (R131) -/
  after : Nat
  /-- cycle by which a store to the own slice is visible (R107, R118) -/
  due : Option Nat
  /-- number of the spin interval whose first load it is (R203) -/
  first : Option Nat
  /-- a ring or route error has met it: a load returns an error, a store is discarded (R412, R416) -/
  dead : Bool
  /-- arrival number of a request to another module (R415) -/
  seq : Nat
  deriving DecidableEq, Repr

/-- A continuation record as a queue holds it (R151, R152) with what its launch adds. -/
structure Rec where
  code : Word
  frame : Word
  joina : Word
  live : BitVec 32
  pf : BitVec 32
  /-- address space and serial number of its launch -/
  space : Nat
  lid : Nat
  /-- pushed from another module -/
  far : Bool
  /-- number of the task a RESUME record resumes, and the result its finished wait writes: register and value (R159, log 17) -/
  tid : Option Nat
  got : Option (Nat × Word)
  /-- initial views of a launch's initial task (R123) -/
  views : Option (Word × Word)
  /-- cause and trap.info of the trap that its resume enters (R164, R285) -/
  fault : Option (Nat × Word)
  /-- final handles and status words that saves have recorded for the task (R265) -/
  recorded : List (Word × Word)
  deriving DecidableEq, Repr

/-- A tile step: its grotto, block, chain and indices (R220). -/
structure StepRef where
  grotto : Nat
  block : Nat
  chain : Nat
  idx : List Nat
  deriving DecidableEq, Repr

/-- The task a context holds (R122, R151). -/
structure Task where
  r : Rec
  gang : Option Nat
  handler : Bool
  step : Option StepRef
  /-- number of the task, kept through spills and saves (log 17) -/
  tid : Nat
  deriving DecidableEq, Repr

/-- What a waiting context waits for (R158, R163, R165, R429), with the register it then writes. -/
inductive Wait where
  /-- WAITF on a future at an effective address -/
  | future (dst : Nat) (ea : Word)
  /-- PIPEW.get (`wr`) or PIPER.get of a pipe -/
  | pipe (dst : Nat) (wr : Bool) (n : Nat)
  /-- BAR: barrier and phase of the arrival -/
  | bar (dst n phase : Nat)
  /-- GBAR -/
  | gbar (dst n phase : Nat)
  deriving DecidableEq, Repr

/-- How a context that holds a task stands (R124, R130, R282). -/
inductive Run where
  | ready
  | waiting (w : Wait)
  /-- parked on a missing translation: access kind of R284 and effective address -/
  | parked (acc : Nat) (ea : Word)
  /-- a trap waits for the drain (R129, R280) -/
  | trapping (cause : Nat) (info pc : Word)
  /-- stopped for good until the runtime ends it (R281, R294) -/
  | stopped
  /-- its task has been discarded; the context is free once what it had in flight has ended (R130, R202) -/
  | ending
  /-- a gang member that has executed DONE and keeps its context until every member has (R219) -/
  | finished
  deriving DecidableEq, Repr

/-- An outstanding query of a TLB (R304) and its answer: a miss or a malformed entry is told to the next attempt. -/
structure Query where
  va : Word
  ans : Option Bool
  deriving DecidableEq, Repr

/-- A store to a command or status window and the controller's answer: a rejection with whether it traps (R367, R368). -/
structure WinReq where
  w : WindowStore
  ans : Option (Option Bool)
  deriving DecidableEq, Repr

/-- A context (R13, R35). -/
structure Ctx where
  pc : Word
  level : Nat
  sregs : Tab Word
  preds : Tab Lanes
  marks : Tab Bool
  bts : Tab Word
  loops : Tab LoopLevel
  delay : Option Delay
  viewV : Word
  viewT : Word
  grant : Word
  trapBase : Word
  trapCause : Word
  trapPc : Word
  trapInfo : Word
  dbgPend : Word
  dbgLayout : Word
  engPoison : Word
  /-- bits set in this cycle, which no MTC of the cycle clears (R139) -/
  poisonNow : Word
  /-- eng.status but for MQ, which is counted from the queue (R253) -/
  engStatus : Word
  resv : Option Resv
  spin : Spin
  /-- loads outstanding and the store buffer, in program order (R77, R130) -/
  acc : List Access
  /-- first cycle in which a scalar register (0-63) or a predicate (64 + n) may be read (R65, R70, R73) -/
  busy : Tab Nat
  /-- first discarded write and the module it was bound for, kept for the next issue (R416) -/
  discard : Option (Word × Nat)
  task : Option Task
  run : Run
  /-- cycle in which the context stopped to wait or park (R217) -/
  since : Nat
  /-- contexts that must issue before this one is chosen again (R160) -/
  yieldTo : List Nat
  query : Option Query
  win : Option WinReq
  /-- found not ready in this cycle (R125) -/
  held : Bool
  /-- no issue before this cycle (bank wake, lead-in) (R39, R275) -/
  stall : Nat
  /-- scope of a FENCEH in progress (R86) -/
  fenceh : Option Nat
  /-- a pre-emption has been requested (R288) -/
  preempt : Bool
  /-- launch serial of the last task of this context (R123) -/
  lastLid : Option Nat
  /-- engine commands this context issued that ended with a status other than 0 (R234) -/
  engFail : Nat
  /-- the step it holds has started an XUPD, XDEP or XPGM (R290) -/
  pulsed : Bool
  deriving DecidableEq, Repr

/-- R40: reset values of the view words. -/
def viewVReset : Word := 0x0000030000000000
def viewTReset : Word := 0x0000180000000000

/-- A context of a core just started. -/
def Ctx.init : Ctx :=
  { pc := 0, level := 0, sregs := [], preds := [], marks := [], bts := [], loops := [], delay := none, viewV := viewVReset,
    viewT := viewTReset, grant := 0, trapBase := 0, trapCause := 0, trapPc := 0, trapInfo := 0, dbgPend := 0, dbgLayout := 0,
    engPoison := 0, poisonNow := 0, engStatus := 0, resv := none, spin := Spin.init, acc := [], busy := [], discard := none, task := none,
    run := .ready, since := 0, yieldTo := [], query := none, win := none, held := false, stall := 0, fenceh := none, preempt := false, lastLid := none,
    engFail := 0, pulsed := false }

/-! ## A core -/

/-- What a result does when it lands (R90, R94, R110, R112, R126). -/
inductive LandEff where
  /-- bits of one 64-byte granule of the register space, and its tag if it lies in a window -/
  | gran (g : Nat) (data mask : Granule) (tag : Tag)
  /-- lanes of a predicate; the mark follows R99 -/
  | pred (ctx n : Nat) (data mask : Lanes) (mark : Bool)
  /-- a side word replaced whole -/
  | sideSet (row : Nat) (v : BitVec 32)
  /-- a side word whose tag is merged (R110) -/
  | sideOr (row : Nat) (t : Tag)
  /-- a side word whose tag is replaced, POISON kept (R110, R112) -/
  | sideTag (row : Nat) (t : Tag)
  /-- the tag of a granule cleared (R112) -/
  | clearTag (g : Nat)
  /-- VC of eng.poison (R139) -/
  | poisonVc (ctx : Nat)
  deriving DecidableEq, Repr

/-- An exposed result in flight (R126). -/
structure Landing where
  due : Nat
  ctx : Nat
  effs : List LandEff
  deriving DecidableEq, Repr

/-- A table slot (R113-R116): the header's fields and the coefficient words. `evUntil` is the cycle in which its last TEV lands. -/
structure TabSlot where
  valid : Bool
  loading : Bool
  nseg : Nat
  below : Nat
  above : Nat
  lo : BitVec 32
  hi : BitVec 32
  invw : BitVec 32
  cbelow : BitVec 32
  cabove : BitVec 32
  lip : BitVec 32
  coef : List (BitVec 32)
  evUntil : Nat
  deriving DecidableEq, Repr

def TabSlot.init : TabSlot := ⟨false, false, 0, 0, 0, 0, 0, 0, 0, 0, 0, [], 0⟩

/-- An event counter (R242). -/
structure EvCnt where
  thresh : Nat
  src : Nat
  value : Nat
  fault : Bool
  deriving DecidableEq, Repr

/-- An event term (R242). -/
structure EvTerm where
  masks : BitVec 32
  armed : Bool
  deriving DecidableEq, Repr

/-- The engines of a core, each with a queue (R186, R246, R315), and the units that take commands from a core (R354). -/
inductive Engine where
  | copy
  | gather
  | coll
  | matrix
  | tile (n : Nat)
  /-- a slot of the copy engine used for a unit outside the core: PCFG, RJCFG, RJSEND, RJTAKE, STRD, MDEC, MRSZ (R355) -/
  | unit
  deriving DecidableEq, Repr

/-- How a command stands. -/
inductive CmdSt where
  | queued
  /-- waits for its event term (R243) -/
  | armed (term : Nat)
  /-- running, started in this cycle -/
  | running (since : Nat)
  /-- held on a missing translation (R227, R282) -/
  | missed (ea : Word) (write : Bool)
  deriving DecidableEq, Repr

/-- One interval of a footprint (R185): bytes of the slice or absolute row numbers, first and last, read or written. -/
structure Part where
  rows : Bool
  lo : Nat
  hi : Nat
  write : Bool
  deriving DecidableEq, Repr

/-- A macro that loads a group or computes a pair until a cycle (R268): macro, command, group, vector, what it read when it started
(source bytes or activation elements, R269, R270), the status of that read and whether a page of it carries A. -/
structure MacItem where
  mac : Nat
  cmd : Nat
  g : Nat
  b : Nat
  due : Nat
  data : List Nat
  bad : Nat
  a : Bool
  deriving DecidableEq, Repr

/-- A cached translation (R301): space, first page address, page bytes, leaf entry. -/
structure TlbEntry where
  space : Nat
  va : Nat
  bytes : Nat
  leaf : Word
  deriving DecidableEq, Repr

/-- What a tile command keeps while it runs (R317-R319, R325, R333, R336): RCAL and CALV as they stood at its start, whether a read of it has
measured a drift past THR, and a gross one, and the last fault. -/
structure Product where
  rcal : Bool
  calv : Bool
  drifted : Bool
  gross : Bool
  xerr : Nat
  deriving DecidableEq, Repr

def Product.init : Product := ⟨false, false, false, false, 0⟩

/-- An engine command in its queue (R185, R186). -/
structure Cmd where
  id : Nat
  ctx : Nat
  ins : Instr
  /-- values of the registers that D, A, B and C name, read at issue -/
  vd : Word
  va : Word
  vb : Word
  vc : Word
  /-- layout words named by ENG (R231) -/
  lsrc : Word
  ldst : Word
  engine : Engine
  /-- footprint (R241, R256, R328) -/
  parts : List Part
  /-- copy, gather, collective or unit slot; the handle it returned -/
  slot : Option Nat
  /-- handle returned, 0 for none -/
  handle : Word
  /-- bytes of its control block as read at issue (R355); of an XUPD its two sources, read at its start (R320) -/
  blk : List Byte
  /-- completion record of a RENQ (R230) -/
  crec : Word
  /-- address of word 0 or of the command block (R284) -/
  pc : Word
  space : Nat
  lid : Nat
  /-- task that issued it -/
  tid : Nat
  /-- dbg.layout of the issuing context (R184) -/
  dbg : Bool
  /-- grant base at issue: rows are resolved at issue (R246) -/
  gbase : Nat
  st : CmdSt
  /-- cycle in which a command of fixed length, or the running vector of a product, ends (R316) -/
  due : Option Nat
  /-- vectors, rows or copies finished so far -/
  prog : Nat
  /-- matrix: the region it names, and its groups or pairs started per macro; XUPD: the generator words of its slots (R320); a
  collective that has its number, or an STRD whose connection was open, has `reg` 1 -/
  reg : Nat
  mac : Tab Nat
  /-- an MLDW's groups whose source bytes have all arrived (R269) -/
  arrived : Nat
  /-- stream TLB of its engine while it runs: the current page and the next one (R301, R302) -/
  stream : List TlbEntry
  /-- a tile command that runs -/
  product : Product
  /-- matrix: groups entered per destination row, and pairs finished out of order (R252) -/
  rows : Tab Nat
  late : List MacItem
  /-- groups skipped by a reissue (R252) -/
  skip : Nat
  /-- pre-emption stop: no pair above this group starts (R272) -/
  stopAt : Option Nat
  /-- retire copy: grotto, block and chain it belongs to (R223) -/
  retire : Option (Nat × Nat × Nat)
  /-- a status to end with without running (R243, R285) -/
  fail : Option Nat
  /-- cancelled (R235) -/
  cancel : Bool
  /-- poison bits gathered (R139); of a matrix command, that a fault was recorded (R253) -/
  poison : Bool
  /-- collective: group and number within it, as 2^32 × GID + k (R239) -/
  seq : Nat
  /-- issued inside a tile step: it writes within the own slice only (R168) -/
  step : Bool
  deriving DecidableEq, Repr

/-- A slot of the copy engine, the gather engine or the collective unit (R228). -/
structure Slot where
  gen : BitVec 26
  status : Word
  used : Bool
  /-- task whose CPY, GATH, SCAD or COLL took it last (the model's own) -/
  tid : Option Nat
  deriving DecidableEq, Repr

/-- Until its first issue a slot holds DONE = 1 and STATUS 0xFF (R228). -/
def Slot.init : Slot := ⟨0, 0x80FF000000000000, false, none⟩

/-- A stationary region (R245). `gone` is one that an MRLS has removed and not yet zeroed (R248). -/
structure Region where
  id : Nat
  gone : Bool
  /-- task that marked it (R289) -/
  owner : Nat
  m0 : Nat
  nm : Nat
  ng : Nat
  lsg : Nat
  ty : Nat
  /-- poisoned groups (R249) -/
  bad : List Nat
  deriving DecidableEq, Repr

/-- An allowance of R274: its value, the cycle of its next change, and the phase that cycle ends. -/
inductive AllowPhase where
  | rest
  | leadIn
  | active
  | tail
  deriving DecidableEq, Repr

structure Allow where
  a : Nat
  phase : AllowPhase
  /-- end of the lead-in or of the tail; while active, the cycle from which the next rise or fall is timed -/
  mark : Nat
  /-- a rise is being timed, not a fall -/
  up : Bool
  /-- hints: width, cycle in which the lead-in begins, last cycle of the burst (R276) -/
  hints : List (Nat × Nat × Nat)
  deriving DecidableEq, Repr

def Allow.init : Allow := ⟨0, .rest, 0, true, []⟩

/-- A crossbar tile (R310-R313, R327, R337). Conductances are in drip and stone units, keyed by 1,024 × row + column. -/
structure Tile where
  drip : Tab Rat
  stone : Tab Rat
  dsym : Tab (BitVec 16)
  gain : Word
  calv : Bool
  rcal : Bool
  lf : Bool
  xerr : BitVec 8
  drift : BitVec 16
  driftm : List (BitVec 16)
  nfail : BitVec 16
  col : Nat
  /-- levels of the reference columns, in stone units, and the expectations that XCAL recorded (R335) -/
  refs : List Rat
  expects : List Rat
  /-- ADC offsets of the 1,024 columns and of the 8 references (R337), as what each leaves after XCAL; none before the first -/
  offsets : List Rat
  winAcc : Nat
  winErr : Nat
  done : Nat
  /-- cycle of the last reference measurement (R334) -/
  lastMeas : Nat
  /-- last cycle of an idle sweep that holds the tile (R334) -/
  sweep : Option Nat
  deriving DecidableEq, Repr

/-- R335: the levels of the eight reference columns. -/
def refLevels : List Rat := [-1, -1 / 2, -1 / 4, 0, 1 / 4, 1 / 2, 3 / 4, 1]

def Tile.init : Tile :=
  { drip := [], stone := [], dsym := [], gain := 0, calv := false, rcal := false, lf := false, xerr := 0, drift := 0,
    driftm := [], nfail := 0, col := 0, refs := refLevels, expects := [], offsets := [], winAcc := 0, winErr := 0, done := 0, lastMeas := 0, sweep := none }

/-- A pending SENDH handler start (R157). -/
structure Handler where
  code : Word
  dst : Word
  len : Nat
  sender : Nat
  space : Nat
  lid : Nat
  deriving DecidableEq, Repr

/-- A pointer entry that a walk has read (R301): level 0 or 1, the part of the address that selects it, the table it points to. -/
structure PtrEntry where
  space : Nat
  level : Nat
  key : Nat
  table : Nat
  deriving DecidableEq, Repr

/-- A core (R13). -/
structure Core where
  started : Bool
  /-- cycles since core start; cyc is its low 64 bits (R133) -/
  clock : Nat
  rng : Word
  seed : Word
  last : Nat
  /-- an instruction has issued in this cycle (R14) -/
  issued : Bool
  ctxs : Tab Ctx
  /-- the register space by 64-byte granules, its granule tags, the side words (R36, R37, R90) -/
  space : Tab Granule
  tags : Tab Tag
  sides : Tab (BitVec 32)
  bank : Word
  /-- window granules that hold an uncorrectable error (R294) -/
  bad : List Nat
  landings : List Landing
  tabs : Tab TabSlot
  evcnt : Tab EvCnt
  evterm : Tab EvTerm
  /-- event pulses of this cycle: source, and whether the status was 0 (R243) -/
  pulses : List (Nat × Bool)
  /-- engine slots, keyed by 64 × ENG + SLOT (R228) -/
  slots : Tab Slot
  cmds : List Cmd
  nextCmd : Nat
  /-- COLLs issued so far for each group (R239) -/
  collSeq : Tab Nat
  regions : List Region
  macs : List MacItem
  allowM : Allow
  allowX : Allow
  tiles : Tab Tile
  handlers : List Handler
  handlerRun : Nat
  /-- layout tags of the slice's granules (R183) -/
  ltags : Tab (BitVec 9)
  tlb : List TlbEntry
  /-- second-level slice (R301) -/
  l2tlb : List TlbEntry
  /-- the slice's walk cache; the queries at it that wait, core and context, in arrival order (R301, R304) -/
  ptrs : List PtrEntry
  asked : List (Nat × Nat)
  /-- instruction cache: words that the task of a context has fetched, by context and address (R13, R201; log 56) -/
  icache : List ((Nat × Nat) × Word)
  fwvec : Word
  /-- errors of the open window (R296): 0 accumulator store, 1 windows and registers, 2 instruction cache, 3 + m macro m -/
  errs : Tab Nat
  /-- the core is in lasting fault or retired (R296, R424) -/
  retired : Bool
  deriving DecidableEq, Repr

/-- A core that has not been started, numbered `c`; core start changes `started` and the generator alone (R36, R148). -/
def Core.init (c : Nat) : Core :=
  { started := false, clock := 0, rng := seedState (BitVec.ofNat 64 c), seed := BitVec.ofNat 64 c, last := 3, issued := false,
    ctxs := [], space := [], tags := [], sides := [], bank := 0xFFFFFFFF, bad := [], landings := [], tabs := [], evcnt := [], evterm := [], pulses := [],
    slots := [], cmds := [], nextCmd := 0, collSeq := [], regions := [], macs := [], allowM := Allow.init, allowX := Allow.init,
    tiles := [], handlers := [], handlerRun := 0, ltags := [], tlb := [], l2tlb := [], ptrs := [], asked := [], icache := [], fwvec := 0, errs := [], retired := false }

/-! ## Grottos -/

/-- A range unit (R162). -/
structure Range where
  rem : Nat
  next : Nat
  min : Nat
  k : Nat
  p : Nat
  deriving DecidableEq, Repr

/-- A barrier (R165). -/
structure Bar where
  party : Nat
  arr : Nat
  phase : Nat
  deriving DecidableEq, Repr

/-- A spilled wait (R159): what it waits for and the record to push; `none` for a park (R217). -/
structure WaitEntry where
  wait : Option Wait
  r : Rec
  core : Nat
  deriving DecidableEq, Repr

/-- A retire copy of an operator block (R167). -/
structure Retire where
  src : Nat
  len : Nat
  dst : Word
  dstr : List Word
  deriving DecidableEq, Repr

/-- A level of an operator block (R167). -/
structure Level where
  count : Nat
  kind : Nat
  cstride : Nat
  deriving DecidableEq, Repr

/-- An operator block (R167). -/
structure OpBlock where
  r : Rec
  nlev : Nat
  nret : Nat
  repl : Nat
  tiles : Nat
  home : Nat
  roff : Nat
  levels : List Level
  rets : List Retire
  addr : Word
  deriving DecidableEq, Repr

/-- A chain of a block (R220): next temporal step, the core it is bound to, whether a step runs or its copies are to be queued. -/
structure Chain where
  next : Nat
  core : Option Nat
  running : Bool
  stopped : Bool
  deriving DecidableEq, Repr

def Chain.init : Chain := ⟨0, none, false, false⟩

/-- A block in a walker: chains by number, steps finished, retire copies outstanding (R220-R223). -/
structure WalkBlk where
  id : Nat
  op : OpBlock
  chains : Tab Chain
  finished : Nat
  copies : Nat
  deriving DecidableEq, Repr

/-- A grotto (R11, R211-R216). -/
structure Grotto where
  started : Bool
  queues : Tab (List Rec)
  pushed : Tab Nat
  popped : Tab Nat
  n : Tab Nat
  served : Nat
  surplus : Bool
  /-- steal attempts due; its levels held a record after the last step (R216) -/
  want : Nat
  stocked : Bool
  /-- by level: the next source is the offered steps (R221) -/
  alt : Tab Bool
  /-- offered steps the head holds, oldest first: grotto of the walker, block, chain (R221) -/
  offers : List (Nat × Nat × Nat)
  ranges : Tab Range
  bars : Tab Bar
  waits : List WaitEntry
  blocks : List WalkBlk
  nextBlk : Nat
  deriving DecidableEq, Repr

def Grotto.init : Grotto :=
  { started := false, queues := [], pushed := [], popped := [], n := [], served := 31, surplus := false, want := 0, stocked := false, alt := [], offers := [],
    ranges := [], bars := [], waits := [], blocks := [], nextBlk := 0 }

/-! ## Launches and gangs -/

/-- A held pipe end (R164). -/
structure PipeHold where
  pipe : Nat
  wr : Bool
  /-- number of the task that holds it -/
  owner : Nat
  deriving DecidableEq, Repr

/-- A resident launch, found by its space number (R87, R297, R405, R406, R428). -/
structure Launch where
  space : Nat
  lid : Nat
  l0tab : Nat
  image : Word
  /-- its measurement: 48 bytes (R428) -/
  measure : List Byte
  mb : Tab Word
  /-- pipes: count, virtual base of the descriptors, held ends (R163, R164) -/
  np : Nat
  pipes : Word
  held : List PipeHold
  deriving DecidableEq, Repr

/-- A gang on the module (R218, R219): members not yet done, its barriers, where its members run. -/
structure Gang where
  id : Nat
  space : Nat
  lid : Nat
  size : Nat
  alive : Nat
  bars : Tab Bar
  places : List (Nat × Nat)
  deriving DecidableEq, Repr

/-- A gang member before it starts: its record and its initial views (R52, R218). -/
structure Member where
  r : Rec
  viewV : Word
  viewT : Word
  deriving DecidableEq, Repr

/-- A context as a save area holds it (R291): its state, its window and banks, its rows, its unstarted commands. -/
structure SavedMember where
  ctx : Ctx
  core : Nat
  bank : BitVec 8
  window : Tab Granule
  tags : Tab Tag
  rows : Tab Granule
  sides : Tab (BitVec 32)
  cmds : List Cmd
  regions : List (Region × Tab Byte)
  deriving DecidableEq, Repr

/-- A saved gang, found by its save area (R287-R292, R429). -/
structure SavedGang where
  save : Nat
  /-- SIZE of the area (R287) -/
  size : Nat
  gang : Option Gang
  members : List SavedMember
  grotto : Option Nat
  /-- pipe ends its members held (R164, R291) -/
  held : List PipeHold
  deriving DecidableEq, Repr

/-- A gang waiting for admission (R218, R292): new members with the reply that is due, or a saved gang with its die. -/
inductive PendingGang where
  | fresh (space lid : Nat) (ms : List Member) (qp : Nat) (tag : BitVec 32) (pipes : Word)
  | saved (die : Nat) (g : SavedGang)
  deriving DecidableEq, Repr

/-! ## Dies: fault records and join units -/

/-- A fault record (R284). -/
structure FaultRec where
  /-- what the record is about: task number, command number or block number (the model's own) -/
  ref : Nat
  kind : Nat
  acc : Nat
  ea : Word
  pc : Word
  idx : Word
  core : Nat
  ctx : Nat
  deriving DecidableEq, Repr

/-- States of a join-table entry (R391); a FREE entry is not listed. -/
inductive JSt where
  | held
  | queued
  | ready
  deriving DecidableEq, Repr

/-- A joined reward (R389). -/
structure Reward where
  seq : BitVec 32
  step : Nat
  val : BitVec 32
  deriving DecidableEq, Repr

/-- A join-table entry (R360, R390, R391). `steps` is the physical address of each 64-byte unit of the steps, with the HOLD bits of a
read-duplicated page (R199); `descHold` the descriptor's. -/
structure JEntry where
  serial : Nat
  key : Word
  len : Nat
  nrew : Nat
  ver : BitVec 32
  vboot : BitVec 32
  desc : Word
  descPa : Nat
  descHold : Nat
  steps : List (Nat × Nat)
  seq : BitVec 32
  ngot : Nat
  flags : BitVec 32
  age : Nat
  st : JSt
  rewards : List Reward
  deriving DecidableEq, Repr

/-- A reward message (R362). -/
structure JMsg where
  key : Word
  step : BitVec 32
  seq : BitVec 32
  val : BitVec 32
  tail : List Byte
  /-- core and command that sent it (the model's own) -/
  core : Nat
  cmd : Nat
  deriving DecidableEq, Repr

/-- A held orphan (R392). -/
structure Orphan where
  m : JMsg
  age : Nat
  deriving DecidableEq, Repr

/-- A reward join unit (R388-R398). `queued` and `ready` list entry serials in the order of entering those states. -/
structure JoinUnit where
  cfg : Tab Word
  entries : List JEntry
  orphans : List Orphan
  inbox : List JMsg
  /-- what an arrival has still to judge (R393): 1 ages of entries then of orphans, 2 ages of orphans -/
  judge : Nat
  nextSerial : Nat
  nextSeal : Nat
  queued : List Nat
  ready : List Nat
  relq : List Word
  /-- a record that could not enter the queue of its grotto (R396) -/
  push : Option (Nat × Rec)
  counters : Tab Nat
  /-- launch that last wrote the configuration, for learner records (R383) -/
  space : Nat
  lid : Nat
  deriving DecidableEq, Repr

def JoinUnit.init : JoinUnit :=
  { cfg := [], entries := [], orphans := [], inbox := [], judge := 0, nextSerial := 0, nextSeal := 0, queued := [], ready := [], relq := [],
    push := none, counters := [], space := 0, lid := 0 }

/-- A compute die: fault records not yet placed, records placed and not yet answered by slot address, PUSHED (R283-R285). -/
structure Die where
  started : Bool
  waiting : List FaultRec
  placed : List (Nat × FaultRec)
  pushed : Nat
  unit : JoinUnit
  deriving DecidableEq, Repr

def Die.init : Die := { started := false, waiting := [], placed := [], pushed := 0, unit := JoinUnit.init }

/-! ## Stacks -/

/-- What a command that has begun has still to do (R378, R380): the granules of its destination not yet written, each written whole at one
point, in no stated order; the indices that a pooling command has read; the source bytes of a relayout as it began, for those that its own
writes have reached. -/
structure StackRun where
  left : List Nat
  idx : List Nat
  src : List Byte
  deriving DecidableEq, Repr

/-- An accepted command of a compute-capable block (R370, R371, R378): its kind, the physical address of the 2 MiB block it came
through, its word, the physical address of its source or index list, and how far it has come once it has begun. -/
structure StackCmd where
  kind : Nat
  /-- core, context and class of the store that submitted it (R196, R198) -/
  core : Nat
  ctx : Nat
  k : Nat
  block : Nat
  word : Word
  src : Nat
  run : Option StackRun
  deriving DecidableEq, Repr

/-- The 16 tiles that serve the blocks n with one value of n mod 6 of a stack (R176, R377): configuration, status window,
command queue, data store keyed by 64 KiB × stripe + byte. -/
structure Pearl where
  kind : Nat
  image : List Word
  configuring : Bool
  acc : Nat
  done : Nat
  rej : Nat
  rcode : Nat
  trapen : Bool
  rejea : Word
  nbad : Nat
  queue : List StackCmd
  store : Tab Byte
  deriving DecidableEq, Repr

def Pearl.init : Pearl :=
  { kind := 0, image := [], configuring := false, acc := 0, done := 0, rej := 0, rcode := 0, trapen := false, rejea := 0, nbad := 0,
    queue := [], store := [] }

/-- A bank's compute rows: disturbance counts of C0-C7 and the row the next refresh command takes (R375, R376). -/
structure BankRows where
  counts : Tab Nat
  next : Nat
  deriving DecidableEq, Repr

def BankRows.init : BankRows := ⟨[], 0⟩

/-! ## The I/O die and the controller -/

/-- An open storage connection (R407). -/
structure Conn where
  lbasz : Nat
  qdepth : Nat
  closing : Option (Nat × BitVec 32)
  deriving DecidableEq, Repr

/-- What an RDMA READ or a refused RDMA WRITE answers (R403): data, a remote access error, or a NAK of Remote Operational Error. -/
inductive HostAnswer where
  | data (bs : List Byte)
  | accessError
  | operationalError
  deriving DecidableEq, Repr

/-- The I/O die: connected queue pairs, those in the error state, replies sent, requests that wait, storage (R402-R408). -/
structure IoDie where
  started : Bool
  qps : List Nat
  qpErr : List Nat
  /-- replies in the order sent: queue pair and 64 bytes (R406) -/
  replies : List (Nat × List Byte)
  /-- answers to RDMA accesses, by queue pair (R403) -/
  reads : List (Nat × HostAnswer)
  conns : Tab (Option Conn)
  deriving DecidableEq, Repr

/-- The Koyth controller (R413, R417-R428). -/
structure Koyth where
  /-- steps of R418 done: 0 before power-up, 1 powered, 2 I/O die, 3 dies and grottos starting, 4 trained, 5 ready -/
  stage : Nat
  /-- STATE of the bring-up record (R419) -/
  state : Nat
  recovery : Bool
  svn : Nat
  floor : Nat
  /-- the image in flash, as bytes written by recovery; empty while the factory image stands -/
  flash : List Byte
  /-- SHA-384 of the image that runs, as verified (R425, R428) -/
  fwHash : List Byte
  capM : Nat
  capX : Nat
  draw : Nat
  throttled : Bool
  /-- sensor that last stood at its throttle value (R422) -/
  hot : Nat
  corrected : Nat
  forced : Nat
  dropped : Nat
  /-- retirement list in order of declaration (R423) -/
  retired : List Nat
  modId : Nat
  domain : List Nat
  unreachable : List Nat
  ringDown : List Nat
  linkDown : List Nat
  /-- Umaot counters, keyed by 8 × link + counter (R417) -/
  links : Tab Nat
  /-- consecutive retransmissions failed per ring boundary, resends per destination (R412, R416) -/
  retry : Tab Nat
  resent : Tab Nat
  /-- link through which an unreachable destination was last tried -/
  deadLink : Tab Nat
  /-- the request of TYPE 0x11 in progress (R426) -/
  loading : Option HostReq
  deriving DecidableEq, Repr

/-! ## The machine -/

/-- Stops of the model, by name. -/
inductive Fault where
  /-- raised by `step` when the controller has halted every die (R422): nothing runs until a power-up. Safe -/
  | thermalStop
  deriving DecidableEq, Repr

/-- Refusals of the model, by name. -/
inductive Refusal where
  /-- raised by a dispatch arm of an instruction without a meaning. Safe -/
  | notModelled (mnemonic : String)
  deriving DecidableEq, Repr

/-- What may go on when nothing is due (log 6, log 68): a device step whose time the spec leaves open, named as its instruction of the
table, or the next step of a core. -/
inductive Turn where
  | core (c : Nat)
  | translationQueryAnswer (c k : Nat)
  | loadReturn (c k i : Nat)
  | loadErrorReturn (c k i : Nat)
  | storePerform (c k i : Nat)
  /-- the window access at place `i` of its context: a reduction or a data access -/
  | windowAccess (c k i : Nat)
  | tableLoadComplete (c n : Nat)
  | relayoutCommand (c k : Nat)
  | poolingCommand (c k : Nat)
  | statusWindowStore (c k : Nat)
  | futureWake (c k : Nat)
  | pipeWake (c k : Nat)
  | spill (c k : Nat)
  | crossbarCommandComplete (c t : Nat)
  | engineCommandComplete (c id : Nat)
  | engineCommandStart (c id : Nat)
  | collMatch (c id : Nat)
  | handlerStart (c : Nat)
  | stepTake (c : Nat)
  | grottoPop (g : Nat)
  | steal (g : Nat)
  | waitResume (g i : Nat)
  | walkComplete (g i : Nat)
  | faultRecordPlacement (d : Nat)
  | faultAnswer (d i : Nat)
  | preemptRequest (d : Nat)
  | restoreRequest (d : Nat)
  | firmwareRecovery (q : HostReq)
  | rewardArrival (d : Nat)
  | episodeScan (d : Nat)
  | episodeRelease (d : Nat)
  | stackCommandComplete (b : Nat)
  | launch (q : HostReq)
  | closeStorageConnection (n : Nat)
  | migrationRequest
  deriving DecidableEq, Repr

/-- One module. -/
structure State where
  /-- the core and the context whose instruction the next `exec` performs -/
  curCore : Nat
  curCtx : Nat
  /-- index of the next free value (log 4) -/
  tick : Nat
  /-- what the outside world has placed: steps to wait, then the event (INVENTORY, Host interface) -/
  inputs : List (Nat × Instr)
  /-- bytes by domain physical address (R174) -/
  mem : List Host.Cell
  /-- poisoned 64-byte lines: address divided by 64 (R76, R294) -/
  poison : List Nat
  cores : Tab Core
  grottos : Tab Grotto
  dies : Tab Die
  pearls : Tab Pearl
  banks : Tab BankRows
  launches : List Launch
  nextLid : Nat
  /-- number of the next task (log 17) -/
  nextTid : Nat
  /-- number of the next request to another module (R415) -/
  nextReq : Nat
  /-- collectives that end without a match: number as in `Cmd.seq`, members of the table, status (R239, R240) -/
  collDead : List (Nat × List Nat × Nat)
  /-- collectives that every member of another module has issued (log 70) -/
  collFar : List Nat
  /-- physical addresses of the completion records that commands of RENQ name (R230) -/
  records : List Nat
  gangs : List Gang
  nextGang : Nat
  pending : List PendingGang
  /-- launches whose push waits for room: request, record, space number (R212, R406) -/
  launching : List (HostReq × Rec × Nat)
  saved : List SavedGang
  /-- leaf in transit by a migration (R309) -/
  transit : Option Nat
  /-- open steps and cores that must have a turn before the free choice goes on, and the steps until the next such round (R202, R225;
  log 68) -/
  owed : List Turn
  patience : Nat
  /-- bytes that are undefined to every reader while grottos run: first and length (R4, R211); the number of the free values that they give
  in this step (log 4) -/
  rings : List (Nat × Nat)
  blur : Nat
  io : IoDie
  koyth : Koyth
  deriving DecidableEq, Repr

/-- The I/O die before it starts. -/
def IoDie.init : IoDie := { started := false, qps := [], qpErr := [], replies := [], reads := [], conns := [] }

/-- The controller before power-up; the caps stand at their maximum after start (R420). -/
def Koyth.init : Koyth :=
  { stage := 0, state := 0, recovery := false, svn := 0, floor := 0, flash := [], fwHash := [], capM := 8, capX := 4, draw := 0,
    throttled := false, hot := 0, corrected := 0, forced := 0, dropped := 0, retired := [], modId := 0, domain := [],
    unreachable := [], ringDown := [], linkDown := [], links := [], retry := [], resent := [], deadLink := [], loading := none }

/-- Right after reset: before power-up (R418), nothing started, memory with nothing listed. -/
def State.reset : State :=
  { curCore := 0, curCtx := 0, tick := 0, inputs := [], mem := [], poison := [], cores := [], grottos := [], dies := [], pearls := [],
    banks := [], launches := [], nextLid := 0, nextTid := 0, nextReq := 0, collDead := [], collFar := [], records := [], gangs := [], nextGang := 0, pending := [], launching := [], saved := [], transit := none, owed := [], patience := 0, rings := [], blur := 0,
    io := IoDie.init, koyth := Koyth.init }

end Sys2Proof.Machine
end

