-- ==== Sys2Proof/Machine/Ops.lean ====
section
/-! DEFINITION. The named operations over registers, memory, translation and the program counter; taking a trap and returning from
one; and the frame every instruction issues in (spec/02 R29-R30, R43, spec/03 R56-R63, spec/11 R173-R178, spec/18 R278-R285,
spec/19 R297-R307). -/

namespace Sys2Proof.Machine

/-- The outcome of a step. -/
abbrev Out := Host.Outcome State Fault Refusal

/-! ## Reaching the parts of the state -/

def State.core (s : State) (c : Nat) : Core := Tab.get Core.init s.cores c
def State.setCore (s : State) (c : Nat) (x : Core) : State := { s with cores := Tab.set Core.init s.cores c x }
def Core.ctx (x : Core) (k : Nat) : Ctx := Tab.get (fun _ => Ctx.init) x.ctxs k
def Core.setCtx (x : Core) (k : Nat) (t : Ctx) : Core := { x with ctxs := Tab.set (fun _ => Ctx.init) x.ctxs k t }
def State.ctx (s : State) (c k : Nat) : Ctx := (s.core c).ctx k
def State.setCtx (s : State) (c k : Nat) (t : Ctx) : State := s.setCore c ((s.core c).setCtx k t)
def State.modCore (s : State) (c : Nat) (f : Core → Core) : State := s.setCore c (f (s.core c))
def State.modCtx (s : State) (c k : Nat) (f : Ctx → Ctx) : State := s.setCtx c k (f (s.ctx c k))
def State.grotto (s : State) (g : Nat) : Grotto := Tab.get (fun _ => Grotto.init) s.grottos g
def State.setGrotto (s : State) (g : Nat) (x : Grotto) : State :=
  { s with grottos := Tab.set (fun _ => Grotto.init) s.grottos g x }
def State.die (s : State) (d : Nat) : Die := Tab.get (fun _ => Die.init) s.dies d
def State.setDie (s : State) (d : Nat) (x : Die) : State := { s with dies := Tab.set (fun _ => Die.init) s.dies d x }
def State.pearl (s : State) (b : Nat) : Pearl := Tab.get (fun _ => Pearl.init) s.pearls b
def State.setPearl (s : State) (b : Nat) (x : Pearl) : State := { s with pearls := Tab.set (fun _ => Pearl.init) s.pearls b x }

/-- The issuing core and context. -/
def State.myCore (s : State) : Core := s.core s.curCore
def State.me (s : State) : Ctx := s.ctx s.curCore s.curCtx
def State.modMy (s : State) (f : Core → Core) : State := s.modCore s.curCore f
def State.modMe (s : State) (f : Ctx → Ctx) : State := s.modCtx s.curCore s.curCtx f

/-- R11: grotto and die of a core. -/
def grottoOf (c : Nat) : Nat := c / 32
def dieOf (c : Nat) : Nat := c / 256

/-! ## Registers (R35, R54) -/

/-- s0 reads zero. -/
def Ctx.rd (x : Ctx) (n : Nat) : Word := if n = 0 then 0 else Tab.get (fun _ => 0) x.sregs n
/-- Writes to s0 are discarded. -/
def Ctx.wr (x : Ctx) (n : Nat) (v : Word) : Ctx := if n = 0 then x else { x with sregs := Tab.set (fun _ => 0) x.sregs n v }
/-- The scalar register an access will write. -/
def AccKind.dst : AccKind → Nat
  | .load d _ | .amo d _ _ _ | .mbr d _ | .wload d _ _ => d
  | _ => 0
/-- The access without its result register. -/
def AccKind.noDst : AccKind → AccKind
  | .load _ g => .load 0 g
  | .amo _ o b e => .amo 0 o b e
  | .mbr _ n => .mbr 0 n
  | .wload _ g al => .wload 0 g al
  | k => k
/-- A later instruction has written register `n`: what outstanding loads of it bring is not kept (R77). -/
def Ctx.supersede (x : Ctx) (n : Nat) : Ctx :=
  { x with acc := x.acc.map fun a => if a.kind.dst == n then { a with kind := a.kind.noDst } else a }
/-- A result that a reader sees `lat` cycles after this one (R65, R70). The register holds it at once: of two results that are not
yet ready, and of a load's and a later one, the later instruction's stays (log 11). -/
def Ctx.wrLat (x : Ctx) (now n : Nat) (v : Word) (lat : Nat) : Ctx :=
  if n = 0 then x
  else { (x.supersede n).wr n v with busy := Tab.set (fun _ => 0) x.busy n (if lat ≤ 1 then 0 else now + lat) }

def allLanes : Lanes := BitVec.allOnes 192
/-- p0 reads all ones. -/
def Ctx.rdP (x : Ctx) (n : Nat) : Lanes := if n = 0 then allLanes else Tab.get (fun _ => 0) x.preds n
/-- M of p0 is always 0 (R54). -/
def Ctx.mark (x : Ctx) (n : Nat) : Bool := if n = 0 then false else Tab.get (fun _ => false) x.marks n
/-- A predicate with its mark. -/
def Ctx.wrP (x : Ctx) (n : Nat) (v : Lanes) (m : Bool) : Ctx :=
  if n = 0 then x
  else { x with preds := Tab.set (fun _ => 0) x.preds n v, marks := Tab.set (fun _ => false) x.marks n m }
/-- A predicate written by the scalar side with a latency (R66, R70, R73). -/
def Ctx.wrPLat (x : Ctx) (now n : Nat) (v : Lanes) (m : Bool) (lat : Nat) : Ctx :=
  { x.wrP n v m with busy := Tab.set (fun _ => 0) x.busy (64 + n) (now + lat) }

/-- One bit for every lane. -/
def lanesOf (b : Bool) : Lanes := if b then allLanes else 0

def Ctx.bt (x : Ctx) (n : Nat) : Word := Tab.get (fun _ => 0) x.bts n
def Ctx.setBt (x : Ctx) (n : Nat) (v : Word) : Ctx := { x with bts := Tab.set (fun _ => 0) x.bts n v }
def Ctx.loop (x : Ctx) (l : Nat) : LoopLevel := Tab.get (fun _ => LoopLevel.init) x.loops l
def Ctx.setLoop (x : Ctx) (l : Nat) (v : LoopLevel) : Ctx := { x with loops := Tab.set (fun _ => LoopLevel.init) x.loops l v }

/-- The current cycle of the issuing core. -/
def State.now (s : State) : Nat := s.myCore.clock

/-- Write a scalar result of the issuing context. -/
def State.putS (s : State) (n : Nat) (v : Word) (lat : Nat) : State := s.modMe fun x => x.wrLat s.now n v lat
/-- R127: lanes of a predicate that a result in flight will not write, a later one that lands no earlier having written them, mark
included. -/
def LandEff.cover (k n : Nat) (m : Lanes) : LandEff → LandEff
  | .pred c j d w b => if c = k ∧ j = n then .pred c j d (w &&& ~~~m) false else .pred c j d w b
  | e => e
def Landing.cover (k n due : Nat) (m : Lanes) (l : Landing) : Landing :=
  if l.due ≤ due then { l with effs := l.effs.map (LandEff.cover k n m) } else l
/-- Lanes of predicate `n` of context `k` have been written by the scalar side, to land in `lat` cycles. -/
def Core.cover (x : Core) (k n lat : Nat) (m : Lanes) : Core :=
  { x with landings := x.landings.map (Landing.cover k n (x.clock + lat) m) }
/-- Write a predicate result of the issuing context. -/
def State.putP (s : State) (n : Nat) (v : Lanes) (m : Bool) (lat : Nat) : State :=
  (s.modMe fun x => x.wrPLat s.now n v m lat).modMy fun y => y.cover s.curCtx n lat allLanes
def State.getS (s : State) (n : BitVec 6) : Word := s.me.rd n.toNat

/-- The generator word of this cycle (R148). -/
def State.rngWord (s : State) : BitVec 32 := Machine.rngWord s.myCore.rng

/-- Take a fresh free-value index (log 4). -/
def State.next (s : State) : Nat × State := (s.tick, { s with tick := s.tick + 1 })

/-! ## Memory (R173-R175, R294, R419) -/

/-- What a byte that nothing has written reads as (log 1). -/
def memDefault : Nat → Byte := fun _ => 0
def State.byte (s : State) (a : Nat) : Byte := Tab.get memDefault s.mem a
def State.setByte (s : State) (a : Nat) (v : Byte) : State := { s with mem := Tab.set memDefault s.mem a v }

/-- The canonical form of memory (Tables.lean). -/
abbrev Memory.wf (m : List Host.Cell) : Bool := Tab.wf memDefault m

def State.bytes (s : State) (a : Nat) : Nat → List Byte
  | 0 => []
  | n + 1 => s.byte a :: s.bytes (a + 1) n
/-- Little-endian read of `n` bytes. -/
def State.readN (s : State) (a n : Nat) : Nat := leNat (s.bytes a n)
def State.readWord (s : State) (a : Nat) : Word := BitVec.ofNat 64 (s.readN a 8)

/-- Store bytes one after another. -/
def memPut (m : List Host.Cell) : Nat → List Byte → List Host.Cell
  | _, [] => m
  | a, b :: bs => memPut (Tab.set memDefault m a b) (a + 1) bs
def State.putBytes (s : State) (a : Nat) (bs : List Byte) : State := { s with mem := memPut s.mem a bs }
def State.writeN (s : State) (a n v : Nat) : State := s.putBytes a (leBytes n v)
def State.writeWord (s : State) (a : Nat) (v : Word) : State := s.writeN a 8 v.toNat

/-- R4, R211: the byte is undefined to every reader. -/
def State.blurred (s : State) (a : Nat) : Bool := s.rings.any fun r => r.1 ≤ a && a < r.1 + r.2
/-- A byte as a reader finds it. -/
def State.seenByte (s : State) (a : Nat) : Byte := if s.blurred a then Config.byte s.blur a else s.byte a
def State.seen (s : State) (a : Nat) : Nat → List Byte
  | 0 => []
  | n + 1 => s.seenByte a :: s.seen (a + 1) n
def State.seenN (s : State) (a n : Nat) : Nat := leNat (s.seen a n)
def State.seenWord (s : State) (a : Nat) : Word := BitVec.ofNat 64 (s.seenN a 8)

/-- Poisoned lines. -/
def State.poisoned (s : State) (a : Nat) : Bool := s.poison.contains (a / 64)
def State.anyPoison (s : State) (a n : Nat) : Bool :=
  s.poison.any fun l => a / 64 ≤ l && l ≤ (a + n - 1) / 64
def State.poisonLine (s : State) (a : Nat) : State :=
  if s.poisoned a then s else { s with poison := (a / 64) :: s.poison }
def State.cleanLine (s : State) (l : Nat) : State := { s with poison := s.poison.filter (· != l) }

/-- Physical address in this module's first stack. -/
def State.pub (s : State) (o : Nat) : Nat := s.koyth.modId * 2 ^ 54 + o

/-- R174: module and place of a domain physical address. -/
def modOf (pa : Nat) : Nat := pa / 2 ^ 54
def placeOf (pa : Nat) : Nat := pa % 2 ^ 54

/-- R175: what a place leads to. -/
inductive Target where
  /-- an HBM address -/
  | hbm (a : Nat)
  /-- the slice of a core, and the byte in it -/
  | slice (c off : Nat)
  | reserved
  deriving DecidableEq, Repr

def targetOf (pa : Nat) : Target :=
  let p := placeOf pa
  if p < 0x4000000000 then .hbm p
  else if p < 0x4200000000 then .slice ((p - 0x4000000000) / 0x400000) (p % 0x400000)
  else if p < 0x6000000000 then .hbm p
  else if p < 0x6200000000 then .hbm (p - 0x2000000000)
  else .reserved

/-- Physical address of the slice of a core of this module. -/
def State.sliceBase (s : State) (c : Nat) : Nat := s.koyth.modId * 2 ^ 54 + 0x4000000000 + c * 0x400000

/-- R175: stack and offset of an HBM address. -/
def stackOf (a : Nat) : Nat := a / 0xC00000000
def stackOff (a : Nat) : Nat := a % 0xC00000000

/-- R419: bytes no party but firmware reaches, and the first page of the public region, which only firmware writes. -/
def privateByte (a : Nat) : Bool := stackOff a < 0x5000000 && !(stackOf a == 0 && stackOff a < 0x100000)
def firstPage (a : Nat) : Bool := a < 0x10000

/-- The place may be reached by a program's read or write: it exists and firmware does not keep it (R175, R419). -/
def placeOk (pa : Nat) (write : Bool) : Bool :=
  match targetOf pa with
  | .hbm a => !privateByte a && !(write && firstPage a)
  | .slice _ _ => true
  | .reserved => false

/-- A byte as a command of the stack's tiles reads it: one that no party may reach is refused, and what then stands for it is not stated
(log 85). -/
def State.tileByte (s : State) (t a : Nat) : Byte := if placeOk a false then s.seenByte a else Config.byte t a

/-- Place of an HBM address (R175). -/
def hbmPlace (a : Nat) : Nat := if 0x4000000000 ≤ a && a < 0x4200000000 then a + 0x2000000000 else a

/-- R307: the replica of an HBM byte in another stack. -/
def replicaOf (pa k : Nat) : Nat :=
  match targetOf pa with
  | .hbm a => modOf pa * 2 ^ 54 + hbmPlace (k * 0xC00000000 + stackOff a)
  | _ => pa

/-- Stacks other than the home that hold a replica. -/
def holders (pa hold : Nat) : List Nat :=
  match targetOf pa with
  | .hbm a => (List.range 8).filter fun k => hold / 2 ^ k % 2 == 1 && k != stackOf a
  | _ => []

/-- R307: where a party of a die reads a D page. -/
def readAt (pa hold die : Nat) : Nat := if (holders pa hold).contains die then replicaOf pa die else pa

/-- R413: the module is in the domain table, or is this one. -/
def State.inDomain (s : State) (m : Nat) : Bool := m == s.koyth.modId || s.koyth.domain.contains m

/-! ## Page tables and translation (R178, R297-R307) -/

/-- Effective attributes of a leaf (R178, R299). -/
structure Attr where
  r : Bool
  w : Bool
  x : Bool
  c : Bool
  p : Bool
  a : Bool
  d : Bool
  deriving DecidableEq, Repr

def attrOf (leaf : Word) (bytes pa : Nat) : Attr :=
  let hbm := match targetOf pa with | .hbm _ => true | _ => false
  let c := leaf.getLsbD 3 && leaf.getLsbD 4 && bytes == 0x200000 && hbm
  let d := leaf.getLsbD 6 && hbm
  { r := leaf.getLsbD 0, w := leaf.getLsbD 1, x := leaf.getLsbD 2 && hbm, c := c && !d, p := leaf.getLsbD 4,
    a := leaf.getLsbD 5, d := d && !c }

/-- The party of a write by a unit of the I/O die, which lies in no grotto (R187). -/
def ioParty : Nat × Nat := (65536, 0)

/-- Result of a walk or of a lookup. -/
inductive Tr where
  | hit (e : TlbEntry)
  | miss
  | malformed
  /-- the leaf is in transit: the requester waits (R309) -/
  | transit
  deriving DecidableEq, Repr

def ptAddr (e : Word) : Nat := (e &&& 0xFFFFFFFFFFFF0000).toNat

/-- R299: a table lies in HBM of this module. -/
def State.tableOk (s : State) (a : Nat) : Bool :=
  modOf a == s.koyth.modId && (match targetOf a with | .hbm h => !privateByte h | _ => false)

/-- R299: a pointer is 1 in its low 16 bits. -/
def isPointer (e : Word) : Bool := e.extractLsb' 0 16 == 1

/-- Entry of a table that an address selects at a level (R298). -/
def entryAt (level table va : Nat) : Nat :=
  table + 8 * (match level with | 0 => va / 2 ^ 39 % 2 ^ 13 | 1 => va / 2 ^ 21 % 2 ^ 18 | _ => va / 2 ^ 16 % 2 ^ 5)

/-- R298-R300: the walk from a level-2 table on. -/
def State.walk2 (s : State) (space table va : Nat) : Tr :=
  let a := entryAt 2 table va
  let e := s.readWord a
  if s.transit == some a then .transit
  else if e.extractLsb' 0 3 == 0 then .miss
  else if e.getLsbD 7 then .hit ⟨space, va / 2 ^ 16 * 2 ^ 16, 0x10000, e⟩
  else .malformed

/-- From a level-1 table on. -/
def State.walk1 (s : State) (space table va : Nat) : Tr :=
  let a := entryAt 1 table va
  let e := s.readWord a
  if s.transit == some a then .transit
  else if e.extractLsb' 0 3 == 0 then .miss
  else if e.getLsbD 7 then
    if e.extractLsb' 16 5 != 0 then .malformed else .hit ⟨space, va / 2 ^ 21 * 2 ^ 21, 0x200000, e⟩
  else if !isPointer e || !s.tableOk (ptAddr e) then .malformed
  else s.walk2 space (ptAddr e) va

/-- Over at most three levels. -/
def State.walk (s : State) (space l0 : Nat) (va : Nat) : Tr :=
  let e := s.readWord (entryAt 0 l0 va)
  if !s.tableOk l0 then .malformed
  else if e.extractLsb' 0 3 == 0 then .miss
  else if !isPointer e || !s.tableOk (ptAddr e) then .malformed
  else s.walk1 space (ptAddr e) va

/-- The launch of a space number. -/
def State.launchOf (s : State) (space : Nat) : Option Launch := s.launches.find? fun l => l.space == space

/-- A walk for a space. -/
def State.walkSpace (s : State) (space : Nat) (va : Nat) : Tr :=
  match s.launchOf space with
  | some l => s.walk space l.l0tab va
  | none => .miss

def TlbEntry.covers (e : TlbEntry) (space va : Nat) : Bool := e.space == space && e.va ≤ va && va < e.va + e.bytes
def TlbEntry.pa (e : TlbEntry) (va : Nat) : Nat := ptAddr e.leaf + (va - e.va)
def TlbEntry.attr (e : TlbEntry) : Attr := attrOf e.leaf e.bytes (ptAddr e.leaf)

/-- R173: fields of an effective address. -/
def eaTop (ea : Word) : Bool := ea.extractLsb' 56 8 != 0
def eaAlias (ea : Word) : Nat := (ea.extractLsb' 52 4).toNat
def eaVa (ea : Word) : Nat := (ea.extractLsb' 0 52).toNat

/-- A lookup in the control-side TLB of a core (R301). -/
def State.tlbHit (s : State) (c space va : Nat) : Option TlbEntry := (s.core c).tlb.find? fun e => e.covers space va

/-- Space number of the task of a context. -/
def Ctx.space (x : Ctx) : Nat := match x.task with | some t => t.r.space | none => 0
def Ctx.lid (x : Ctx) : Nat := match x.task with | some t => t.r.lid | none => 0
/-- Number of its task. -/
def Ctx.tid (x : Ctx) : Nat := match x.task with | some t => t.tid | none => 0

/-- What the issuing context learns of a virtual address: a translation, or why not yet, or why not. -/
inductive Look where
  | ok (pa : Nat) (at' : Attr)
  /-- a query is to be sent or is under way (R304) -/
  | wait
  | miss
  | malformed
  deriving DecidableEq, Repr

def samePage (a b : Word) : Bool := eaVa a / 0x10000 == eaVa b / 0x10000

/-- Translation at issue: a TLB hit, or the answer of the context's own query (R301-R304). -/
def State.look (s : State) (c k : Nat) (ea : Word) : Look :=
  let x := s.ctx c k
  match s.tlbHit c x.space (eaVa ea) with
  | some e => .ok (e.pa (eaVa ea)) e.attr
  | none =>
    match x.query with
    | some q =>
      if samePage q.va ea then (match q.ans with | some true => .miss | some false => .malformed | none => .wait) else .wait
    | none => .wait

/-- Send the query of a TLB miss; a context with one outstanding for another page sends it once that is answered (R304). -/
def Ctx.ask (x : Ctx) (ea : Word) : Ctx :=
  match x.query with
  | some q => if q.ans = none then x else { x with query := some ⟨ea, none⟩ }
  | none => { x with query := some ⟨ea, none⟩ }

/-- Keep an answered translation, dropping the oldest of more than `cap` (log 12). -/
def keepEntry (cap : Nat) (t : List TlbEntry) (e : TlbEntry) : List TlbEntry := (e :: t.filter (· != e)).take cap

/-- The set of an entry among the 512 of a slice of 4,096 entries in 8 ways (R301, log 12). -/
def TlbEntry.set (e : TlbEntry) : Nat := e.va / e.bytes % 512
/-- Keep a translation in a slice, dropping the oldest of more than 8 in its set. -/
def keepWay (t : List TlbEntry) (e : TlbEntry) : List TlbEntry :=
  let t := t.filter (· != e)
  let mine := t.filter fun x => x.set == e.set
  e :: (if mine.length < 8 then t else match mine.getLast? with | some x => t.erase x | none => t)
/-- Keep a pointer in a walk cache of 256. -/
def keepPtr (l : List PtrEntry) (p : PtrEntry) : List PtrEntry := (p :: l.filter fun q => !(q.space == p.space && q.level == p.level && q.key == p.key)).take 256

/-- R303: the home slice of an address. -/
def homeSlice (space va : Nat) : Nat :=
  let x := va / 2 ^ 21
  (x % 2 ^ 11) ^^^ (x / 2 ^ 11 % 2 ^ 11) ^^^ (x / 2 ^ 22 % 2 ^ 9) ^^^ (space % 2 ^ 11)

/-- A pointer that the home slice of an address has cached. -/
def State.cachedPtr (s : State) (space level va : Nat) : Option Nat :=
  let key := va / (if level = 0 then 2 ^ 39 else 2 ^ 21)
  ((s.core (homeSlice space va)).ptrs.find? fun p => p.space == space && p.level == level && p.key == key).map (·.table)

/-- What the home slice answers (R303): a translation it has cached, or a walk from the lowest table that its walk cache gives. -/
def State.homeAnswer (s : State) (space va : Nat) : Tr :=
  match (s.core (homeSlice space va)).l2tlb.find? fun e => e.covers space va with
  | some e => .hit e
  | none =>
    match s.cachedPtr space 1 va with
    | some t => s.walk2 space t va
    | none =>
      match s.cachedPtr space 0 va with
      | some t => s.walk1 space t va
      | none => s.walkSpace space va

/-- The pointers that a walk which has found a leaf has read: it starts from the lowest table that the walk cache gives (R300, R301). -/
def State.walkPtrs (s : State) (space va : Nat) : List PtrEntry :=
  let from0 := fun (t : Nat) =>
    let e := s.readWord (entryAt 1 t va)
    ⟨space, 0, va / 2 ^ 39, t⟩ :: (if isPointer e then [(⟨space, 1, va / 2 ^ 21, ptAddr e⟩ : PtrEntry)] else [])
  match s.cachedPtr space 1 va, s.cachedPtr space 0 va, s.launchOf space with
  | some u, _, _ => [⟨space, 1, va / 2 ^ 21, u⟩]
  | none, some t, _ => from0 t
  | none, none, some l => from0 (ptAddr (s.readWord (entryAt 0 l.l0tab va)))
  | none, none, none => []

/-- The home slice has the translation of an address. -/
def State.inSlice (s : State) (space va : Nat) : Bool := (s.core (homeSlice space va)).l2tlb.any fun e => e.covers space va

/-- The home slice keeps what it has answered, and of a walk the pointers it has read (R301). -/
def State.learn (s : State) (space va : Nat) : State :=
  match s.homeAnswer space va with
  | .hit e =>
    let l := if s.inSlice space va then [] else s.walkPtrs space va
    s.modCore (homeSlice space va) fun x => { x with l2tlb := keepWay x.l2tlb e, ptrs := l.foldl keepPtr x.ptrs }
  | _ => s

/-! ## Draining, stopping, trapping (R82, R129-R130, R258, R278-R282) -/

def AccKind.isLoad : AccKind → Bool
  | .load _ _ | .amo _ _ _ _ | .mbr _ _ | .vload _ _ _ | .wload _ _ _ => true
  | .store _ | .vstore _ _ | .mbw _ _ | .window _ _ | .fencel | .table _ => false
/-- The access writes memory: a store, or an atomic. -/
def AccKind.writes : AccKind → Bool
  | .store _ | .vstore _ _ | .mbw _ _ | .window _ _ | .amo _ _ _ _ => true
  | .load _ _ | .mbr _ _ | .vload _ _ _ | .wload _ _ _ | .fencel | .table _ => false
def Ctx.loads (x : Ctx) : List Access := x.acc.filter (·.kind.isLoad)
def Ctx.stores (x : Ctx) : List Access := x.acc.filter fun a => !a.kind.isLoad

/-- R315: the command runs on a crossbar tile. -/
def Engine.isTile : Engine → Bool
  | .tile _ => true
  | _ => false
def CmdSt.running? : CmdSt → Bool
  | .running _ => true
  | _ => false

/-- The command has begun its work: it has left its queue, no fault of its term has ended it there (R243), and an XUPD has read its
sources (R320). -/
def Cmd.underway (m : Cmd) : Bool :=
  (match m.st with
    | .queued | .armed _ => false
    | .missed _ _ => !(match m.ins with | .xupd _ => m.blk.isEmpty | _ => false)
    | .running _ => true) && m.fail != some 8

/-- R130: every result of the context has landed and every load has returned; its store buffer may still hold stores. -/
def Core.landed (x : Core) (k : Nat) : Bool :=
  x.landings.all (fun l => l.ctx != k) && (x.ctx k).loads.isEmpty && (x.ctx k).busy.all fun p => p.2 ≤ x.clock
/-- R130, R290: the drain of a trap, a park, a pre-emption and an abort also waits for the crossbar commands that have started, those held
on a missing translation included. -/
def Core.drained (x : Core) (k : Nat) : Bool :=
  x.landed k && x.cmds.all fun m => !(m.ctx == k && m.engine.isTile && m.underway)

/-- What every stop of R130 clears (R82, R203). An answer that a block's controller has given stands: the store it accepted or rejected is
not submitted again (R368). -/
def Ctx.stopClear (x : Ctx) : Ctx := { x with resv := none, spin := Spin.init, query := none, win := x.win.filter (·.ans.isSome), fenceh := none }

/-- R368: the context's window store has its answer, and takes it as it issues again. -/
def Ctx.answered (x : Ctx) : Bool := match x.win with | some q => q.ans.isSome | none => false

/-- R280: enter the handler of a cause. Taking any trap ends here. -/
def Ctx.enterTrap (fwvec : Word) (x : Ctx) (cause : Nat) (info pc : Word) : Ctx :=
  { x.stopClear with
    trapPc := pc
    trapCause := BitVec.ofNat 64 (x.level * 256 + cause)
    trapInfo := info
    level := if x.level = 2 then 2 else 1
    pc := (if x.level = 2 then fwvec else x.trapBase) + BitVec.ofNat 64 (64 * cause)
    delay := none
    run := .ready }

def State.enterTrap (s : State) (c k : Nat) (cause : Nat) (info pc : Word) : State :=
  s.modCtx c k fun x => x.enterTrap (s.core c).fwvec cause info pc

/-- R129: a trap raised at issue is entered at once where nothing is in flight, and else after the drain (TRAP_ENTRY). -/
def State.raise (s : State) (c k : Nat) (cause : Nat) (info pc : Word) : State :=
  if (s.core c).drained k then s.enterTrap c k cause info pc
  else s.modCtx c k fun x => { x.stopClear with run := .trapping cause info pc }

/-- R258: ERET's own effect, for a legal PREV and trap.pc. -/
def Ctx.trapReturn (x : Ctx) : Ctx :=
  { x with resv := none, pc := x.trapPc, level := (x.trapCause.extractLsb' 8 2).toNat }

/-! ## The program counter: end tests and delay slots (R58, R62, R203) -/

/-- The words an instruction at `pc` covers. -/
def covers (pc : Word) (len : Nat) (a : Word) : Bool := a == pc || (len == 2 && a == pc + 8)

/-- R62: END_TEST from the level above a count down to level 0; `none` where no level loops. -/
def Ctx.endTest (x : Ctx) (cov : Word → Bool) : Nat → Ctx × Bool
  | 0 => (x, false)
  | n + 1 =>
    let l := x.loop n
    if l.act && cov l.endw then
      let l1 := { l with lc := l.lc + 1 }
      if l1.lc.toNat < l1.trip.toNat then ({ x.setLoop n l1 with pc := l1.start }, true)
      else (x.setLoop n { l1 with act := false }).endTest cov n
    else x.endTest cov n

/-- R203: the detector's update with an interval's first load and whether it stored. -/
def Spin.update (p : Spin) (load : Option (Word × Word)) (stored : Bool) : Spin :=
  match load with
  | some (a, v) => if !stored && a == p.addr && v == p.val then { p with n := p.n + 1 } else { p with n := 0, addr := a, val := v }
  | none => { p with n := 0 }

/-- R203: the updates of closed intervals are made in their order, each once its first load has returned; with it, whether a count of
64 calls for a yield. -/
def Spin.drain (p : Spin) : List Interval → Spin × Bool
  | [] => ({ p with pend := [] }, false)
  | i :: t =>
    match i.load with
    | some (_, none) => ({ p with pend := i :: t }, false)
    | l =>
      let q := p.update (l.bind fun r => r.2.map fun v => (r.1, v)) i.stored
      let r := q.drain t
      (r.1, decide (64 ≤ q.n) || r.2)

/-- R203: a backward transfer ends an interval; while N stands at 64 or above the context yields. -/
def Spin.backward (p : Spin) : Spin × Bool :=
  let r := ({ p with cur := ⟨p.cur.num + 1, none, false⟩ } : Spin).drain (p.pend ++ [p.cur])
  (r.1, r.2 || decide (64 ≤ r.1.n))

/-- R203: the first load of interval `n` has returned `v`. -/
def Interval.returned (n : Nat) (v : Word) (i : Interval) : Interval :=
  if i.num = n then { i with load := i.load.map fun l => (l.1, some v) } else i
def Spin.returned (p : Spin) (n : Nat) (v : Word) : Spin × Bool :=
  ({ p with cur := p.cur.returned n v } : Spin).drain (p.pend.map (Interval.returned n v))

/-- R203: the running interval has issued a store or what counts as one. -/
def Spin.stores (p : Spin) : Spin := { p with cur := { p.cur with stored := true } }

/-- R160: the core does not choose the context again until every other ready context has issued once. -/
def Core.passOver (x : Core) (k : Nat) : Core :=
  x.setCtx k { x.ctx k with yieldTo := [0, 1, 2, 3].filter fun j => j != k && (x.ctx j).task.isSome }

/-- R203: a context whose count has reached 64 yields at its backward transfers. -/
def Core.spinBack (x : Core) (k : Nat) : Core :=
  let t := x.ctx k
  let p := t.spin.backward
  let x := x.setCtx k { t with spin := p.1 }
  if p.2 then x.passOver k else x

/-- The program counter steps past an instruction of `len` words (R58, R62). -/
def Core.advance (x : Core) (k len : Nat) : Core :=
  let t := x.ctx k
  match t.delay with
  | some d =>
    if d.left = 2 then x.setCtx k { t with pc := t.pc + 8, delay := some { d with left := 1 } }
    else if d.taken then
      let x := x.setCtx k { t with pc := d.target, delay := none }
      if d.target.toNat ≤ (t.pc - 16).toNat then x.spinBack k else x
    else
      let (t, back) := ({ t with pc := t.pc + 8, delay := none } : Ctx).endTest (covers t.pc len) 4
      let x := x.setCtx k t
      if back then x.spinBack k else x
  | none =>
    let (t, back) := ({ t with pc := t.pc + BitVec.ofNat 64 (8 * len) } : Ctx).endTest (covers t.pc len) 4
    let x := x.setCtx k t
    if back then x.spinBack k else x

/-- Instructions the context has issued after an access (R131). -/
def Access.later (a : Access) : Nat := a.after - 1

/-- Counting an issued instruction (R82, R124, R131, R160). -/
def Ctx.counted (x : Ctx) : Ctx :=
  { x with
    resv := x.resv.map fun r => { r with issued := r.issued + 1 }
    acc := x.acc.map fun a => { a with after := a.after + 1 } }
def Core.countIssue (x : Core) (k : Nat) : Core :=
  let x := x.setCtx k (x.ctx k).counted
  let free := fun (x : Core) j => x.setCtx j { x.ctx j with yieldTo := (x.ctx j).yieldTo.filter (· != k) }
  { [0, 1, 2, 3].foldl (fun x j => if (x.ctx j).yieldTo.isEmpty then x else free x j) x with last := k, issued := true }

/-! ## The frame of an instruction (R30) -/

/-- What the body of an instruction answers. -/
inductive Issue where
  /-- the effect is done; the program counter steps past the instruction -/
  | done (s : State)
  /-- the effect is done and has set the program counter -/
  | jump (s : State)
  /-- a trap is raised; the instruction has no effect -/
  | trap (cause : Nat) (info : Word)
  /-- a trap is raised after the side effect the spec gives the refusal (R368, R416) -/
  | trapAfter (s : State) (cause : Nat) (info : Word)
  /-- the instruction is held at issue; the state given changes nothing architectural but a query or a wake -/
  | wait (s : State)
  /-- the context parks on a missing translation (R282): access kind and address -/
  | park (acc : Nat) (ea : Word)
  deriving Repr

/-- A held instruction issues again in a later cycle (R125). -/
def State.hold (s : State) : State := s.modMe fun x => { x with held := true }

/-- R282: park, and hand a KIND 1 record to the die. -/
def State.parkMe (s : State) (acc : Nat) (ea : Word) : State :=
  let pc := s.me.pc
  let s := s.modMe fun x => { x.stopClear with run := .parked acc ea, since := s.now }
  let d := dieOf s.curCore
  let r : FaultRec := { ref := s.me.tid, kind := 1, acc := acc, ea := ea, pc := pc, idx := 0, core := s.curCore, ctx := s.curCtx }
  s.setDie d { s.die d with waiting := (s.die d).waiting ++ [r] }

/-- The state after an instruction of `len` words whose body answered. -/
def State.finish (s : State) (len : Nat) : Issue → State
  | .done t => t.modMy fun x => (x.countIssue s.curCtx).advance s.curCtx len
  | .jump t => t.modMy fun x => x.countIssue s.curCtx
  | .trap cause info => (s.modMy fun x => { x with last := s.curCtx, issued := true }).raise s.curCore s.curCtx cause info s.me.pc
  | .trapAfter t cause info => (t.modMy fun x => { x with last := s.curCtx, issued := true }).raise s.curCore s.curCtx cause info s.me.pc
  | .wait t => t.hold
  | .park acc ea => s.parkMe acc ea

/-- The pending bits of predicates (R128). -/
def Core.predPending (x : Core) (k n : Nat) : Bool :=
  x.landings.any fun l => l.effs.any fun e => match e with | .pred c m _ _ _ => c == k && m == n | _ => false

/-- The condition of a scalar guard (R29). -/
def Ctx.guardTrue (x : Ctx) (g : Guard) : Bool := g.g == 31 || ((x.rdP g.g.toNat).getLsbD 0 != g.gn)
/-- The lane mask of a vector instruction (R29). -/
def Ctx.mask (x : Ctx) (g : Guard) : Lanes :=
  if g.g == 31 then allLanes else if g.gn then ~~~(x.rdP g.g.toNat) else x.rdP g.g.toNat

def predInfo (n : Nat) : Word := BitVec.ofNat 64 (2 ^ 63 + n)

/-- No outstanding load will write the scalar register (R77, R125). -/
def Ctx.free (x : Ctx) (n : Nat) : Bool := n == 0 || n ≥ 64 || x.acc.all fun a => a.kind.dst != n

/-- A scalar register or predicate (64 + n) may be read in this cycle (R65, R73, R77). -/
def Core.ready (x : Core) (k n : Nat) : Bool := Tab.get (fun _ => 0) (x.ctx k).busy n ≤ x.clock && (x.ctx k).free n

/-- Privilege check (check 2). -/
def State.lowLevel (s : State) (lvl : Nat) : Bool := decide (s.me.level < lvl)

/-- Word 0 of an instruction, for trap.info of cause 0x02. -/
def word0 (i : Instr) : Word := match encode i with | some (w :: _) => w | _ => 0

/-- Checks 2 and 3 of R30; the body learns whether the guard holds. `lvl` is the level the instruction needs. -/
def State.issueGuard (s : State) (i : Instr) (len lvl : Nat) (gd : Guard) (body : State → Bool → Issue) : Out :=
  .next <| s.finish len <|
    if s.lowLevel lvl then .trap 0x02 (word0 i)
    else if gd.g != 31 && !s.myCore.ready s.curCtx (64 + gd.g.toNat) then .wait s
    else if gd.g != 31 && s.me.dbgPend.getLsbD 0 && s.myCore.predPending s.curCtx gd.g.toNat then .trap 0x09 (predInfo gd.g.toNat)
    else if gd.g != 31 && s.me.mark gd.g.toNat then .trap 0x04 (predInfo gd.g.toNat)
    else body s (s.me.guardTrue gd)

/-- The interlocks of R65 and R77: `rd` are the scalar registers and predicates (64 + n) read. What an instruction only writes holds
nothing (R77). -/
def State.interlock (s : State) (rd : List Nat) (body : Issue) : Issue :=
  if rd.all (s.myCore.ready s.curCtx) then body else .wait s

/-- A scalar-guarded instruction of `len` words: a false guard ends it without effect (R29). -/
def State.issueAt (s : State) (i : Instr) (len lvl : Nat) (gd : Guard) (rd : List Nat) (body : State → Issue) : Out :=
  s.issueGuard i len lvl gd fun s g => if g then s.interlock rd (body s) else .done s

/-- A scalar-guarded instruction of one word at task level. -/
def State.issue (s : State) (i : Instr) (gd : Guard) (regs : List Nat) (body : State → Issue) : Out :=
  s.issueAt i 1 0 gd regs body

/-- R128: read predicates at check 6, unmarked where exactness is asked for at check 7 (R55). -/
def State.checkPreds (s : State) (ps exact : List Nat) (body : Issue) : Issue :=
  match ps.find? fun n => s.me.dbgPend.getLsbD 0 && s.myCore.predPending s.curCtx n with
  | some n => .trap 0x09 (predInfo n)
  | none =>
    match exact.find? fun n => s.me.mark n with
    | some n => .trap 0x04 (predInfo n)
    | none => body

end Sys2Proof.Machine
end

