-- ==== Sys2Proof/Machine/Operands.lean ====
section
/-! DEFINITION. Operand forms: views and accumulator rows (spec/02 R36-R42), elements of rows (spec/05 R89), their checks in the
order of R30, results in flight (spec/07 R126-R128), the range checker (spec/11 R185-R186), layout words (R179-R184), row addresses
(spec/05 R105-R106), and instruction fetch (spec/11 R178, spec/18 R281, R295). -/

namespace Sys2Proof.Machine

/-! ## Views and rows -/

/-- A named row: a byte offset in the context's own window (with the offset of its view, for trap 0x07), or a grant index. -/
inductive RowRef where
  | win (off first : Nat)
  | acc (n : Nat)
  deriving DecidableEq, Repr

/-- R40: fields of a view word. -/
def viewBase (w : Word) : Nat := (w.extractLsb' 0 16).toNat
def viewStride (w : Word) : Nat := (w.extractLsb' 32 16).toNat
def Ctx.vRow (x : Ctx) (n : Nat) : RowRef :=
  let o := viewBase x.viewV + n * viewStride x.viewV
  .win o o
/-- Row i of a tile view. -/
def Ctx.tRow (x : Ctx) (m i : Nat) : RowRef :=
  let o := viewBase x.viewT + m * viewStride x.viewT
  .win (o + 768 * i) o

/-- R41: fields of the grant. -/
def grantBase (w : Word) : Nat := (w.extractLsb' 0 10).toNat
def grantCount (w : Word) : Nat := (w.extractLsb' 32 11).toNat
def Ctx.accOk (x : Ctx) (n : Nat) : Bool := n < grantCount x.grant && grantBase x.grant + n ≤ 1023
/-- Absolute row of a grant index. -/
def Ctx.accRow (x : Ctx) (n : Nat) : Nat := grantBase x.grant + n

/-- First granule of an accumulator row (R36). -/
def accGran (row : Nat) : Nat := 4096 + 12 * row
/-- First granule of a named row of context `k`. -/
def Ctx.rowGran (x : Ctx) (k : Nat) : RowRef → Nat
  | .win off _ => k * 1024 + off / 64
  | .acc n => accGran (x.accRow n)

def Core.gran (x : Core) (g : Nat) : Granule := Tab.get (fun _ => 0) x.space g
def Core.setGran (x : Core) (g : Nat) (v : Granule) : Core := { x with space := Tab.set (fun _ => 0) x.space g v }
def Core.tag (x : Core) (g : Nat) : Tag := Tab.get (fun _ => Tag.exact) x.tags g
def Core.setTag (x : Core) (g : Nat) (t : Tag) : Core := { x with tags := Tab.set (fun _ => Tag.exact) x.tags g t }
def Core.side (x : Core) (row : Nat) : BitVec 32 := Tab.get (fun _ => 0) x.sides row
def Core.setSide (x : Core) (row : Nat) (v : BitVec 32) : Core := { x with sides := Tab.set (fun _ => 0) x.sides row v }

/-- R37: fields of a side word. -/
def sideTag (v : BitVec 32) : Tag := ⟨v.getLsbD 31, if v.getLsbD 31 then v.extractLsb' 0 16 else 0⟩
def sidePoison (v : BitVec 32) : Bool := v.getLsbD 30
def mkSide (t : Tag) (poison : Bool) : BitVec 32 :=
  BitVec.ofBool t.b ++ BitVec.ofBool poison ++ (0 : BitVec 14) ++ (if t.b then t.bound else 0)

/-- The 768 bytes of a row from its first granule. -/
def Core.row (x : Core) (g : Nat) : Row :=
  (List.range 12).foldl (fun r i => r ||| ((x.gran (g + i)).setWidth 6144 <<< (512 * i))) 0
/-- R90: the tag of a window row. -/
def Core.rowTag (x : Core) (g : Nat) : Tag := (List.range 12).foldl (fun t i => t.or (x.tag (g + i))) .exact

/-- The tag of a named row: granule tags or the side word. -/
def State.refTag (s : State) (r : RowRef) : Tag :=
  match r with
  | .win _ _ => s.myCore.rowTag (s.me.rowGran s.curCtx r)
  | .acc n => sideTag (s.myCore.side (s.me.accRow n))
/-- The bytes of a named row. -/
def State.refRow (s : State) (r : RowRef) : Row := s.myCore.row (s.me.rowGran s.curCtx r)

/-! ## Elements (R89) -/

/-- The lanes of a list. -/
def lanesIn (l : List Nat) : Lanes := l.foldl (fun m i => if i < 192 then m ||| ((1 : Lanes) <<< i) else m) 0

/-- Element k of a row, by width. -/
def elem (w : Nat) (r : Row) (k : Nat) : Nat := (r.toNat / 2 ^ (w * k)) % 2 ^ w
/-- Lane of element k. -/
def laneOf (w k : Nat) : Nat := k * w / 32
def rowOfElems (w : Nat) (l : List Nat) : Row :=
  BitVec.ofNat 6144 (l.foldr (fun v acc => v % 2 ^ w + 2 ^ w * acc) 0)
/-- The bits of the lanes of a mask. -/
def laneBits (m : Lanes) : Row := rowOfElems 32 ((List.range 192).map fun l => if m.getLsbD l then 2 ^ 32 - 1 else 0)
/-- A row computed element by element; elements outside the mask are 0. -/
def mapElems (w : Nat) (m : Lanes) (f : Nat → Nat) : Row :=
  rowOfElems w ((List.range (6144 / w)).map fun k => if m.getLsbD (laneOf w k) then f k else 0)
/-- R141: the generator word of an element of a type of width `w`. -/
def elemRandom (g : BitVec 32) (w k : Nat) : Nat :=
  let l := laneOf w k
  (rotl32 g (l + w * (k - l * (32 / w)))).toNat

/-! ## Results in flight (R90, R126) -/

/-- R139: poison bits are set. -/
def Ctx.setPoison (x : Ctx) (m : Word) : Ctx := { x with engPoison := x.engPoison ||| m, poisonNow := x.poisonNow ||| m }

/-- One effect of a landing result. -/
def Core.landEff (x : Core) : LandEff → Core
  | .gran g data mask tag =>
    let x' := x.setGran g ((x.gran g &&& ~~~mask) ||| (data &&& mask))
    let whole := mask == BitVec.allOnes 512
    let x' := if whole && x.bad.contains g then { x' with bad := x'.bad.filter (· != g) } else x'
    if g < 4096 then x'.setTag g (if whole then tag else (x.tag g).or tag) else x'
  | .pred k n data mask mark =>
    let t := x.ctx k
    x.setCtx k (t.wrP n ((t.rdP n &&& ~~~mask) ||| (data &&& mask)) (mark || (t.mark n && mask != allLanes)))
  | .sideSet row v => x.setSide row v
  | .sideOr row t => x.setSide row (mkSide ((sideTag (x.side row)).or t) (sidePoison (x.side row)))
  | .sideTag row t => x.setSide row (mkSide t (sidePoison (x.side row)))
  | .clearTag g => x.setTag g .exact
  | .poisonVc k => x.setCtx k ((x.ctx k).setPoison 1)

/-- Put a result behind those that land no later (R127). -/
def landInsert (l : Landing) : List Landing → List Landing
  | [] => [l]
  | m :: t => if l.due < m.due then l :: m :: t else m :: landInsert l t

/-- Every result due by now lands, in the order of landing cycles and then of issue (R127). -/
def Core.landDue (x : Core) : Core :=
  let due := (x.landings.filter fun l => l.due ≤ x.clock).foldl (fun t l => landInsert l t) []
  due.foldl (fun x l => l.effs.foldl Core.landEff x) { x with landings := x.landings.filter fun l => !(l.due ≤ x.clock) }

/-- The effects that write a row from granule `g` under a bit mask. -/
def rowEffs (g : Nat) (data mask : Row) (tag : Tag) : List LandEff :=
  (List.range 12).filterMap fun i =>
    let m := mask.extractLsb' (512 * i) 512
    if m = 0 then none else some (.gran (g + i) (data.extractLsb' (512 * i) 512) m tag)

/-- Schedule a result of the issuing context (R126). -/
def State.land (s : State) (lat : Nat) (effs : List LandEff) : State :=
  if effs.isEmpty then s
  else s.modMy fun x => { x with landings := x.landings ++ [{ due := x.clock + lat, ctx := s.curCtx, effs := effs }] }

/-- A vector result: a row of the window, under a lane mask (R94). -/
def State.landRow (s : State) (lat : Nat) (d : RowRef) (m : Lanes) (data : Row) (tag : Tag) : State :=
  s.land lat (rowEffs (s.me.rowGran s.curCtx d) data (laneBits m) tag)

/-- R128: bits of a granule that results in flight will write; a tag in flight counts for its words. -/
def Core.granPending (x : Core) (g : Nat) : Granule :=
  x.landings.foldl (fun m l => l.effs.foldl (fun m e =>
    match e with
    | .gran h _ k _ => if h = g then m ||| k else m
    | .clearTag h => if h = g then BitVec.allOnes 512 else m
    | _ => m) m) 0

/-- Register-space address of the lowest pending word of a row among those that are read. -/
def Core.rowPending (x : Core) (g : Nat) (m : Lanes) : Option Nat :=
  (List.range 192).findSome? fun l =>
    if m.getLsbD l && (x.granPending (g + l / 16)).extractLsb' (32 * (l % 16)) 32 != 0 then some ((g * 64) + 4 * l) else none

/-! ## Banks (R38, R39) -/

/-- Two-bit state of a bank. -/
def bankState (w : Word) (k bank : Nat) : BitVec 2 := w.extractLsb' (8 * k + 2 * bank) 2
def setBank (w : Word) (k bank : Nat) (v : BitVec 2) : Word :=
  let sh := 8 * k + 2 * bank
  (w &&& ~~~((3 : Word) <<< sh)) ||| (v.setWidth 64 <<< sh)

/-- Banks that a window row touches. -/
def rowBanks (off : Nat) : List Nat := ((List.range 4).filter fun b => b * 0x4000 < off + 768 && off < (b + 1) * 0x4000)

/-! ## The range checker (R95, R186) -/

def Part.hits (p q : Part) : Bool := p.rows == q.rows && p.lo ≤ q.hi && q.lo ≤ p.hi && (p.write || q.write)
/-- The access conflicts with a queued or running command of the core. -/
def Core.rangeHold (x : Core) (ps : List Part) : Bool := x.cmds.any fun m => m.parts.any fun q => ps.any (·.hits q)

/-! ## Checks 4 to 8 of R30 -/

/-- How an instruction uses a row, and which of its lanes it reads or writes. -/
structure RowUse where
  ref : RowRef
  lanes : Lanes
  read : Bool
  write : Bool
  /-- a bounded source is refused (R92) -/
  exact : Bool
  /-- a poisoned accumulator row is refused (R110) -/
  poison : Bool
  /-- trap.info of a refused bounded source, where it is not the row's own address (R278) -/
  info : Option Word
  deriving DecidableEq, Repr

def useRead (r : RowRef) (m : Lanes) : RowUse := ⟨r, m, true, false, false, true, none⟩
def useExact (r : RowRef) (m : Lanes) : RowUse := ⟨r, m, true, false, true, true, none⟩
def useWrite (r : RowRef) (m : Lanes) : RowUse := ⟨r, m, false, true, false, false, none⟩

/-- The lanes of granule `i` of a row. -/
def granLanes (m : Lanes) (i : Nat) : BitVec 16 := m.extractLsb' (16 * i) 16

/-- R107: lanes of a row whose data a remote load has not yet returned. -/
def Ctx.loadingGran (x : Ctx) (g : Nat) (m : Lanes) : Bool :=
  x.acc.any fun a => match a.kind with
    | .vload h k _ => (List.range 12).any fun i =>
        h ≤ g + i && g + i < h + a.bits.length * a.ew / 512 && (granLanes m i &&& granLanes k ((g + i - h) % 12)) != 0
    | _ => false

/-- Check 4: the lowest named byte in an off bank, of the context's own window. -/
def State.bankOff (s : State) (us : List RowUse) : Option Nat :=
  let offs := us.flatMap fun u => match u.ref with
    | .win o _ => (rowBanks o).filterMap fun b => if bankState s.myCore.bank s.curCtx b = 0 then some (max o (b * 0x4000)) else none
    | .acc _ => []
  offs.foldl (fun m o => match m with | some n => some (min n o) | none => some o) none

/-- Banks in retention that the rows name. -/
def State.bankAsleep (s : State) (us : List RowUse) : List Nat :=
  us.flatMap fun u => match u.ref with
    | .win o _ => (rowBanks o).filter fun b => bankState s.myCore.bank s.curCtx b = 1
    | .acc _ => []

/-- R39: wake banks; the context issues nothing for 20 cycles. The spec gives the banks no state for those cycles: here they are on, and
pw.bank reads so, from the start of the stall (log 72). -/
def State.wake (s : State) (bs : List Nat) : State :=
  let s := s.modMy fun x => { x with bank := bs.foldl (fun w b => setBank w s.curCtx b 3) x.bank }
  s.modMe fun x => { x with stall := s.now + 20 }

/-- Check 5: the first row out of bounds. -/
def State.viewOut (s : State) (us : List RowUse) : Option Word :=
  us.findSome? fun u => match u.ref with
    | .win o f => if 65536 < o + 768 then some (BitVec.ofNat 64 f) else none
    | .acc n => if s.me.accOk n then none else some (BitVec.ofNat 64 (2 ^ 62 + n))

def State.useParts (s : State) (us : List RowUse) : List Part :=
  us.filterMap fun u => match u.ref with
    | .acc n => some ⟨true, s.me.accRow n, s.me.accRow n, u.write⟩
    | .win _ _ => none

/-- Address of the lowest bounded granule of a window row, or of the bounded accumulator row. -/
def State.boundedAt (s : State) (r : RowRef) : Option Nat :=
  let g := s.me.rowGran s.curCtx r
  match r with
  | .win _ _ => (List.range 12).findSome? fun i => if (s.myCore.tag (g + i)).b then some (64 * (g + i)) else none
  | .acc n => if (s.myCore.side (s.me.accRow n)).getLsbD 31 then some (64 * g) else none

/-- The lowest granule that is read of a window row and holds an uncorrectable error (R294). -/
def State.badIn (s : State) (r : RowRef) (m : Lanes) : Option Nat :=
  let g := s.me.rowGran s.curCtx r
  ((List.range 12).find? fun i => granLanes m i != 0 && s.myCore.bad.contains (g + i)).map (g + ·)

/-- The second of the pair with the least first. -/
def lowest : List (Nat × Word) → Option Word
  | [] => none
  | p :: t => some (t.foldl (fun q r => if r.1 < q.1 then r else q) p).2

/-- Check 6: the lowest pending word that is read, in debug mode (R128). -/
def State.pendingWord (s : State) (us : List RowUse) : Option Word :=
  if s.me.dbgPend.getLsbD 0 then
    lowest (us.filterMap fun u =>
      if u.read then (s.myCore.rowPending (s.me.rowGran s.curCtx u.ref) u.lanes).map fun a => (a, BitVec.ofNat 64 a) else none)
  else none

/-- Check 7: the lowest bounded granule of the rows that must be exact (R278). -/
def State.boundedUse (s : State) (us : List RowUse) : Option Word :=
  lowest (us.filterMap fun u => if u.exact then (s.boundedAt u.ref).map fun a => (a, u.info.getD (BitVec.ofNat 64 a)) else none)

/-- Rows named by a vector instruction: interlocks, then checks 4 to 8 of R30, then the body. `preds` are read, `exactPreds`
must be unmarked. Of several pending words and predicates, of which R128 gives no order, trap.info tells the lowest word before any
predicate, and of predicates the first listed, the mask before a select operand (log 72). Two places the spec leaves open, log 72: a bank in retention wakes before 0x07 is judged, and the error of a window
granule (0x0B, R294) is told after check 8 and before checks 9 to 11. -/
def State.checkRows (s : State) (us : List RowUse) (preds exactPreds : List Nat) (body : Issue) : Issue :=
  if us.any fun u => s.me.loadingGran (s.me.rowGran s.curCtx u.ref) u.lanes then .wait s
  else match s.bankOff us with
  | some o => .trap 0x03 (BitVec.ofNat 64 (s.curCtx * 0x10000 + o))
  | none =>
  if !(s.bankAsleep us).isEmpty then .wait (s.wake (s.bankAsleep us))
  else match s.viewOut us with
  | some w => .trap 0x07 w
  | none =>
  if s.myCore.rangeHold (s.useParts us) then .wait s
  else match s.pendingWord us with
  | some a => .trap 0x09 a
  | none =>
  match preds.find? fun n => s.me.dbgPend.getLsbD 0 && s.myCore.predPending s.curCtx n with
  | some n => .trap 0x09 (predInfo n)
  | none =>
  match exactPreds.find? fun n => s.me.mark n with
  | some n => .trap 0x04 (predInfo n)
  | none =>
  match s.boundedUse us with
  | some a => .trap 0x04 a
  | none =>
  match us.findSome? fun u => match u.ref with
    | .acc n => if u.poison && sidePoison (s.myCore.side (s.me.accRow n)) then some (s.me.accRow n) else none
    | .win _ _ => none with
  | some r => .trap 0x0A (BitVec.ofNat 64 (0x40000 + 768 * r))
  | none =>
  match us.findSome? fun u => if u.read then s.badIn u.ref u.lanes else none with
  | some g => .trap 0x0B (BitVec.ofNat 64 (64 * g))
  | none => body

/-- A vector instruction: encoding and privilege hold, its mask is no guard; `regs` are the scalars it reads (R29, R30). -/
def State.issueV (s : State) (_i : Instr) (gd : Guard) (regs : List Nat) (body : State → Lanes → Issue) : Out :=
  .next <| s.finish 1 <|
    if gd.g != 31 && !s.myCore.ready s.curCtx (64 + gd.g.toNat) then .wait s
    else if !(regs.all (s.myCore.ready s.curCtx)) then .wait s
    else body s (s.me.mask gd)

/-- The predicate a mask names, if any. -/
def maskPred (gd : Guard) : List Nat := if gd.g == 31 then [] else [gd.g.toNat]

/-! ## Layout words (R179-R181) -/

structure Lay where
  tpitch : Nat
  rpitch : Nat
  t : Bool
  rot : Nat
  esz : Nat
  fmt : Nat
  deriving DecidableEq, Repr

def layOf (w : Word) : Lay :=
  { tpitch := (w.extractLsb' 32 16).toNat, rpitch := (w.extractLsb' 16 16).toNat, t := w.getLsbD 8,
    rot := (w.extractLsb' 5 3).toNat, esz := (w.extractLsb' 2 3).toNat, fmt := (w.extractLsb' 0 2).toNat }
/-- Element width in bits and elements per logical row. -/
def Lay.e (l : Lay) : Nat := 4 * 2 ^ l.esz
def Lay.n (l : Lay) : Nat := 6144 / l.e

/-- R180. -/
def layoutOk (w : Word) : Bool :=
  let l := layOf w
  w.extractLsb' 48 16 == 0 && w.extractLsb' 9 7 == 0 && l.esz < 4 && l.fmt < 2 &&
  (if l.fmt = 0 then !l.t && l.tpitch == 0 && 12 ≤ l.rpitch
   else l.e * 2 ≤ l.tpitch && (l.n / 32) * l.tpitch ≤ l.rpitch)

/-- Bit `b` of a coordinate. -/
def bitOf (v b : Nat) : Nat := v / 2 ^ b % 2

/-- R181: OFF(r, k), in bits. -/
def Lay.off (l : Lay) (r k : Nat) : Nat :=
  if l.fmt = 0 then
    let u := k * l.e / 512
    (r * l.rpitch * 64 + ((u + l.rot * r) % 12) * 64) * 8 + k * l.e % 512
  else
    let i := r % 32
    let j := k % 32
    let nc := l.n / 32
    let z := 32 * bitOf i 4 + 16 * bitOf j 4 + 8 * bitOf i 3 + 4 * bitOf j 3 + 2 * bitOf i 2 + bitOf j 2
    let p := 8 * bitOf i 1 + 4 * bitOf i 0 + 2 * bitOf j 1 + bitOf j 0
    ((r / 32) * l.rpitch * 64 + ((k / 32 + l.rot * (r / 32)) % nc) * l.tpitch * 64) * 8 + (z * 16 + p) * l.e

/-- R181: the bit offset of logical element (r, k). -/
def Lay.at (l : Lay) (r k : Nat) : Nat := if l.t then l.off k r else l.off r k

/-- R183: valid bit, FMT, ESZ, ROT of a layout tag. -/
def Lay.tag (l : Lay) : BitVec 9 :=
  (1 : BitVec 1) ++ BitVec.ofNat 2 l.fmt ++ BitVec.ofNat 3 l.esz ++ BitVec.ofNat 3 l.rot

/-! ## Several translations at once -/

/-- Translations of addresses, or the first that is not there. -/
inductive Looks where
  | ok (l : List (Nat × Attr))
  | wait (ea : Word)
  | miss (ea : Word)
  | malformed (ea : Word)
  deriving DecidableEq, Repr

def State.lookAll (s : State) (c k : Nat) : List Word → Looks
  | [] => .ok []
  | ea :: rest =>
    match s.look c k ea with
    | .wait => .wait ea
    | .miss => .miss ea
    | .malformed => .malformed ea
    | .ok pa a => match s.lookAll c k rest with | .ok l => .ok ((pa, a) :: l) | o => o

/-! ## Instruction fetch (R178, R201, R281, R295, R341) -/

inductive Fetch where
  | word (w : Word)
  | wait
  | miss
  | trap (cause : Nat)
  deriving DecidableEq, Repr

/-- HOLD bits of the leaf that translates an address (R298). -/
def State.leafHold (s : State) (c k : Nat) (ea : Word) : Nat :=
  match s.tlbHit c (s.ctx c k).space (eaVa ea) with
  | some e => (e.leaf.extractLsb' 8 8).toNat
  | none => 0

/-- R201: a word of code at a physical address: a task that has fetched it before a store changed it may fetch the old word still, or the
new one, whole, each time. -/
def State.codeAt (s : State) (c k a : Nat) : Word :=
  let now := s.seenWord a
  match (s.core c).icache.find? fun p => p.1 == (k, a) with
  | some p => if p.2 != now && (Config.word s.tick a).getLsbD 0 then p.2 else now
  | none => now

/-- One word at an address as the context would fetch it. -/
def State.fetch (s : State) (c k : Nat) (a : Word) : Fetch :=
  if eaTop a || eaAlias a != 0 then .trap 0x0E
  else
    match s.look c k a with
    | .wait => .wait
    | .miss => .miss
    | .malformed => .trap 0x0E
    | .ok pa at' =>
      if !s.inDomain (modOf pa) || !placeOk pa false || !placeOk (readAt pa (if at'.d then s.leafHold c k a else 0) (dieOf c)) false || !at'.x then .trap 0x0E
      else if at'.a then .trap 0x04
      else if s.poisoned (readAt pa (if at'.d then s.leafHold c k a else 0) (dieOf c)) then .trap 0x0B
      else .word (s.codeAt c k (readAt pa (if at'.d then s.leafHold c k a else 0) (dieOf c)))

/-- The instruction cache keeps a word that the context has fetched: 64 KiB (R13). -/
def State.keepCode (s : State) (c k : Nat) (a w : Word) : State :=
  match s.look c k a with
  | .ok pa at' =>
    let p := readAt pa (if at'.d then s.leafHold c k a else 0) (dieOf c)
    let t := s.modCore c fun x => { x with icache := (((k, p), w) :: x.icache.filter fun q => q.1 != (k, p)).take 8192 }
    if (s.core c).icache.any fun q => q.1 == (k, p) && q.2 != s.seenWord p then { t with tick := t.tick + 1 } else t
  | _ => s

end Sys2Proof.Machine
end

