-- ==== Sys2Proof/Machine/Access.lean ====
section
/-! DEFINITION. Memory accesses: their checks at issue (spec/04 R75-R76, spec/11 R177-R178, spec/31 R413), the order in which the
pending accesses of a context perform (spec/12 R189-R193), what performing does, and what a write does to reservations, layout tags
and replicas (spec/04 R82, spec/11 R183, spec/12 R199). -/

namespace Sys2Proof.Machine

/-! ## Writes -/

/-- R187: the second context lies within the scope of the first. -/
def inScope (sc c k c' k' : Nat) : Bool :=
  match sc with
  | 0 => c == c' && k == k'
  | 1 => c == c'
  | 2 => grottoOf c == grottoOf c'
  | _ => true

/-- R82: the reservation of a context falls to a write of `n` bytes at `pa` by another party inside its scope; an engine, alias or
migration write clears at any scope, and so does a write of a die or of the controller itself (an answer in RHDR, a fault record, a
counter), which R82 does not name. A store of its own has cleared it at issue (log 73). -/
def Ctx.hitResv (x : Ctx) (c k : Nat) (who : Option (Nat × Nat)) (pa n : Nat) : Bool :=
  match x.resv with
  | none => false
  | some r => r.gran < pa + n && pa < r.gran + 64 &&
      (match who with | some (c', k') => inScope r.sc c k c' k' && !(c == c' && k == k') | none => true)

def State.clearResv (s : State) (who : Option (Nat × Nat)) (pa n : Nat) : State :=
  s.cores.foldl (fun s p => [0, 1, 2, 3].foldl (fun s k =>
    if (s.ctx p.1 k).hitResv p.1 k who pa n then s.modCtx p.1 k fun x => { x with resv := none } else s) s) s

/-- R183: a write sets or clears the layout tags of the scratchpad granules it reaches. -/
def State.tagSlice (s : State) (pa n : Nat) (t : Option (BitVec 9)) : State :=
  match targetOf pa with
  | .slice c off =>
    if modOf pa == s.koyth.modId then
      let v := t.getD 0
      let gs := (List.range ((off + n - 1) / 64 - off / 64 + 1)).map (· + off / 64)
      if gs.all fun g => Tab.get (fun _ => 0) (s.core c).ltags g == v then s
      else s.modCore c fun x => { x with ltags := gs.foldl (fun l g => Tab.set (fun _ => 0) l g v) x.ltags }
    else s
  | _ => s

/-- A write of bytes by a context, or by an engine or unit (`none`). -/
def State.storeAt (s : State) (who : Option (Nat × Nat)) (pa : Nat) (bs : List Byte) (t : Option (BitVec 9)) : State :=
  ((s.putBytes pa bs).clearResv who pa bs.length).tagSlice pa bs.length t

/-- R2: the read-only bits of byte `o` of RHDR and of the header of a migration (R287, R308), and of the header of a fault record
(R284). -/
def roRequest (o : Nat) : Byte := if o = 6 then 0xFF else if o = 7 then 0x40 else 0
def roFault (o : Nat) : Byte := if o = 2 ∨ o = 5 ∨ o = 6 then 0xFF else if o = 3 then 0x07 else if o = 4 then 0x03 else 0

/-- The read-only bits of a byte of memory. -/
def State.roByte (s : State) (a : Nat) : Byte :=
  let p := s.pub 0x20000
  if p ≤ a && a < p + 0x800 && (a - p) % 256 / 8 == 8 then roRequest (a % 8)
  else if s.pub 0x20810 ≤ a && a < s.pub 0x20818 then roRequest (a % 8)
  else match (s.dies.flatMap fun d => d.2.placed).find? fun r => r.1 ≤ a && a < r.1 + 8 with
  | some r => roFault (a - r.1)
  | none => 0

/-- A program's write leaves read-only bits as they are (R2). -/
def State.keepRo (s : State) (pa : Nat) (bs : List Byte) : List Byte :=
  if (List.range bs.length).all fun i => s.roByte (pa + i) == 0 then bs
  else bs.mapIdx fun i b => (s.byte (pa + i) &&& s.roByte (pa + i)) ||| (b &&& ~~~(s.roByte (pa + i)))

/-- A program's write to a page that may be read-duplicated: the home copy and every replica (R199). -/
def State.storeD (s : State) (who : Option (Nat × Nat)) (pa hold : Nat) (bs : List Byte) (t : Option (BitVec 9)) : State :=
  let bs := s.keepRo pa bs
  (holders pa hold).foldl (fun s k => s.storeAt who (replicaOf pa k) bs none) (s.storeAt who pa bs t)

/-- Add `n` to a counter of an Umaot link, and store it (R417). -/
def State.linkCount (s : State) (l k n : Nat) : State :=
  let v := (Tab.get (fun _ => 0) s.koyth.links (8 * l + k) + n) % 2 ^ 64
  ({ s with koyth := { s.koyth with links := Tab.set (fun _ => 0) s.koyth.links (8 * l + k) v } } : State).storeAt none
    (s.koyth.modId * 2 ^ 54 + 0x22000 + 64 * l + 8 * k) (leBytes 8 v) none

/-- One element read or written at a bit address. -/
def State.readBits (s : State) (ba w : Nat) : Nat :=
  if w < 8 then (s.seenByte (ba / 8)).toNat / 2 ^ (ba % 8) % 2 ^ w else s.seenN (ba / 8) (w / 8)
def State.writeBits (s : State) (who : Option (Nat × Nat)) (hold ba w v : Nat) (t : Option (BitVec 9)) : State :=
  if w < 8 then
    let old := (s.byte (ba / 8)).toNat
    let sh := 2 ^ (ba % 8)
    let new := old - old / sh % 2 ^ w * sh + v % 2 ^ w * sh
    s.storeD who (ba / 8) hold [BitVec.ofNat 8 new] t
  else s.storeD who (ba / 8) hold (leBytes (w / 8) v) t

/-! ## Checks at issue (R75, R76) -/

/-- Kinds of scalar access, with the code of R284. -/
inductive AccClass where
  | load
  | store
  /-- LDX, which only reads -/
  | loadX
  /-- STX, which only writes -/
  | storeX
  | atomic
  /-- a read by an instruction that is no LD, LDS or LDX (R115, R154); through an alias code 1 to 6 of a C page, of which R83 says nothing
  for such a read, it reads the plain bytes (log 82) -/
  | peek
  /-- the update of a join block or of a pipe descriptor, which also reads it (R154) -/
  | update
  deriving DecidableEq, Repr

def AccClass.code : AccClass → Nat
  | .load | .peek => 1
  | .store => 2
  | _ => 3

/-- A tile step runs in the issuing context (R168). -/
def Ctx.inStep (x : Ctx) : Bool := match x.task with | some t => t.step.isSome | none => false

/-- R245: the byte lies in a marked macro. -/
def State.markedByte (s : State) (pa : Nat) : Bool :=
  match targetOf pa with
  | .slice c off => modOf pa == s.koyth.modId && (s.core c).regions.any fun r => !r.gone && r.m0 ≤ off / 65536 && off / 65536 < r.m0 + r.nm
  | _ => false

/-- R424: the byte lies in a retired macro. -/
def State.retiredByte (s : State) (pa : Nat) : Bool :=
  match targetOf pa with
  | .slice c off => modOf pa == s.koyth.modId && s.koyth.retired.contains (0x3000000 + c * 256 + off / 65536)
  | _ => false

/-- The byte lies in the slice of a core of this module. -/
def State.ownSlice (s : State) (c pa : Nat) : Bool :=
  modOf pa == s.koyth.modId && (match targetOf pa with | .slice c' _ => c == c' | _ => false)
/-- Byte of a slice. -/
def sliceOff (pa : Nat) : Nat := pa % 0x400000

/-- The footprint of an access to the own slice. -/
def State.sliceParts (s : State) (pa n : Nat) (write : Bool) : List Part :=
  if s.ownSlice s.curCore pa then [⟨false, sliceOff pa, sliceOff pa + n - 1, write⟩] else []

/-- R416: a recorded discard is told at the next release, fence, DONE or access to its module; the trap clears the record. -/
def State.checkDiscard (s : State) (now : Bool) (body : Issue) : Issue :=
  match s.me.discard with
  | some p => if now then .trapAfter (s.modMe fun x => { x with discard := none }) 0x0B p.1 else body
  | none => body

/-- Module of a discarded address. -/
def State.discardMod (s : State) : Option Nat := s.me.discard.map (·.2)

/-- R199, R419: the copies of a page that an access reaches, the home copy and its replicas or the copy it reads, are open to it. -/
def copiesOk (pa hold die : Nat) (write : Bool) : Bool :=
  placeOk pa write && (if write then (holders pa hold).all fun k => placeOk (replicaOf pa k) true else placeOk (readAt pa hold die) false)

/-- R76: which kinds read, which write, and which may name no alias window. -/
def AccClass.reads : AccClass → Bool
  | .load | .loadX | .peek | .update => true
  | _ => false
def AccClass.writes : AccClass → Bool
  | .load | .loadX | .peek => false
  | _ => true
def AccClass.plain : AccClass → Bool
  | .load | .store | .peek => false
  | _ => true
/-- R83: an access whose alias code names a window that holds no plain bytes. -/
def AccClass.inWindow (cl : AccClass) (ea : Word) : Bool := !cl.plain && cl != .peek && 4 ≤ eaAlias ea
/-- R76: kinds that bring bytes to a scalar register, refused on an A page. -/
def AccClass.brings : AccClass → Bool
  | .store | .storeX => false
  | _ => true

/-- Where an access of a class meets its bytes: a read of a read-duplicated page in the copy it reads, others at home (R199). -/
def State.metAt (s : State) (cl : AccClass) (ea : Word) (pa : Nat) (at' : Attr) : Nat :=
  if cl.writes || !at'.d then pa else readAt pa (s.leafHold s.curCore s.curCtx ea) (dieOf s.curCore)

/-- R76: the checks of a scalar access in their order, then its body. In a tile step a plain store outside the own slice raises 0x15; an STX
or atomic up to core scope that writes there runs: R168 refuses these by scope and does not say whether 'any store' means them too
(log 87). What holds it at issue (R95, R186) comes before the state of its lines
is judged, since a held access has not issued. -/
def State.checkAccess (s : State) (cl : AccClass) (ea : Word) (n sc : Nat) (rel : Bool) (body : Nat → Attr → Issue) : Issue :=
  if ea.toNat % n != 0 then .trap 0x08 ea
  else if eaTop ea then .trap 0x0E ea
  else if 7 ≤ eaAlias ea then .trap 0x0E ea
  else if eaAlias ea != 0 && cl.plain then .trap 0x0E ea
  else match s.look s.curCore s.curCtx ea with
  | .wait => .wait (s.modMe (·.ask ea))
  | .miss => .park cl.code ea
  | .malformed => .trap 0x0E ea
  | .ok pa at' =>
  if eaAlias ea != 0 && !at'.c then .trap 0x0E ea
  else if !s.inDomain (modOf pa) || !copiesOk pa (if at'.d then s.leafHold s.curCore s.curCtx ea else 0) (dieOf s.curCore) cl.writes ||
      s.markedByte pa then .trap 0x0E ea
  else if cl.reads && !at'.r then .trap 0x0E ea
  else if cl.writes && !at'.w then .trap 0x0E ea
  else if cl.brings && at'.a then .trap 0x04 ea
  else if s.me.inStep && (cl.plain && 1 < sc || cl == .store && !s.ownSlice s.curCore pa) then .trap 0x15 ea
  else if s.myCore.rangeHold (s.sliceParts pa n cl.writes) then .wait s
  else if !cl.inWindow ea && (s.retiredByte (s.metAt cl ea pa at') || s.anyPoison (s.metAt cl ea pa at') n) then .trap 0x0B ea
  else s.checkDiscard (rel || s.discardMod == some (modOf pa)) <| body pa at'

/-! ## Order (R189-R193) -/

/-- Two accesses touch a common byte. -/
def Access.meets (a b : Access) : Bool :=
  a.bits.any fun x => b.bits.any fun y => x / 8 < y / 8 + max 1 (b.ew / 8) && y / 8 < x / 8 + max 1 (a.ew / 8)

def AccKind.isFence : AccKind → Bool
  | .fencel => true
  | _ => false

/-- The access is a write that waits in the store buffer. -/
def AccKind.isStore : AccKind → Bool
  | .fencel | .table _ => false
  | k => !k.isLoad

/-- R107: a VST to the own slice and a local VLD behind it: the VLD may read the old bytes. -/
def Access.localRows (a b : Access) : Bool :=
  a.due.isSome && b.due.isSome && (match a.kind, b.kind with | .vstore _ _, .vload _ _ _ => true | _, _ => false)

/-- Modules an access reaches: a row may lie in several. -/
def Access.mods (a : Access) : List Nat :=
  match a.kind with
  | .vload _ _ _ | .vstore _ _ => (a.bits.map fun b => modOf (b / 8)).eraseDups
  | _ => [a.modl]

/-- R189, R190, R192, R414: the earlier access performs before the later one. -/
def Access.before (a b : Access) : Bool :=
  (a.k == b.k && a.mods.any b.mods.contains) || a.aq || b.rl || (a.meets b && !a.localRows b)

/-- R86: between an earlier and a later access a FENCEL orders all but an earlier access that only writes before a later one that
only reads. -/
def Access.fenced (a b : Access) : Bool :=
  a.kind.isLoad || (match a.kind with | .table _ => true | _ => false) || b.kind.writes

/-- The access may perform: what must come first has performed (R189-R192), a FENCEL between included (R86). A store of a row to the own
slice, which R107 makes visible 6 cycles after its issue, waits longer where one of these orders holds it back (log 72). -/
def Ctx.eligible (x : Ctx) (i : Nat) : Bool :=
  match x.acc[i]? with
  | none => false
  | some b =>
    !b.kind.isFence && (List.range i).all fun j =>
      match x.acc[j]? with
      | none => true
      | some a =>
        a.kind.isFence ||
        !(a.before b || (a.fenced b && (List.range i).any fun m =>
          j < m && (match x.acc[m]? with | some f => f.kind.isFence | none => false)))

/-- Commands of compute-capable blocks that a context has submitted, in classes of a mask, still write (R196, R198). -/
def State.stackBusy (s : State) (c k : Nat) (mask : BitVec 16) : Bool :=
  s.pearls.any fun p => p.2.queue.any fun q => q.core == c && q.ctx == k && mask.getLsbD q.k

/-- A release also waits for the commands its context issued before it (R192). -/
def State.releaseReady (s : State) (c k : Nat) (b : Access) : Bool :=
  !b.rl || (((s.core c).cmds.all fun m => m.ctx != k || b.mark ≤ m.id) && !s.stackBusy c k 0xFFFF)

/-- R107, R118: a row store to the own slice does not perform before its cycle. -/
def Access.inTime (a : Access) (now : Nat) : Bool :=
  match a.kind, a.due with
  | .vstore _ _, some d => decide (d ≤ now)
  | _, _ => true

/-- R415: requests of the module to other modules that arrived before one and have no answer yet; behind 2,048 of them it waits. -/
def State.requestsBefore (s : State) (b : Access) : Nat :=
  (s.cores.map fun p => (p.2.ctxs.map fun q =>
    (q.2.acc.filter fun a => a.mods.any (· != s.koyth.modId) && decide (a.seq < b.seq)).length).sum).sum
def State.requestRoom (s : State) (b : Access) : Bool := b.seq = 0 || decide (s.requestsBefore b < 2048)

/-- The pending access may perform. -/
def State.mayPerform (s : State) (c k i : Nat) : Bool :=
  (s.ctx c k).eligible i &&
  (match (s.ctx c k).acc[i]? with | some b => s.releaseReady c k b && b.inTime (s.core c).clock && s.requestRoom b | none => false)

/-- Fence marks with nothing before them order nothing. -/
def dropFences : List Access → List Access
  | [] => []
  | a :: t => if a.kind.isFence then dropFences t else a :: t

/-- An access about to issue would perform at once: everything that must come first has performed. -/
def State.orderOk (s : State) (b : Access) : Bool :=
  (({ s.me with acc := s.me.acc ++ [b] } : Ctx).eligible s.me.acc.length) && s.releaseReady s.curCore s.curCtx b

/-- Take an access out of the list. -/
def Ctx.takeAcc (x : Ctx) (i : Nat) : Ctx := { x with acc := dropFences (x.acc.eraseIdx i) }

/-! ## Performing -/

/-- R79: the new value of an atomic, by opcode; `none` where nothing is written. -/
def amoNew (op w m b e : Nat) : Option Nat :=
  match op with
  | 0x4E => some ((m + b) % 2 ^ w)
  | 0x4F => some (if sInt w b < sInt w m then b else m)
  | 0x50 => some (if sInt w m < sInt w b then b else m)
  | 0x51 => some (if b < m then b else m)
  | 0x52 => some (if m < b then b else m)
  | 0x53 => some (m &&& b)
  | 0x54 => some (m ||| b)
  | 0x55 => some (m ^^^ b)
  | 0x56 => some b
  | _ => if m = e then some b else none

/-- A scalar result returns (R77); as the first load of a spin interval it lets that interval's update be made (R203). -/
def State.returnScalar (s : State) (c k : Nat) (a : Access) (d : Nat) (v : Word) : State :=
  let p := (s.ctx c k).spin
  let q := match a.first with | some n => p.returned n v | none => (p, false)
  let s := s.modCtx c k fun x => { x.wr d v with spin := q.1 }
  if q.2 then s.modCore c fun x => x.passOver k else s

/-- Row `r` of those a row load brings, by its elements and lane mask. -/
def State.gatherRow (s : State) (bits : List Nat) (ew : Nat) (m : Lanes) (r : Nat) : Row :=
  let b := (bits.drop (r * (6144 / ew))).take (6144 / ew)
  rowOfElems ew (b.mapIdx fun i x => if m.getLsbD (laneOf ew i) then s.readBits x ew else 0)

/-- HOLD of the page of a byte of an access. -/
def Access.holdAt (a : Access) (pa : Nat) : Nat := match a.holds.find? fun p => p.1 == pa / 0x10000 with | some p => p.2 | none => a.hold

/-- Number of rows an access moves. -/
def Access.rows (a : Access) : Nat := a.bits.length * a.ew / 6144

/-- The masked-in elements of a row are stored. -/
def State.scatterRow (s : State) (who : Option (Nat × Nat)) (a : Access) (m : Lanes) (r : Row) : State :=
  (List.range (6144 / a.ew)).foldl (fun s i =>
    if m.getLsbD (laneOf a.ew i) then s.writeBits who (a.holdAt (a.bits.getD i 0 / 8)) (a.bits.getD i 0) a.ew (elem a.ew r i) a.ltag else s) s

/-- Lines all of whose bits a row store writes; they are cleaned of poison (R382). -/
def wholeLines (a : Access) (m : Lanes) : List Nat :=
  let ls := (a.bits.zipIdx.filter fun p => m.getLsbD (laneOf a.ew (p.2 % (6144 / a.ew)))).map fun p => p.1 / 512
  ls.eraseDups.filter fun l => ls.count l * a.ew == 512

/-- A mailbox word of a launch (R87). -/
def State.mailbox (s : State) (space n : Nat) : Word :=
  match s.launchOf space with
  | some l => Tab.get (fun _ => 0) l.mb n
  | none => 0
def State.setMailbox (s : State) (space n : Nat) (v : Word) : State :=
  { s with launches := s.launches.map fun l => if l.space == space then { l with mb := Tab.set (fun _ => 0) l.mb n v } else l }

/-- R81: the reservation an LDX sets, as it issues (log 73). -/
def Ctx.reserve (x : Ctx) (a : Access) : Ctx :=
  { x with resv := some { ea := a.ea &&& ~~~63, gran := a.bits.getD 0 0 / 8 / 64 * 64, sc := a.sc, issued := 0 } }

/-- The bit addresses at which an access stores for certain: of a row the lanes under its mask; an ACAS, which may only load (R79), stores
when it performs. -/
def Access.stored (a : Access) : List Nat :=
  match a.kind with
  | .vstore m _ => (a.bits.zipIdx.filter fun p => m.getLsbD (laneOf a.ew p.2)).map (·.1)
  | .amo _ 0x57 _ _ => []
  | k => if k.writes then a.bits else []

/-- R82: a write of the context itself at bit addresses in the granule of its reservation clears it. -/
def Ctx.ownWrite (x : Ctx) (bits : List Nat) : Ctx :=
  { x with resv := x.resv.filter fun r => !(bits.any fun b => r.gran ≤ b / 8 && b / 8 < r.gran + 64) }
/-- A store of its own does so at its issue (log 73). -/
def Ctx.ownStore (x : Ctx) (a : Access) : Ctx := x.ownWrite a.stored
/-- An ACAS that has stored does so as it performs, where it was issued behind the LDX. -/
def Ctx.casStore (x : Ctx) (a : Access) : Ctx := if x.resv.any fun r => a.after < r.issued then x.ownWrite a.bits else x

/-- Bytes of a loaded row land in the window (R107); a bounded row carries the unknown bound (R106). -/
def State.putRow (s : State) (c g : Nat) (m : Lanes) (r : Row) (t : Tag) : State :=
  s.modCore c fun x => (rowEffs g r (laneBits m) t).foldl Core.landEff x

/-- What performing an access does, the access itself having been taken from the list. -/
def State.perform (s : State) (c k : Nat) (a : Access) : State :=
  let pa := a.bits.getD 0 0 / 8
  let who := some (c, k)
  match a.kind with
  | .load d signed =>
    let v := s.seenN (readAt pa a.hold (dieOf c)) (a.ew / 8)
    s.returnScalar c k a d (if signed then BitVec.ofInt 64 (sInt a.ew v) else BitVec.ofNat 64 v)
  | .amo d op b e =>
    let m := s.seenN pa (a.ew / 8)
    let s := match amoNew op a.ew m (b.toNat % 2 ^ a.ew) (e.toNat % 2 ^ a.ew) with
      | some n => (s.storeD who pa a.hold (leBytes (a.ew / 8) n) none).modCtx c k (·.casStore a)
      | none => s
    s.returnScalar c k a d (BitVec.ofNat 64 m)
  | .mbr d n => s.returnScalar c k a d (s.mailbox (s.ctx c k).space n)
  | .vload g m bounded =>
    (List.range a.rows).foldl (fun s r =>
      s.putRow c (g + 12 * r) m (s.gatherRow (a.bits.map fun b => 8 * readAt (b / 8) (a.holdAt (b / 8)) (dieOf c) + b % 8) a.ew m r) (if bounded then .unknown else .exact)) s
  | .store v => s.storeD who pa a.hold (leBytes (a.ew / 8) v.toNat) none
  | .vstore m r =>
    let t := s.scatterRow who a m r
    if t.poison.isEmpty then t else (wholeLines a m).foldl State.cleanLine t
  | .mbw n v => s.setMailbox (s.ctx c k).space n v
  | .window _ _ | .wload _ _ _ | .fencel | .table _ => s

/-- The access meets an error: the line it reads is poisoned or its route is lost (R131, R294, R412, R416). -/
def State.accessError (s : State) (c : Nat) (a : Access) : Bool :=
  a.dead || (a.kind.isLoad && (match a.kind with
    | .mbr _ _ => false
    | .amo _ _ _ _ => a.bits.any fun b => s.poisoned (b / 8)
    | _ => a.bits.any fun b => s.poisoned (readAt (b / 8) (a.holdAt (b / 8)) (dieOf c))))

/-- Instructions that the context had issued after the load whose error a trap to be entered tells; `none` for another trap. -/
def laterError (cause : Nat) (info : Word) : Option Nat := if cause = 0x0B then some (info.extractLsb' 56 8).toNat else none

/-- R131: a load that returns an error writes nothing; the context stops, with the delay slots still due, and enters trap 0x0B
after its drain. Of a trap raised later in program order and of several errors the oldest is told (log 74). -/
def State.loadError (s : State) (c k : Nat) (a : Access) : State :=
  let x := s.ctx c k
  let n := a.later + (match x.delay with | some d => d.left | none => 0)
  let info : Word := (a.ea &&& 0x00FFFFFFFFFFFFFF) ||| (BitVec.ofNat 64 (n % 256) <<< 56)
  let younger := match x.run with
    | .trapping cause i _ => (match laterError cause i with | some m => decide (n < m) | none => false)
    | _ => false
  if younger then s
  else if (s.core c).drained k && x.delay.isNone then s.enterTrap c k 0x0B info a.pc
  else s.modCtx c k fun x => { x.stopClear with run := .trapping 0x0B info a.pc }

/-- R416: a discarded store takes with it the stores behind it in its class and the releases behind it. -/
def Ctx.discardStore (x : Ctx) (i : Nat) (a : Access) : Ctx :=
  let x := { x with discard := x.discard.or (some (a.ea, a.modl)) }
  let marked := x.acc.mapIdx fun j b => if i ≤ j && !b.kind.isLoad && (b.rl || b.k == a.k) then { b with dead := true } else b
  { x with acc := marked }

/-- R417: a discarded store counts at the link through which the module that is recorded was last tried; one that the ring has lost counts
at none. -/
def State.countDiscard (s : State) (x : Ctx) : State :=
  match x.discard with
  | some p => if p.2 == s.koyth.modId then s else s.linkCount (Tab.get (fun _ => 0) s.koyth.deadLink p.2) 6 1
  | none => s

/-- R416: a request to another module has been acknowledged: its resends count no more. -/
def State.acked (s : State) (a : Access) : State :=
  if Tab.get (fun _ => 0) s.koyth.resent a.modl = 0 then s
  else { s with koyth := { s.koyth with resent := Tab.set (fun _ => 0) s.koyth.resent a.modl 0 } }

/-- R416: a store that performs at its issue is discarded. -/
def State.discardNow (s : State) (a : Access) : State :=
  let t := s.modMe fun x => { x with discard := x.discard.or (some (a.ea, a.modl)) }
  t.countDiscard t.me

/-- R197, R230: the bytes of an element of `ew` bits at bit address `b` lie in a completion record. -/
def State.inRecord (s : State) (b ew : Nat) : Bool := s.records.any fun r => b / 8 < r + 8 && r < b / 8 + max 1 (ew / 8)

/-- A read that may observe a completion: of a completion record, whole or in part, or of a status window (R197, R198, R230). -/
def State.observes (s : State) (kind : AccKind) (bits : List Nat) (ew : Nat) : Bool :=
  match kind with
  | .load _ _ | .amo _ _ _ _ => bits.any fun b => s.inRecord b ew
  | .vload _ m _ => bits.zipIdx.any fun p => m.getLsbD (laneOf ew (p.2 % (6144 / ew))) && s.inRecord p.1 ew
  | .wload _ _ al => al == 5
  | _ => false

/-- A new access of the issuing context. -/
def State.newAccess (s : State) (kind : AccKind) (ea : Word) (bits : List Nat) (ew : Nat) (at' : Attr) (hold : Nat) (k sc : Nat)
    (aq rl : Bool) (modl : Nat) : Access :=
  { kind := kind, pc := s.me.pc, ea := ea, bits := bits, ew := ew, dpage := at'.d, hold := if at'.d then hold else 0, holds := [], ltag := none,
    k := k, sc := sc, aq := aq || s.observes kind bits ew
    rl := rl, modl := modl, mark := s.myCore.nextCmd, after := 0, due := none,
    first := match kind with
      | .load _ _ | .wload _ _ _ => if s.me.spin.cur.load.isNone then some s.me.spin.cur.num else none
      | _ => none
    dead := s.koyth.unreachable.contains modl, seq := 0 }

/-- R203: the spin detector sees an access issue. -/
def Spin.issued (p : Spin) (a : Access) : Spin :=
  match a.kind with
  | .load _ _ | .wload _ _ _ => if a.first.isSome then { p with cur := { p.cur with load := some (a.ea, none) } } else p
  | .mbr _ _ | .vload _ _ _ | .table _ | .fencel => p
  | _ => p.stores

/-- Issue an access: it joins the list of its context; the spin detector sees it (R203), a reservation falls to a store (R82), and an
older load of the same register no longer writes it (R77); a request to another module has its number (R415). -/
def State.push (s : State) (a : Access) : State :=
  let far := a.mods.any (· != s.koyth.modId)
  let n := s.nextReq
  let s := if far then { s with nextReq := n + 1 } else s
  let a := if far then { a with seq := n + 1 } else a
  s.modMe fun x => { (x.ownStore a).supersede a.kind.dst with acc := (x.supersede a.kind.dst).acc ++ [a], spin := x.spin.issued a }

/-- R77, R415: the limits of 16 loads and 32 stores. -/
def Ctx.loadRoom (x : Ctx) : Bool := x.loads.length < 16
def Ctx.storeRoom (x : Ctx) : Bool := (x.acc.filter (·.kind.isStore)).length < 32

/-- HOLD bits for an access of the issuing context. -/
def State.holdOf (s : State) (ea : Word) : Nat := s.leafHold s.curCore s.curCtx ea

end Sys2Proof.Machine
end

