-- ==== Sys2Proof/Machine/Scalar.lean ====
section
/-! DEFINITION. The scalar integer instructions (spec/03 R65-R68). -/

namespace Sys2Proof.Machine

/-- A scalar result of two registers (R65): interlocked, with its latency. -/
def State.alu2 (s : State) (i : Instr) (f : RF) (lat : Nat) (op : Word → Word → Word) : Out :=
  s.issue i f.gd [f.a.toNat, f.b.toNat] fun s => .done (s.putS f.d.toNat (op (s.getS f.a) (s.getS f.b)) lat)

/-- A scalar result of one register. -/
def State.alu1 (s : State) (i : Instr) (f : RF) (lat : Nat) (op : Word → Word) : Out :=
  s.issue i f.gd [f.a.toNat] fun s => .done (s.putS f.d.toNat (op (s.getS f.a)) lat)

/-- A scalar result of a register and the sign-extended immediate. -/
def State.aluI (s : State) (i : Instr) (f : IF) (op : Word → Word → Word) : Out :=
  s.issue i f.gd [f.a.toNat] fun s => .done (s.putS f.d.toNat (op (s.getS f.a) (f.x.signExtend 64)) 1)

/-! ## The functions of R66 and R67 -/

def mulHighS (a b : Word) : Word := (a.signExtend 128 * b.signExtend 128).extractLsb' 64 64
def mulHighU (a b : Word) : Word := (a.setWidth 128 * b.setWidth 128).extractLsb' 64 64
def divS (a b : Word) : Word := if b = 0 then BitVec.allOnes 64 else a.sdiv b
def divU (a b : Word) : Word := if b = 0 then BitVec.allOnes 64 else a / b
def remS (a b : Word) : Word := if b = 0 then a else a.srem b
def remU (a b : Word) : Word := if b = 0 then a else a % b
def shiftL (a b : Word) : Word := if 64 ≤ b.toNat then 0 else a <<< b.toNat
def shiftR (a b : Word) : Word := if 64 ≤ b.toNat then 0 else a >>> b.toNat
def shiftA (a b : Word) : Word := if 64 ≤ b.toNat then lanes64 (a.getLsbD 63) else a.sshiftRight b.toNat
where lanes64 (b : Bool) : Word := if b then BitVec.allOnes 64 else 0
def rotL (a b : Word) : Word := a.rotateLeft (b.toNat % 64)
def clz (a : Word) : Word := if a = 0 then 64 else BitVec.ofNat 64 (63 - Nat.log2 a.toNat)
/-- Zero bits below the lowest one of `n` bits. -/
def ctzNat : Nat → Nat → Nat
  | 0, _ => 0
  | n + 1, v => if v % 2 = 1 then 0 else 1 + ctzNat n (v / 2)
def ctz (a : Word) : Word := BitVec.ofNat 64 (ctzNat 64 a.toNat)
/-- One bits among the low `n`. -/
def popNat : Nat → Nat → Nat
  | 0, _ => 0
  | n + 1, v => v % 2 + popNat n (v / 2)
def popc (a : Word) : Word := BitVec.ofNat 64 (popNat 64 a.toNat)
def minS (a b : Word) : Word := if b.toInt < a.toInt then b else a
def maxS (a b : Word) : Word := if a.toInt < b.toInt then b else a
def minU (a b : Word) : Word := if b.toNat < a.toNat then b else a
def maxU (a b : Word) : Word := if a.toNat < b.toNat then b else a
/-- Extend the low `w` bits. -/
def extend (signed : Bool) (w : Nat) (a : Word) : Word :=
  if signed then BitVec.ofInt 64 (sInt w a.toNat) else BitVec.ofNat 64 (a.toNat % 2 ^ w)
/-- R66: BFX. -/
def fieldGet (signed : Bool) (pos len : Nat) (a : Word) : Word := extend signed len (a >>> pos)
/-- R66: BFI. -/
def fieldPut (pos len : Nat) (d a : Word) : Word :=
  let m : Word := BitVec.ofNat 64 (2 ^ len - 1) <<< pos
  (d &&& ~~~m) ||| ((a <<< pos) &&& m)

/-! ## The instructions -/

/-- ADD (R66). -/
def execAdd (f : RF) (s : State) : Out := s.alu2 (.add f) f 1 fun a b => a + b

/-- SUB (R66). -/
def execSub (f : RF) (s : State) : Out := s.alu2 (.sub f) f 1 fun a b => a - b

/-- MUL (R66). -/
def execMul (f : RF) (s : State) : Out := s.alu2 (.mul f) f 3 fun a b => a * b

/-- MULH (R66). -/
def execMulh (f : RF) (s : State) : Out := s.alu2 (.mulh f) f 3 fun a b => mulHighS a b

/-- MULHW (R66). -/
def execMulhw (f : RF) (s : State) : Out := s.alu2 (.mulhw f) f 3 fun a b => mulHighU a b

/-- DIV (R66, R67). -/
def execDiv (f : RF) (s : State) : Out := s.alu2 (.div f) f 34 fun a b => divS a b

/-- DIVW (R66, R67). -/
def execDivw (f : RF) (s : State) : Out := s.alu2 (.divw f) f 34 fun a b => divU a b

/-- REM (R66, R67). -/
def execRem (f : RF) (s : State) : Out := s.alu2 (.rem f) f 34 fun a b => remS a b

/-- REMW (R66, R67). -/
def execRemw (f : RF) (s : State) : Out := s.alu2 (.remw f) f 34 fun a b => remU a b

/-- AND (R66). -/
def execAnd (f : RF) (s : State) : Out := s.alu2 (.and f) f 1 fun a b => a &&& b

/-- OR (R66). -/
def execOr (f : RF) (s : State) : Out := s.alu2 (.or f) f 1 fun a b => a ||| b

/-- XOR (R66). -/
def execXor (f : RF) (s : State) : Out := s.alu2 (.xor f) f 1 fun a b => a ^^^ b

/-- ANDN (R66). -/
def execAndn (f : RF) (s : State) : Out := s.alu2 (.andn f) f 1 fun a b => a &&& ~~~b

/-- SHL (R66). -/
def execShl (f : RF) (s : State) : Out := s.alu2 (.shl f) f 1 fun a b => shiftL a b

/-- SHR (R66). -/
def execShr (f : RF) (s : State) : Out := s.alu2 (.shr f) f 1 fun a b => shiftR a b

/-- SAR (R66). -/
def execSar (f : RF) (s : State) : Out := s.alu2 (.sar f) f 1 fun a b => shiftA a b

/-- ROT (R66). -/
def execRot (f : RF) (s : State) : Out := s.alu2 (.rot f) f 1 fun a b => rotL a b

/-- MIN (R66). -/
def execMin (f : RF) (s : State) : Out := s.alu2 (.min f) f 1 fun a b => minS a b

/-- MAX (R66). -/
def execMax (f : RF) (s : State) : Out := s.alu2 (.max f) f 1 fun a b => maxS a b

/-- MINW (R66). -/
def execMinw (f : RF) (s : State) : Out := s.alu2 (.minw f) f 1 fun a b => minU a b

/-- MAXW (R66). -/
def execMaxw (f : RF) (s : State) : Out := s.alu2 (.maxw f) f 1 fun a b => maxU a b

/-- ADDI (R66). -/
def execAddi (f : IF) (s : State) : Out := s.aluI (.addi f) f fun a m => a + m

/-- ANDI (R66). -/
def execAndi (f : IF) (s : State) : Out := s.aluI (.andi f) f fun a m => a &&& m

/-- ORI (R66). -/
def execOri (f : IF) (s : State) : Out := s.aluI (.ori f) f fun a m => a ||| m

/-- CLZ (R66). -/
def execClz (f : RF) (s : State) : Out := s.alu1 (.clz f) f 1 (clz)

/-- CTZ (R66). -/
def execCtz (f : RF) (s : State) : Out := s.alu1 (.ctz f) f 1 (ctz)

/-- POPC (R66). -/
def execPopc (f : RF) (s : State) : Out := s.alu1 (.popc f) f 1 (popc)

/-- SEXT (R66). -/
def execSext (f : RF) (s : State) : Out := s.alu1 (.sext f) f 1 (extend true (tyWidth f.ty.toNat))

/-- ZEXT (R66). -/
def execZext (f : RF) (s : State) : Out := s.alu1 (.zext f) f 1 (extend false (tyWidth f.ty.toNat))

/-- MOV (R66). -/
def execMov (f : RF) (s : State) : Out := s.alu1 (.mov f) f 1 (fun a => a)

/-- LI (R66). -/
def execLi (f : IF) (s : State) : Out := s.aluI (.li f) f fun _ m => m

/-- LIH (R66, R67): reads its own destination. -/
def execLih (f : IF) (s : State) : Out :=
  s.issue (.lih f) f.gd [f.d.toNat] fun s =>
    .done (s.putS f.d.toNat (f.x ++ (s.getS f.d).extractLsb' 0 32) 1)

/-- SEL (R66, R55): lane 0 of an unmarked predicate. -/
def execSel (f : RF) (s : State) : Out :=
  s.issue (.sel f) f.gd [f.a.toNat, f.b.toNat, 64 + f.c.toNat] fun s =>
    s.checkPreds [f.c.toNat] [f.c.toNat] <|
      .done (s.putS f.d.toNat (if (s.me.rdP f.c.toNat).getLsbD 0 then s.getS f.a else s.getS f.b) 1)

/-- CMP (R66, R68): every lane of the predicate, mark cleared (R54). -/
def execCmp (f : RF) (s : State) : Out :=
  s.issue (.cmp f) f.gd [f.a.toNat, f.b.toNat] fun s =>
    .done (s.putP f.d.toNat (lanesOf (ccIntEval f.fn.toNat 64 (s.getS f.a).toNat (s.getS f.b).toNat)) false 1)

/-- CMPI (R66, R68): B holds the condition code. -/
def execCmpi (f : IF) (s : State) : Out :=
  s.issue (.cmpi f) f.gd [f.a.toNat] fun s =>
    .done (s.putP f.d.toNat (lanesOf (ccIntEval f.b.toNat 64 (s.getS f.a).toNat (f.x.signExtend 64).toNat)) false 1)

/-- ADDX (R66): FN is the shift. -/
def execAddx (f : RF) (s : State) : Out := s.alu2 (.addx f) f 1 fun a b => a + (b <<< f.fn.toNat)

/-- BFX (R66, R67): C is the position, FN the length; TY 3 extends the sign. -/
def execBfx (f : RF) (s : State) : Out := s.alu1 (.bfx f) f 1 (fieldGet (f.ty == 3) f.c.toNat f.fn.toNat)

/-- BFI (R66, R67): reads its own destination. -/
def execBfi (f : RF) (s : State) : Out :=
  s.issue (.bfi f) f.gd [f.a.toNat, f.d.toNat] fun s =>
    .done (s.putS f.d.toNat (fieldPut f.c.toNat f.fn.toNat (s.getS f.d) (s.getS f.a)) 1)

end Sys2Proof.Machine
end

