-- ==== Sys2Proof/Machine/Windows.lean ====
section
/-! DEFINITION. Alias windows of a compute-capable block: acceptance and rejection, the status window, reductions, the pearl data
store and the stack commands (spec/04 R83-R84, spec/25 R367-R371, spec/26 R374-R382). -/

namespace Sys2Proof.Machine

/-! ## Blocks and tiles (R176, R377) -/

def blockBytes : Nat := 0x200000
/-- Physical address of the 2 MiB block that holds an address. -/
def blockOf (pa : Nat) : Nat := pa / blockBytes * blockBytes
/-- The 16 tiles of a block: blocks n and n + 6 of a stack share them. -/
def pearlKey (pa : Nat) : Nat :=
  match targetOf pa with
  | .hbm a => modOf pa * 48 + stackOf a * 6 + (stackOff a / blockBytes) % 6
  | _ => 0
def State.pearlAt (s : State) (pa : Nat) : Pearl := s.pearl (pearlKey pa)
def State.modPearl (s : State) (pa : Nat) (f : Pearl → Pearl) : State := s.setPearl (pearlKey pa) (f (s.pearlAt pa))

/-- R381: byte of the data store that a block offset names: 64 KiB × stripe + byte. -/
def storeKey (o : Nat) : Nat := (o / 0x20000) % 16 * 0x10000 + o % 0x20000
/-- A number no physical address takes, for a data-store byte; it names its line in the list of poisoned lines. -/
def dataAddr (pa : Nat) : Nat := 2 ^ 64 + pearlKey pa * 2 ^ 22 + storeKey (pa % blockBytes)

/-! ## The configuration (R369) -/

def Pearl.dw (p : Pearl) (i : Nat) : Word := p.image.getD i 0
def Pearl.soff (p : Pearl) : Nat := ((p.dw 0).extractLsb' 0 21).toNat
/-- Padded row length in bytes. -/
def Pearl.prl (p : Pearl) : Nat := 64 * ((p.dw 0).extractLsb' 32 16).toNat
def Pearl.srb (p : Pearl) : Nat := ((p.dw 1).extractLsb' 0 16).toNat
def Pearl.ne (p : Pearl) : Nat := ((p.dw 1).extractLsb' 0 16).toNat
def Pearl.ety (p : Pearl) : Nat := ((p.dw 1).extractLsb' 16 4).toNat
def Pearl.nrows (p : Pearl) : Nat := ((p.dw 1).extractLsb' 32 16).toNat
def Pearl.ooff (p : Pearl) : Nat := ((p.dw 2).extractLsb' 0 21).toNat
/-- Bytes of an output row: OP. -/
def Pearl.op (p : Pearl) : Nat := 64 * ((4 * p.ne + 63) / 64)
/-- Block offset of striped row `r`. -/
def Pearl.rowAt (p : Pearl) (r : Nat) : Nat := r % 16 * 0x20000 + p.soff + r / 16 * p.prl

/-- R369: the limits of an image: KIND, NW and the dwords after it. -/
def imageOk (kind nw : Nat) (dw : List Word) : Bool :=
  let d0 := dw.getD 0 0
  let d1 := dw.getD 1 0
  let d2 := dw.getD 2 0
  let soff := (d0.extractLsb' 0 21).toNat
  let prl := (d0.extractLsb' 32 16).toNat
  let ok0 := soff % 64 == 0 && soff < 0x20000 && d0.extractLsb' 21 11 == 0 && d0.extractLsb' 48 16 == 0 && 1 ≤ prl && prl ≤ 2048
  let lo := (d1.extractLsb' 0 16).toNat
  match kind with
  | 1 => nw == 2 && ok0 && d1.extractLsb' 16 48 == 0 && lo % 64 == 0 && 64 ≤ lo && lo ≤ prl * 64
  | 2 =>
    let ety := (d1.extractLsb' 16 4).toNat
    let nrows := (d1.extractLsb' 32 16).toNat
    nw == 3 && ok0 && (ety == 9 || ety == 10) && d1.extractLsb' 20 12 == 0 && d1.extractLsb' 48 16 == 0 && 1 ≤ lo &&
    lo ≤ prl * 64 / (if ety == 9 then 2 else 4) && 1 ≤ nrows && soff + (nrows + 15) / 16 * prl * 64 ≤ 0x20000 &&
    d2.extractLsb' 21 43 == 0 && (d2.extractLsb' 0 21).toNat % 64 == 0
  | _ => false

/-! ## Acceptance (R367, R368, R370, R371, R379, R381) -/

/-- RCODE of a command word under the configuration the tiles hold; `none` accepts. -/
def Pearl.judge (p : Pearl) (pa : Nat) (v : Word) : Option Nat :=
  let o := pa % blockBytes
  let n := (v.extractLsb' 0 16).toNat
  let j := (v.extractLsb' 16 16).toNat
  if p.kind == 1 then
    if n == 0 || 4096 < n || v.extractLsb' 32 32 != 0 then some 2
    else if blockBytes < o + n * p.srb || 0x20000 < p.soff + ((j + n - 1) / 16 + 1) * p.prl then some 1
    else none
  else if p.kind == 2 then
    if 4096 < n || v.extractLsb' 32 32 != 0 then some 2
    else if blockBytes < o + 4 * n || blockBytes < p.ooff + (j + 1) * p.op then some 1
    else none
  else some 3

/-- RCODE of an access through an alias window, `none` where it is accepted. A wrong size is judged first, then the
configuration, then the word, then extents (log 14). -/
def State.windowReject (s : State) (w : WindowStore) : Option Nat :=
  let a := eaAlias w.ea
  let o := w.pa % blockBytes
  if a == 6 then (if w.size < 4 then some 4 else if 0x10000 ≤ o % 0x20000 then some 1 else none)
  else if a == 5 then
    if w.size != 8 || (w.isStore && o != 0) then some 4
    else if w.isStore && w.data.extractLsb' 2 62 != 0 then some 2
    else none
  else if a == 4 then
    if w.size != 8 then some 4
    else if w.isStore then (s.pearlAt w.pa).judge w.pa w.data
    else none
  else if !w.isStore then none
  else if w.size < (if a == 2 then 2 else 4) then some 4
  else none

/-- R368: a rejection is recorded in the status. -/
def Pearl.reject (p : Pearl) (code : Nat) (ea : Word) : Pearl :=
  { p with rej := (p.rej + 1) % 65536, rcode := code, rejea := ea }

/-- What a rejection does at its access: the record, then trap 0x0C if TRAPEN asks for it. -/
def State.rejectNow (s : State) (w : WindowStore) (code : Nat) : Issue :=
  let t := s.modPearl w.pa fun p => p.reject code w.ea
  if (s.pearlAt w.pa).trapen then .trapAfter t 0x0C w.ea else .done t

/-! ## The status window (R367) -/

def Pearl.stat (p : Pearl) : Word :=
  BitVec.ofNat 64 (p.acc * 2 ^ 48 + p.done * 2 ^ 32 + p.rej * 2 ^ 16 + p.rcode * 2 ^ 8 + (if p.trapen then 1 else 0))
def Pearl.statusWord (p : Pearl) (o : Nat) : Word :=
  if o = 0 then p.stat else if o = 8 then p.rejea else if o = 16 then BitVec.ofNat 64 p.nbad else 0
def Pearl.statusStore (p : Pearl) (v : Word) : Pearl :=
  let p := { p with trapen := v.getLsbD 0 }
  if v.getLsbD 1 then { p with acc := 0, done := 0, rej := 0, rcode := 0, rejea := 0, nbad := 0 } else p

/-! ## Performing window accesses -/

def Pearl.byte (p : Pearl) (k : Nat) : Byte := Tab.get memDefault p.store k
def Pearl.readStore (p : Pearl) (k n : Nat) : Nat := leNat ((List.range n).map fun i => p.byte (k + i))
def Pearl.writeStore (p : Pearl) (k : Nat) (bs : List Byte) : Pearl := { p with store := memPut p.store k bs }

/-- R83: one element of a reduction. -/
def reduceElem (aliasNo old x : Nat) : Nat :=
  match aliasNo with
  | 1 => rneAdd old x
  | 2 => fmtBf16.round 0 (Fv.add 0 (fmtBf16.value old) (fmtBf16.value x)) 0
  | _ => fmtF32.round 0 (Fv.pick true (fmtF32.value old) (fmtF32.value x)) 0

/-- Element width of a reduction code. -/
def reduceWidth (aliasNo : Nat) : Nat := if aliasNo = 2 then 16 else 32

/-- The new value of an operand of `size` bytes, element by element. -/
def reduceAll (aliasNo size old x : Nat) : Nat :=
  let w := reduceWidth aliasNo
  (List.range (8 * size / w)).foldl (fun r i =>
    r + reduceElem aliasNo (old / 2 ^ (w * i) % 2 ^ w) (x / 2 ^ (w * i) % 2 ^ w) * 2 ^ (w * i)) 0

/-- An accepted reduction performs (R84, R380); on a poisoned line nothing is written (R382). -/
def State.reduce (s : State) (aliasNo pa size : Nat) (v : Word) : State :=
  if s.anyPoison pa size then s
  else s.storeD none pa 0 (leBytes size (reduceAll aliasNo size (s.seenN pa size) v.toNat)) none

/-- A number of `dataAddr` as a tile key and a byte of its store; status words follow from 2^21 on. -/
def dataPearl (d : Nat) : Nat × Nat := ((d - 2 ^ 64) / 2 ^ 22, (d - 2 ^ 64) % 2 ^ 22)

def BankRows.count (b : BankRows) (r : Nat) : Nat := Tab.get (fun _ => 0) b.counts r

/-- R376: an activation of compute rows of a bank adds 1 to each row next to one it opens, for each that it opens; while a row stands at
2,048 it waits for that row's refresh. -/
def BankRows.activate (b : BankRows) (rows : List Nat) : BankRows :=
  if (List.range 8).any fun r => 2048 ≤ b.count r then b
  else { b with counts := (List.range 8).foldl (fun l r =>
      Tab.set (fun _ => 0) l r (b.count r + (rows.filter fun q => q + 1 == r || r + 1 == q).length)) b.counts }
def State.bankRows (s : State) (n : Nat) : BankRows := Tab.get (fun _ => BankRows.init) s.banks n
def State.setBankRows (s : State) (n : Nat) (v : BankRows) : State := { s with banks := Tab.set (fun _ => BankRows.init) s.banks n v }
/-- R176: the pseudo-channel, of the 32 that 16 tiles serve, for a stripe and a byte within it: 256 bytes go to each of a tile's two by
turns. -/
def channelOf (stripe o : Nat) : Nat := 2 * stripe + o / 256 % 2
/-- Rows of bank `n` are opened; banks are numbered 512 to a group of 16 tiles, 16 to a pseudo-channel. -/
def State.activate (s : State) (n : Nat) (rows : List Nat) : State := s.setBankRows n ((s.bankRows n).activate rows)
/-- An access to the data store of the tile that serves its stripe opens C0 or C1 of a bank of its pseudo-channel (R375); which is not
stated (log 37). -/
def State.disturbStore (s : State) (b : Nat) : State :=
  let p := dataPearl b
  let (t, s) := s.next
  s.activate (p.1 * 512 + 16 * channelOf (p.2 / 0x10000) (p.2 % 0x10000) + Config.pick t % 16) [Config.pick t / 16 % 2]
/-- The staging rows, one to three of C2 to C7, that a free number opens together. -/
def stagingRows (n : Nat) : List Nat := ([2 + n % 6, 2 + n / 6 % 6, 2 + n / 36 % 6].take (1 + n / 216 % 3)).eraseDups
/-- A step of a command: a free number of activations of staging rows in free banks of its tiles (R375, R376, log 37). -/
def State.disturbStaging (s : State) (key : Nat) : State :=
  let (t, s) := s.next
  (List.range (Config.pick t % 64)).foldl (fun s _ =>
    let (u, s) := s.next
    s.activate (key * 512 + Config.pick u % 512) (stagingRows (Config.pick u / 512))) s

/-- Performing any access (R77, R83). -/
def State.performAny (s : State) (c k : Nat) (a : Access) : State :=
  let b := a.bits.getD 0 0 / 8
  match a.kind with
  | .wload d signed al =>
    let fit := fun (v : Nat) => if signed then BitVec.ofInt 64 (sInt a.ew v) else BitVec.ofNat 64 v
    if al = 4 then s.returnScalar c k a d 0
    else if al = 5 then s.returnScalar c k a d (fit ((s.pearl ((dataPearl b).1)).statusWord ((dataPearl b).2 - 2 ^ 21)).toNat)
    else (s.returnScalar c k a d (fit ((s.pearl ((dataPearl b).1)).readStore (dataPearl b).2 (a.ew / 8)))).disturbStore b
  | .window al v =>
    if al = 6 then
      if s.anyPoison b (a.ew / 8) then s
      else
        let key := (dataPearl b).1
        (s.setPearl key ((s.pearl key).writeStore (dataPearl b).2 (leBytes (a.ew / 8) v.toNat))).disturbStore b
    else s.reduce al b (a.ew / 8) v
  | _ => s.perform c k a

/-- The bit address an access through a window is ordered by: data-store bytes have numbers of their own, command and status
windows those past the store. -/
def windowBits (aliasNo pa : Nat) : List Nat :=
  if aliasNo = 6 then [8 * dataAddr pa]
  else if aliasNo = 5 then [8 * (2 ^ 64 + pearlKey pa * 2 ^ 22 + 2 ^ 21 + pa % blockBytes)]
  else if aliasNo = 4 then []
  else [8 * pa]

/-! ## Events that answer and perform (table rows of R367, R370, R371, R380, R381) -/

/-- The window request a context has submitted is this one and waits. -/
def State.submitted (s : State) (w : WindowStore) : Bool :=
  match (s.ctx w.core w.ctx).win with
  | some q => q.w == w && q.ans.isNone
  | none => false

/-- The controller's answer reaches the context. -/
def State.answerWin (s : State) (w : WindowStore) (a : Option Bool) : State :=
  s.modCtx w.core w.ctx fun x => { x with win := some ⟨w, some a⟩ }

/-- A rejection is recorded and told (R368). -/
def State.rejectWin (s : State) (w : WindowStore) (code : Nat) : State :=
  (s.modPearl w.pa fun p => p.reject code w.ea).answerWin w (some (s.pearlAt w.pa).trapen)

/-- R378: a command word is accepted when a place in the queue of 64 is free; until then, and while a PCFG configures the tiles,
the context stays held. -/
def State.submitCommand (s : State) (w : WindowStore) : State :=
  let p := s.pearlAt w.pa
  if p.configuring then s
  else match s.windowReject w with
  | some code => s.rejectWin w code
  | none =>
    if 64 ≤ p.queue.length then s
    else
      let m : StackCmd := { kind := p.kind, core := w.core, ctx := w.ctx, k := w.k, block := blockOf w.pa, word := w.data,
                            src := w.pa, run := none }
      (s.modPearl w.pa fun p => { p with acc := (p.acc + 1) % 65536, queue := p.queue ++ [m] }).answerWin w none

/-- RELAYOUT_COMMAND (R370). -/
def execRelayoutCommand (w : WindowStore) (s : State) : Out :=
  .next (if s.submitted w && eaAlias w.ea == 4 && (s.pearlAt w.pa).kind != 2 then s.submitCommand w else s)

/-- POOLING_COMMAND (R371). -/
def execPoolingCommand (w : WindowStore) (s : State) : Out :=
  .next (if s.submitted w && eaAlias w.ea == 4 && (s.pearlAt w.pa).kind == 2 then s.submitCommand w else s)

/-- STATUS_WINDOW_STORE (R367): it performs when the controller accepts it. -/
def execStatusWindowStore (w : WindowStore) (s : State) : Out :=
  .next <|
    if s.submitted w && eaAlias w.ea == 5 && !(s.pearlAt w.pa).configuring then
      match s.windowReject w with
      | some code => s.rejectWin w code
      | none => (s.modPearl w.pa fun p => p.statusStore w.data).answerWin w none
    else s

def StackCmd.n (m : StackCmd) : Nat := (m.word.extractLsb' 0 16).toNat
def StackCmd.j (m : StackCmd) : Nat := (m.word.extractLsb' 16 16).toNat

/-- A tile writes bytes of its command; a place that no party may write refuses them (R419). -/
def State.tilePut (s : State) (pa : Nat) (bs : List Byte) : State := if placeOk pa true then s.storeD none pa 0 bs none else s

/-- The lines of a running command's own operands are lost (R382): of a pooling command the output row, of a relayout a striped row. -/
def State.loseOperands (s : State) (p : Pearl) (m : StackCmd) (row : Nat) : State :=
  let at' := if m.kind = 1 then m.block + p.rowAt (m.j + row) else m.block + p.ooff + m.j * p.op
  (List.range ((if m.kind = 1 then p.prl else p.op) / 64)).foldl (fun s l => s.poisonLine (at' + 64 * l)) s

/-- Destination address of granule `g` of a relayout. -/
def Pearl.granAt (p : Pearl) (m : StackCmd) (g : Nat) : Nat := m.block + p.rowAt (m.j + g / (p.prl / 64)) + 64 * (g % (p.prl / 64))

/-- Byte `o` of the source of a relayout: as it began where the command itself has written it since, else as it stands. -/
def State.relayByte (s : State) (p : Pearl) (m : StackCmd) (r : StackRun) (t o : Nat) : Byte :=
  let a := m.src + o
  if (List.range (m.n * (p.prl / 64))).any fun g => !r.left.contains g && p.granAt m g ≤ a && a < p.granAt m g + 64 then r.src.getD o 0
  else s.tileByte t a

/-- R370: granule `g` of a relayout's striped rows is written: source bytes, then zeros; bytes that overlap the source are undefined; a
source row with an error poisons the lines of its striped row (R382). -/
def State.relayout (s : State) (p : Pearl) (m : StackCmd) (r : StackRun) (g : Nat) : State :=
  let i := g / (p.prl / 64)
  let off := 64 * (g % (p.prl / 64))
  let to' := m.block + p.rowAt (m.j + i) + off
  let (t, s) := s.next
  let bytes := (List.range 64).map fun j =>
    if m.src ≤ to' + j && to' + j < m.src + m.n * p.srb then Config.byte t j
    else if off + j < p.srb then s.relayByte p m r t (i * p.srb + off + j) else 0
  let u := s.tilePut to' bytes
  if s.anyPoison (m.src + i * p.srb) p.srb then u.loseOperands p m i else u

/-- A number as a command of the tiles reads it. -/
def State.tileN (s : State) (t a n : Nat) : Nat := leNat ((List.range n).map fun i => s.tileByte t (a + i))

/-- R371: the sum of an element over the bag, in ascending position. -/
def State.poolElem (s : State) (p : Pearl) (t block : Nat) (idx : List Nat) (e : Nat) : Nat :=
  let w := if p.ety = 9 then 2 else 4
  idx.foldl (fun acc x =>
    if x < p.nrows then
      let v := s.tileN t (block + p.rowAt x + e * w) w
      rneAdd acc (if p.ety = 9 then v * 65536 else v)
    else acc) 0

/-- R371: a byte of a block lies in a table row. -/
def Pearl.inTable (p : Pearl) (o : Nat) : Bool :=
  let st := o / 0x20000
  let i := o % 0x20000
  p.soff ≤ i && i < p.soff + (p.nrows + 15 - st) / 16 * p.prl

/-- Physical address of a pooling command's output row. -/
def Pearl.outAt (p : Pearl) (m : StackCmd) : Nat := m.block + p.ooff + m.j * p.op

/-- R371: granule `g` of the output row is written; where the row overlaps the list or the table its bytes are undefined. -/
def State.pool (s : State) (p : Pearl) (m : StackCmd) (idx : List Nat) (g : Nat) : State :=
  let out := p.outAt m
  let (t, s) := s.next
  let hit := (List.range (4 * p.ne)).any fun i =>
    p.inTable ((out + i) % blockBytes) || (m.src ≤ out + i && out + i < m.src + 4 * m.n)
  let es := (List.range 16).map (16 * g + ·) |>.filter (· < p.ne)
  s.tilePut (out + 64 * g)
    (es.flatMap fun e => if hit then (List.range 4).map fun j => Config.byte t (4 * e + j) else leBytes 4 (s.poolElem p t m.block idx e))

/-- The oldest command of tiles `b` with what it has still to do. -/
def State.setStackRun (s : State) (b : Nat) (m : StackCmd) (r : StackRun) : State :=
  let p := s.pearl b
  s.setPearl b { p with queue := { m with run := some r } :: p.queue.tail }

/-- A command begins: a pooling command reads its list, counts a bad index once, and on a poisoned line of the list or of a row writes
nothing but poison (R371, R382). -/
def State.stackBegin (s0 : State) (b : Nat) (m : StackCmd) : State :=
  let (n, s) := s0.next
  let p := s.pearl b
  if m.kind = 1 then s.setStackRun b m ⟨List.range (m.n * (p.prl / 64)), [], (List.range (m.n * p.srb)).map fun i => s.tileByte n (m.src + i)⟩
  else
    let idx := (List.range m.n).map fun i => s.tileN n (m.src + 4 * i) 4
    let w := if p.ety = 9 then 2 else 4
    let bad := s.anyPoison m.src (4 * m.n) && 0 < m.n || idx.any fun x => x < p.nrows && s.anyPoison (m.block + p.rowAt x) (p.ne * w)
    let nb := if idx.any fun x => p.nrows ≤ x && x != 0xFFFFFFFF then 1 else 0
    let t := s.setPearl b { p with nbad := (p.nbad + nb) % 65536 }
    if bad then (t.loseOperands p m 0).setStackRun b m ⟨[], idx, []⟩ else t.setStackRun b m ⟨List.range (p.op / 64), idx, []⟩

/-- STACK_COMMAND_COMPLETE (R378, R380): the oldest command of tiles `b` takes a step: it begins, or writes one granule of its
destination, whichever a free value picks, or, with none left, completes and DONE counts it. -/
def execStackCommandComplete (b : Nat) (s : State) : Out :=
  .next <|
    let p := s.pearl b
    match p.queue with
    | [] => s
    | m :: rest =>
      if p.configuring then s
      else match m.run with
      | none => s.stackBegin b m
      | some r =>
        if r.left.isEmpty then s.setPearl b { p with queue := rest, done := (p.done + 1) % 65536 }
        else
          let (t, s) := s.next
          let g := r.left.getD (Config.pick t % r.left.length) 0
          let u := if m.kind = 1 then s.relayout p m r g else s.pool p m r.idx g
          (u.disturbStaging b).setStackRun b m { r with left := r.left.erase g }

/-- The first pending access of a context that this window access names and that may perform. -/
def State.findWindow (s : State) (w : WindowStore) : Option Nat :=
  (List.range (s.ctx w.core w.ctx).acc.length).find? fun i =>
    match (s.ctx w.core w.ctx).acc[i]? with
    | none => false
    | some a =>
      a.ea == w.ea && a.k == w.k && a.ew == 8 * w.size && !a.dead &&
      (match a.kind with
        | .window al v => w.isStore && al == eaAlias w.ea && v == w.data
        | .wload _ _ al => !w.isStore && al == eaAlias w.ea
        | _ => false) &&
      s.mayPerform w.core w.ctx i

/-- An accepted window access performs. -/
def State.windowPerform (s : State) (w : WindowStore) (code : Nat) : State :=
  if eaAlias w.ea != code || (s.pearlAt w.pa).configuring then s
  else match s.findWindow w with
  | none => s
  | some i =>
    match (s.ctx w.core w.ctx).acc[i]? with
    | none => s
    | some a =>
      if s.accessError w.core a then s
      else (s.modCtx w.core w.ctx (·.takeAcc i)).performAny w.core w.ctx a

/-- REDUCE_ADD_F32 (R380). -/
def execReduceAddF32 (w : WindowStore) (s : State) : Out := .next (s.windowPerform w 1)
/-- REDUCE_ADD_BF16 (R380). -/
def execReduceAddBf16 (w : WindowStore) (s : State) : Out := .next (s.windowPerform w 2)
/-- REDUCE_MAX_F32 (R380). -/
def execReduceMaxF32 (w : WindowStore) (s : State) : Out := .next (s.windowPerform w 3)
/-- PEARL_DATA_ACCESS (R381). -/
def execPearlDataAccess (w : WindowStore) (s : State) : Out := .next (s.windowPerform w 6)

end Sys2Proof.Machine
end

