-- ==== Sys2Proof/Machine/Memory.lean ====
section
/-! DEFINITION. Loads, stores, atomics, reservations, fences and mailboxes, row loads and stores, and the events that perform pending
accesses (spec/04 R74-R88, spec/05 R105-R107, spec/07 R130-R131, spec/12 R187-R203). -/

namespace Sys2Proof.Machine

/-! ## Scalar accesses -/

/-- R75: LD, LDS, ST add the index register. -/
def State.eaIndexed (s : State) (f : MF) : Word := s.getS f.a + s.getS f.b + f.disp.signExtend 64
/-- R75: LDX, STX and the atomics. -/
def State.eaBase (s : State) (f : MF) : Word := s.getS f.a + f.disp.signExtend 64
/-- Bytes of the access (R77). -/
def MF.size (f : MF) : Nat := 2 ^ f.sz.toNat

/-- A scalar access of this instruction's ordering fields. -/
def State.scalarAccess (s : State) (f : MF) (kind : AccKind) (ea : Word) (bits : List Nat) (at' : Attr) (pa : Nat) : Access :=
  s.newAccess kind ea bits (8 * Machine.MF.size f) at' (s.holdOf ea) f.k.toNat f.sc.toNat f.aq f.rl (modOf pa)

/-- An access through an alias window as the block's controller sees it. -/
def State.windowOf (s : State) (f : MF) (ea : Word) (pa : Nat) (isStore : Bool) (v : Word) : WindowStore :=
  { core := s.curCore, ctx := s.curCtx, ea := ea, pa := pa, size := Machine.MF.size f, isStore := isStore, data := v, k := f.k.toNat }

/-- LD, LDS and LDX (R77, R81, R83). -/
def State.loadS (s : State) (i : Instr) (f : MF) (signed reserve : Bool) : Out :=
  s.issue i f.gd (if reserve then [f.a.toNat] else [f.a.toNat, f.b.toNat]) fun s =>
    let ea := if reserve then s.eaBase f else s.eaIndexed f
    s.checkAccess (if reserve then .loadX else .load) ea (Machine.MF.size f) f.sc.toNat false fun pa at' =>
      if eaAlias ea = 0 then
        if !s.me.loadRoom then .wait s
        else
          let b := s.scalarAccess f (.load f.d.toNat signed) ea [8 * pa] at' pa
          .done (if reserve then (s.push b).modMe fun x => x.reserve b else s.push b)
      else
        let w := s.windowOf f ea pa false 0
        if (s.pearlAt pa).configuring then .wait s
        else match s.windowReject w with
        | some code => s.rejectNow w code
        | none =>
          if eaAlias ea == 6 && s.anyPoison (dataAddr pa) (Machine.MF.size f) then .trap 0x0B ea
          else if !s.me.loadRoom then .wait s
          else
            let kind := if eaAlias ea < 4 then .load f.d.toNat signed else AccKind.wload f.d.toNat signed (eaAlias ea)
            .done (s.push (s.scalarAccess f kind ea (windowBits (eaAlias ea) pa) at' pa))

/-- LD (R77). -/
def execLd (f : MF) (s : State) : Out := s.loadS (.ld f) f false false
/-- LDS (R77). -/
def execLds (f : MF) (s : State) : Out := s.loadS (.lds f) f true false
/-- LDX (R81). -/
def execLdx (f : MF) (s : State) : Out := s.loadS (.ldx f) f false true

/-- The spin detector has seen a store (R203). -/
def State.noteStore (s : State) : State := s.modMe fun x => { x with spin := x.spin.stores }

/-- R368: a store to a command or status window is submitted when what must come first has performed; the context stays held
until the controller answers. What another store left behind is replaced. -/
def State.windowStore (s : State) (w : WindowStore) (b : Access) : Issue :=
  if (match s.me.win with | some q => q.w == w | none => false) || !s.orderOk b then .wait s
  else .wait (s.modMe fun x => { x with win := some ⟨w, none⟩ })

/-- R368: the controller's answer to the store of `v` at `ea` that the context holds at issue. -/
def State.windowAnswer (s : State) (f : MF) (ea v : Word) : Option (Option Bool) :=
  match s.me.win with
  | some q => if q.w.ea == ea && q.w.data == v && q.w.size == Machine.MF.size f && q.w.k == f.k.toNat then q.ans else none
  | none => none

/-- R368, R379: an answered store completes, or traps where it was rejected and TRAPEN asks for it; nothing of it is judged again. -/
def State.takeAnswer (s : State) (ea : Word) (r : Option Bool) : Issue :=
  let t := (s.modMe fun x => { x with win := none }).noteStore
  if r == some true then .trapAfter t 0x0C ea else .done t

/-- ST (R77, R83). R107 and R118 give the 6 cycles of a store to the own slice to a VST alone; here a plain ST to it has performed by its
sixth cycle too, unless an order holds it back (log 72). -/
def execSt (f : MF) (s : State) : Out :=
  s.issue (.st f) f.gd [f.a.toNat, f.b.toNat, f.d.toNat] fun s =>
    let ea := s.eaIndexed f
    let v := s.getS f.d
    match s.windowAnswer f ea v with
    | some r => s.takeAnswer ea r
    | none =>
    s.checkAccess .store ea (Machine.MF.size f) f.sc.toNat f.rl fun pa at' =>
      let loc := s.ownSlice s.curCore pa
      if eaAlias ea = 0 then
        if !s.me.storeRoom then .wait s
        else
          let b := s.scalarAccess f (.store v) ea [8 * pa] at' pa
          .done (s.push { b with due := if loc then some (s.now + 6) else none })
      else
        let w := s.windowOf f ea pa true v
        let b := s.scalarAccess f (.window (eaAlias ea) v) ea (windowBits (eaAlias ea) pa) at' pa
        if eaAlias ea == 4 || eaAlias ea == 5 then (if b.dead then .done (s.discardNow b).noteStore else s.windowStore w b)
        else if (s.pearlAt pa).configuring then .wait s
        else match s.windowReject w with
        | some code => s.rejectNow w code
        | none =>
          if eaAlias ea == 6 && s.anyPoison (dataAddr pa) (Machine.MF.size f) then .trap 0x0B ea
          else if !s.me.storeRoom then .wait s
          else .done (s.push b)

/-- STX (R81): it performs at issue, once what must come first has performed. -/
def execStx (f : MF) (s : State) : Out :=
  s.issue (.stx f) f.gd [f.a.toNat, f.b.toNat] fun s =>
    let ea := s.eaBase f
    let v := s.getS f.b
    s.checkAccess .storeX ea (Machine.MF.size f) f.sc.toNat f.rl fun pa at' =>
      let b := s.scalarAccess f (.store v) ea [8 * pa] at' pa
      if !s.orderOk b then .wait s
      else
        let ok := match s.me.resv with
          | some r => r.ea == ea &&& ~~~63 && r.sc == f.sc.toNat
          | none => false
        let t := s.modMe fun x => { x with resv := none, spin := x.spin.stores }
        if ok && b.dead then
          -- discarded (R416): whether it tells success is not stated (log 85)
          let (n, t) := (t.discardNow b).next
          .done (t.putS f.d.toNat (Config.word n 0 &&& 1) 1)
        else
          let t := if ok then t.perform s.curCore s.curCtx b else t
          .done (t.putS f.d.toNat (if ok then 1 else 0) 1)

/-- An atomic of R79, by its opcode; ACAS alone reads s[D]. -/
def State.atomic (s : State) (i : Instr) (f : MF) (op : Nat) : Out :=
  s.issue i f.gd ([f.a.toNat, f.b.toNat] ++ if op = 0x57 then [f.d.toNat] else []) fun s =>
    let ea := s.eaBase f
    s.checkAccess .atomic ea (Machine.MF.size f) f.sc.toNat f.rl fun pa at' =>
      if !s.me.loadRoom then .wait s
      else .done (s.push (s.scalarAccess f (.amo f.d.toNat op (s.getS f.b) (s.getS f.d)) ea [8 * pa] at' pa))

/-- AADD (R79). -/
def execAadd (f : MF) (s : State) : Out := s.atomic (.aadd f) f 0x4E
/-- AMIN (R79). -/
def execAmin (f : MF) (s : State) : Out := s.atomic (.amin f) f 0x4F
/-- AMAX (R79). -/
def execAmax (f : MF) (s : State) : Out := s.atomic (.amax f) f 0x50
/-- AMINW (R79). -/
def execAminw (f : MF) (s : State) : Out := s.atomic (.aminw f) f 0x51
/-- AMAXW (R79). -/
def execAmaxw (f : MF) (s : State) : Out := s.atomic (.amaxw f) f 0x52
/-- AAND (R79). -/
def execAand (f : MF) (s : State) : Out := s.atomic (.aand f) f 0x53
/-- AOR (R79). -/
def execAor (f : MF) (s : State) : Out := s.atomic (.aor f) f 0x54
/-- AXOR (R79). -/
def execAxor (f : MF) (s : State) : Out := s.atomic (.axor f) f 0x55
/-- AXCH (R79). -/
def execAxch (f : MF) (s : State) : Out := s.atomic (.axch f) f 0x56
/-- ACAS (R79). -/
def execAcas (f : MF) (s : State) : Out := s.atomic (.acas f) f 0x57

/-! ## Fences (R85, R86) -/

/-- Class of an engine command (R28, R196). -/
def Cmd.k (m : Cmd) : Nat := match m.ins.bundle with | some (_, .e f) => f.k.toNat | _ => 0

/-- Every earlier access of the masked classes has performed: pending accesses and engine commands of the context (R85). -/
def State.classesDone (s : State) (mask : BitVec 16) : Bool :=
  (s.me.acc.all fun a => a.kind.isFence || !mask.getLsbD a.k) &&
  (s.myCore.cmds.all fun m => m.ctx != s.curCtx || !mask.getLsbD (Machine.Cmd.k m)) && !s.stackBusy s.curCore s.curCtx mask

/-- FENCE (R85). -/
def execFence (f : MF) (s : State) : Out :=
  s.issue (.fence f) f.gd [] fun s =>
    s.checkDiscard true <| if s.classesDone (f.disp.extractLsb' 0 16) then .done s else .wait s

/-- A FENCEH in progress covers the issuing context (R86). -/
def State.serialised (s : State) : Bool :=
  s.cores.any fun p => p.2.ctxs.any fun q =>
    match q.2.fenceh with
    | some sc => inScope sc p.1 q.1 s.curCore s.curCtx && !(p.1 == s.curCore && q.1 == s.curCtx)
    | none => false

/-- FENCEL (R86): a mark between earlier and later accesses. -/
def execFencel (f : MF) (s : State) : Out :=
  s.issue (.fencel f) f.gd [] fun s =>
    if s.serialised then .wait s
    else if s.me.acc.isEmpty then .done s
    else .done (s.modMe fun x =>
      { x with acc := x.acc ++ [{ s.newAccess .fencel 0 [] 8 ⟨false, false, false, false, false, false, false⟩ 0 0 0 false false 0 with dead := false }] })

/-- Every store buffer within a scope of the issuing context is empty (R86). -/
def State.buffersEmpty (s : State) (sc : Nat) : Bool :=
  s.cores.all fun p => p.2.ctxs.all fun q =>
    !(inScope sc s.curCore s.curCtx p.1 q.1) || q.2.acc.all fun a => !a.kind.isStore

/-- FENCEH (R86). -/
def execFenceh (f : MF) (s : State) : Out :=
  s.issue (.fenceh f) f.gd [] fun s =>
    s.checkDiscard true <|
      if s.classesDone 0xFFFF && s.buffersEmpty f.sc.toNat then .done (s.modMe fun x => { x with fenceh := none })
      else .wait (s.modMe fun x => { x with fenceh := some f.sc.toNat })

/-! ## Mailboxes (R87, R88): class 0, module scope, memory of this module -/

/-- A mailbox access. -/
def State.mailAccess (s : State) (kind : AccKind) : Access :=
  s.newAccess kind 0 [] 64 ⟨true, true, false, false, false, false, false⟩ 0 0 3 false false s.koyth.modId

/-- MBR (R87). -/
def execMbr (f : IF) (s : State) : Out :=
  s.issue (.mbr f) f.gd [] fun s =>
    s.checkDiscard (s.discardMod == some s.koyth.modId) <|
      if s.me.loadRoom then .done (s.push (s.mailAccess (.mbr f.d.toNat f.x.toNat))) else .wait s

/-- MBW (R87); refused inside a tile step (R168). -/
def execMbw (f : IF) (s : State) : Out :=
  s.issue (.mbw f) f.gd [f.a.toNat] fun s =>
    if s.me.inStep then .trap 0x15 0
    else s.checkDiscard (s.discardMod == some s.koyth.modId) <|
      if s.me.storeRoom then .done (s.push (s.mailAccess (.mbw f.x.toNat (s.getS f.a)))) else .wait s

/-! ## Row accesses (R105-R107) -/

/-- A row access whose checks have passed: its elements as physical bit addresses, and what its pages say. -/
structure RowAcc where
  ea : Word
  bits : List Nat
  ew : Nat
  /-- some page of the rows carries A; every one does -/
  anyA : Bool
  allA : Bool
  attr : Attr
  /-- HOLD of the D pages, by physical 64 KiB frame -/
  holds : List (Nat × Nat)
  modl : Nat
  /-- every byte lies in the own slice; bounding box of the bytes that do -/
  loc : Bool
  parts : List Part
  ltag : Option (BitVec 9)
  deriving DecidableEq, Repr

/-- Virtual bit addresses of the elements of `rows` rows, and the element width. -/
def rowBitsPlain (ea : Word) (rows : Nat) : List Nat := (List.range (192 * rows)).map fun i => 8 * (ea.toNat + 4 * i)
def rowBitsLay (base : Word) (l : Lay) (r rows : Nat) : List Nat :=
  (List.range rows).flatMap fun j => (List.range l.n).map fun k => 8 * base.toNat + l.at (r + j) k

/-- The first byte touched in each 64 KiB page, in order of first touch. -/
def pagesOf (vbits : List Nat) : List Nat :=
  vbits.foldl (fun l b => if l.any fun a => a / 0x10000 == b / 0x80000 then l else l ++ [b / 8]) []

/-- Lines (64 bytes) touched. -/
def linesOf (bits : List Nat) : List Nat := bits.foldl (fun l b => if l.contains (b / 512) then l else l ++ [b / 512]) []

/-- Physical bit address of a virtual one, by the page table `tr` of (page's first byte, its physical address). -/
def mapBit (tr : List (Nat × Nat)) (b : Nat) : Nat :=
  match tr.find? fun p => p.1 / 0x10000 == b / 0x80000 with
  | some (a, pa) => 8 * (pa - a % 0x10000) + b % 0x80000
  | none => 0

/-- R105, R106: virtual bit addresses of the elements of the rows of a row access, and their width. -/
def State.rowElems (s : State) (f : MF) (rows : Nat) : List Nat × Nat :=
  let lay := layOf (s.getS f.b)
  if f.b != 0 then (rowBitsLay (s.getS f.a) lay f.disp.toNat rows, lay.e)
  else (rowBitsPlain (s.getS f.a + f.disp.signExtend 64) rows, 32)

/-- Address of a row access (R106). -/
def State.rowEa (s : State) (f : MF) : Word := if f.b != 0 then s.getS f.a else s.getS f.a + f.disp.signExtend 64

def minOf (l : List Nat) : Nat := l.foldl min (l.headD 0)
def maxOf (l : List Nat) : Nat := l.foldl max 0

/-- The checks of a row access after its rows have been checked (R30 checks 9 to 11): alignment, layout word, alias, translation,
attributes, the slice of a layout form; what holds it at issue, the range checker (R95) and `ready` (R107); and only then, since a held
access has not issued, the layout tags of the lanes that are read and the poison of every byte (R106); then the body. A row over pages
with and without A is bounded as a whole (log 72). The first byte outside the slice of a layout form's base is the first in logical
element order (log 72). -/
def State.rowAccess (s : State) (f : MF) (rows : Nat) (write : Bool) (m : Lanes) (ready : RowAcc → Bool) (body : RowAcc → Issue) : Issue :=
  let lay := layOf (s.getS f.b)
  let form := f.b != 0
  let ea := s.rowEa f
  if ea.extractLsb' 0 6 != 0 then .trap 0x08 ea
  else if form && !layoutOk (s.getS f.b) then .trap 0x0D (s.getS f.b)
  else
  let vbits := (s.rowElems f rows).1
  let ew := (s.rowElems f rows).2
  if (8 * 2 ^ 52 ≤ ea.toNat * 8) || vbits.any fun b => 8 * 2 ^ 52 ≤ b then .trap 0x0E ea
  else
  let pages := pagesOf (8 * ea.toNat :: vbits)
  match s.lookAll s.curCore s.curCtx (pages.map fun a => BitVec.ofNat 64 a) with
  | .wait a => .wait (s.modMe (·.ask a))
  | .miss a => .park (if write then 5 else 4) a
  | .malformed _ => .trap 0x0E ea
  | .ok trs =>
  let tr := List.zip pages (trs.map (·.1))
  -- the base of a tile is translated, and judged only where a byte of the rows lies in its page
  let mine := (List.zip pages (trs.map (·.2))).filter fun p => vbits.any fun b => p.1 / 0x10000 == b / 0x80000
  let at0 := ((trs.map (·.2)).headD ⟨false, false, false, false, false, false, false⟩)
  let bits := vbits.map (mapBit tr)
  let pa0 := mapBit tr (8 * ea.toNat) / 8
  let lines := linesOf bits
  let holds := mine.filterMap fun p => if p.2.d then some (mapBit tr (8 * p.1) / 8 / 0x10000, s.holdOf (BitVec.ofNat 64 p.1)) else none
  let met := if write then lines else lines.map fun l =>
    readAt (64 * l) (match holds.find? fun p => p.1 == 64 * l / 0x10000 with | some p => p.2 | none => 0) (dieOf s.curCore) / 64
  let inBase := fun pa => modOf pa == modOf pa0 && (match targetOf pa, targetOf pa0 with
    | .slice c _, .slice d _ => c == d
    | _, _ => false)
  let own := bits.filter fun b => s.ownSlice s.curCore (b / 8)
  let offs := own.map fun b => sliceOff (b / 8)
  let parts := if own.isEmpty then [] else [⟨false, minOf offs, maxOf offs + (max 1 (ew / 8)) - 1, write⟩]
  if form && !(modOf pa0 == s.koyth.modId && inBase pa0) then .trap 0x0E ea
  else if lines.any (fun l => !s.inDomain (modOf (64 * l)) ||
      !copiesOk (64 * l) (match holds.find? fun p => p.1 == 64 * l / 0x10000 with | some p => p.2 | none => 0) (dieOf s.curCore) write ||
      s.markedByte (64 * l)) then .trap 0x0E ea
  else if (mine.any fun t => if write then !t.2.w else !t.2.r) then .trap 0x0E ea
  else match (if form then (List.zip vbits bits).find? fun p => !inBase (p.2 / 8) else none) with
  | some p => .trap 0x0E (BitVec.ofNat 64 (p.1 / 8))
  | none =>
  let acc : RowAcc :=
    { ea := ea, bits := bits, ew := ew, anyA := mine.any (·.2.a), allA := mine.all (·.2.a),
      attr := { at0 with d := mine.any (·.2.d) },
      holds := holds
      modl := modOf pa0, loc := own.length == bits.length, parts := parts,
      ltag := if form then some lay.tag else none }
  if write && s.me.inStep && bits.zipIdx.any (fun q => m.getLsbD (laneOf ew (q.2 % (6144 / ew))) && !s.ownSlice s.curCore (q.1 / 8)) then .trap 0x15 ea
  else if s.myCore.rangeHold parts || !ready acc then .wait s
  else match (if form && !write && s.me.dbgLayout.getLsbD 0 then
      ((List.zip vbits bits).zipIdx.filter fun q => m.getLsbD (laneOf ew (q.2 % (6144 / ew)))).filterMap fun q =>
        let p := q.1
        let t := match targetOf (p.2 / 8) with | .slice c off => Tab.get (fun _ => 0) (s.core c).ltags (off / 64) | _ => 0
        if t.getLsbD 8 && t != lay.tag then some (p.1 / 8 / 64 * 64) else none else []) with
  | a :: rest => .trap 0x0F (BitVec.ofNat 64 (minOf (a :: rest)))
  | [] =>
  if met.any (fun l => s.retiredByte (64 * l)) || met.any (fun l => s.poison.contains l) then .trap 0x0B ea
  else s.checkDiscard ((match s.discardMod with | some n => bits.any fun b => modOf (b / 8) == n | none => false) || (write && f.rl)) <| body acc

/-- Scalars that a row access reads. -/
def rowRegs (f : MF) : List Nat := if f.b = 0 then [f.a.toNat] else [f.a.toNat, f.b.toNat]

/-- The access of a row load or store; one of the own slice has the cycle by which it is seen there. -/
def State.rowAccOf (s : State) (f : MF) (r : RowAcc) (kind : AccKind) (due : Option Nat) : Access :=
  { s.newAccess kind r.ea r.bits r.ew r.attr 0 f.k.toNat f.sc.toNat f.aq f.rl r.modl with ltag := r.ltag, holds := r.holds, due := due }

/-- R107: a row load from the own slice issues once every earlier access that must come first has performed. -/
def State.rowReady (s : State) (f : MF) (m : Lanes) (g : Nat) (r : RowAcc) : Bool :=
  !r.loc || s.orderOk (s.rowAccOf f r (.vload g m r.anyA) (some s.now))

/-- VLD and VLDT (R107): exposed from the own slice, interlocked from elsewhere. -/
def State.rowLoad (s : State) (i : Instr) (f : MF) (us : Ctx → List RowRef) : Out :=
  s.issueV i f.gd (rowRegs f) fun s m =>
    let refs := us s.me
    s.checkRows (refs.map fun d => useWrite d m) (maskPred f.gd) [] <|
      let g := match refs with | d :: _ => s.me.rowGran s.curCtx d | [] => 0
      s.rowAccess f refs.length false m (s.rowReady f m g) fun r =>
        if r.loc then
          .done ((List.range refs.length).foldl (fun t j =>
            t.land (6 + j) (rowEffs (g + 12 * j) (s.gatherRow r.bits r.ew m j) (laneBits m) (if r.anyA then .unknown else .exact))) s)
        else if !s.me.loadRoom then .wait s
        else .done (s.push (s.rowAccOf f r (.vload g m r.anyA) none))

/-- VLD (R107). -/
def execVld (f : MF) (s : State) : Out := s.rowLoad (.vld f) f fun x => [x.vRow f.d.toNat]
/-- VLDT (R107): rows 0 to 7 of the tile view. -/
def execVldt (f : MF) (s : State) : Out := s.rowLoad (.vldt f) f fun x => (List.range 8).map (x.tRow f.d.toNat)

/-- R92: a page of a row store lacks A, as far as its translations stand. -/
def State.pageExact (s : State) (f : MF) : Bool :=
  (f.b == 0 || layoutOk (s.getS f.b)) && (pagesOf (s.rowElems f 1).1).any fun a =>
    match s.look s.curCore s.curCtx (BitVec.ofNat 64 a) with
    | .ok _ at' => !at'.a
    | _ => false

/-- VST (R107): the source row is read at issue; a bounded row is refused on a page without A before alignment is judged (log 15).
A row only part of whose bytes lie in the own slice has no fixed cycle: R107 speaks of a VST to the own slice (log 86). -/
def execVst (f : MF) (s : State) : Out :=
  s.issueV (.vst f) f.gd (rowRegs f) fun s m =>
    let src := s.me.vRow f.d.toNat
    s.checkRows [{ useRead src m with exact := s.pageExact f, info := some (s.rowEa f) }] (maskPred f.gd) [] <|
      s.rowAccess f 1 true m (fun _ => true) fun r =>
        if !r.allA && (s.refTag src).b then .trap 0x04 r.ea
        else if !s.me.storeRoom then .wait s
        else .done (s.push (s.rowAccOf f r (.vstore m (s.refRow src)) (if r.loc then some (s.now + 6) else none)))

/-! ## Events -/

/-- LOAD_RETURN (R130): the i-th pending access of a context, a load that may perform, returns. -/
def execLoadReturn (c k i : Nat) (s : State) : Out :=
  .next <|
    match (s.ctx c k).acc[i]? with
    | none => s
    | some a =>
      let here := match a.kind with | .wload _ _ al => al != 6 | _ => true
      if a.kind.isLoad && here && s.mayPerform c k i && !s.accessError c a then
        ((s.modCtx c k (·.takeAcc i)).acked a).performAny c k a
      else s

/-- LOAD_ERROR_RETURN (R131): the i-th pending access, a load, meets an error. -/
def execLoadErrorReturn (c k i : Nat) (s : State) : Out :=
  .next <|
    match (s.ctx c k).acc[i]? with
    | none => s
    | some a =>
      -- an answered window store, earlier in program order than the trap to come, completes first
      if a.kind.isLoad && s.mayPerform c k i && s.accessError c a && !(s.ctx c k).answered then (s.modCtx c k (·.takeAcc i)).loadError c k a else s

/-- STORE_PERFORM (R202): the i-th pending access, a store, performs, or is discarded (R416). -/
def execStorePerform (c k i : Nat) (s : State) : Out :=
  .next <|
    match (s.ctx c k).acc[i]? with
    | none => s
    | some a =>
      if !a.kind.isStore || !s.mayPerform c k i then s
      else if a.dead then
        let t := s.modCtx c k fun x => (x.discardStore i a).takeAcc i
        t.countDiscard (t.ctx c k)
      else match a.kind with
        | .window _ _ => s
        | _ => ((s.modCtx c k (·.takeAcc i)).acked a).performAny c k a

/-- RESERVATION_EXPIRY (R82). -/
def execReservationExpiry (c k : Nat) (s : State) : Out :=
  .next <|
    match (s.ctx c k).resv with
    | some r => if 256 < r.issued then s.modCtx c k fun x => { x with resv := none } else s
    | none => s

/-- RESULT_LANDING (R126): every result due in this cycle lands. -/
def execResultLanding (c : Nat) (s : State) : Out :=
  .next (if (s.core c).landings.any fun l => l.due ≤ (s.core c).clock then s.modCore c Core.landDue else s)

/-- TRAP_ENTRY (R280): a context that waits for its drain enters its trap. -/
def execTrapEntry (c k : Nat) (s : State) : Out :=
  .next <|
    match (s.ctx c k).run with
    | .trapping cause info pc =>
      if (s.core c).drained k && (s.ctx c k).delay.isNone then s.enterTrap c k cause info pc else s
    | _ => s

end Sys2Proof.Machine
end

