-- ==== Sys2Proof/Machine/System.lean ====
section
/-! DEFINITION. Control words, translation maintenance and bank power (spec/02 R38-R45, spec/15 R253, R257-R261, R430, spec/20
R311-R313, spec/22 R337). ERET and SYSC stand with the control transfers. -/

namespace Sys2Proof.Machine

/-! ## Reading (R43, R257) -/

def Core.tile (x : Core) (t : Nat) : Tile := Tab.get (fun _ => Tile.init) x.tiles t
def Core.setTile (x : Core) (t : Nat) (v : Tile) : Core := { x with tiles := Tab.set (fun _ => Tile.init) x.tiles t v }
def Tile.sym (t : Tile) (c : Nat) : BitVec 16 := Tab.get (fun _ => 0) t.dsym c

/-- Commands of a tile queued or running. -/
def Core.tileQ (x : Core) (t : Nat) : Nat := (x.cmds.filter fun m => m.engine == .tile t).length

/-- R253: eng.status. -/
def Core.engStatus (x : Core) (k : Nat) : Word :=
  (x.ctx k).engStatus + BitVec.ofNat 64 ((x.cmds.filter fun m => m.ctx == k && m.engine == .matrix).length)

/-- R311: xbN.status. -/
def Core.tileStatus (x : Core) (t : Nat) : Word :=
  let u := x.tile t
  let q := x.tileQ t
  BitVec.ofBool u.lf ++ BitVec.ofBool u.rcal ++ BitVec.ofBool u.calv ++ BitVec.ofBool (q != 0) ++ BitVec.ofNat 4 q ++ u.xerr ++ u.drift ++
    u.nfail ++ (0 : BitVec 16)

/-- R313: xbN.sym as it reads. -/
def Tile.symWord (u : Tile) : Word := BitVec.ofNat 64 (u.col * 2 ^ 32 + (u.sym u.col).toNat)

/-- R45. -/
def featLo : Word := 0x3FFFF

/-- The configuration words of a join unit. -/
def JoinUnit.word (u : JoinUnit) (n : Nat) : Word := Tab.get (fun _ => 0) u.cfg n

/-- R43: a control word of the issuing context. -/
def State.control (s : State) (n : Nat) : Word :=
  let x := s.me
  let c := s.curCore
  if n = 0 then x.trapBase
  else if n = 1 then x.trapCause
  else if n = 2 then x.trapPc
  else if n = 3 then x.trapInfo
  else if n = 0x10 then BitVec.ofNat 64 c
  else if n = 0x11 then BitVec.ofNat 64 s.curCtx
  else if n = 0x12 then BitVec.ofNat 64 (grottoOf c)
  else if n = 0x13 then BitVec.ofNat 64 (dieOf c)
  else if n = 0x14 then BitVec.ofNat 64 s.koyth.modId
  else if n = 0x20 then BitVec.ofNat 64 s.now
  else if n = 0x21 then s.myCore.seed
  else if n = 0x30 then x.dbgPend
  else if n = 0x31 then x.dbgLayout
  else if n = 0x40 then s.myCore.engStatus s.curCtx
  else if n = 0x41 then x.engPoison
  else if n = 0x50 then featLo
  else if n = 0x51 then 0
  else if n < 0x64 then s.myCore.tileStatus (n - 0x60)
  else if n < 0x68 then (s.myCore.tile (n - 0x64)).symWord
  else if n < 0x6C then (s.myCore.tile (n - 0x68)).gain
  else if n = 0x70 then s.myCore.bank
  else if n < 0x90 then (s.die (dieOf c)).unit.word (n - 0x80)
  else if n = 0xA0 then x.viewV
  else if n = 0xA1 then x.viewT
  else if n = 0xA2 then x.grant
  else if n < 0xB4 then (x.loop (n - 0xB0)).lc
  else x.bt (n - 0xB8)

/-- R43: lowest level that may read a word. -/
def readLevel (n : Nat) : Nat := if n < 4 || (0x80 ≤ n && n < 0x90) then 1 else 0

/-- MFC (R257). -/
def execMfc (f : IF) (s : State) : Out :=
  s.issueAt (.mfc f) 1 (readLevel f.x.toNat) f.gd [] fun s => .done (s.putS f.d.toNat (s.control f.x.toNat) 1)

/-! ## Writing (R257, R430) -/

/-- An MTC: level, interlock on the source, a check of the value with the trap it raises, then the write. -/
def State.mtc (s : State) (i : Instr) (f : IF) (lvl : Nat) (check : Word → Option Nat) (write : State → Word → Issue) : Out :=
  s.issueAt i 1 lvl f.gd [f.a.toNat] fun s =>
    match check (s.getS f.a) with
    | some cause => .trap cause (s.getS f.a)
    | none => write s (s.getS f.a)

/-- Checks of trap.base, trap.cause, dbg.pend and dbg.layout (R44, R430). -/
def plainCheck (n : Nat) (v : Word) : Option Nat :=
  if n = 0 then (if v.extractLsb' 0 6 != 0 then some 0x08 else none)
  else if n = 1 then (if v.extractLsb' 10 54 != 0 || v.extractLsb' 8 2 == 3 then some 0x0D else none)
  else if n = 0x30 ∨ n = 0x31 then (if v.extractLsb' 1 63 != 0 then some 0x0D else none)
  else none

def Ctx.plainWrite (x : Ctx) (n : Nat) (v : Word) : Ctx :=
  if n = 0 then { x with trapBase := v }
  else if n = 1 then { x with trapCause := v }
  else if n = 2 then { x with trapPc := v }
  else if n = 3 then { x with trapInfo := v }
  else if n = 0x30 then { x with dbgPend := v }
  else { x with dbgLayout := v }

/-- MTC of the trap words and the debug words (R257, R430). -/
def execMtc (f : IF) (s : State) : Out :=
  s.mtc (.mtc f) f 1 (plainCheck f.x.toNat) fun s v => .done (s.modMe fun x => x.plainWrite f.x.toNat v)

/-- RNG_SEED_WRITE (R148): the word of the next cycle is the first of the new stream. -/
def execRngSeedWrite (f : IF) (s : State) : Out :=
  s.mtc (.rngSeedWrite f) f 0 (fun _ => none) fun s v => .done (s.modMy fun x => { x with seed := v, rng := seedState v })

/-- ENG_POISON_CLEAR (R139): a bit set in this cycle stays set. -/
def execEngPoisonClear (f : IF) (s : State) : Out :=
  s.mtc (.engPoisonClear f) f 0 (fun v => if v.extractLsb' 5 59 != 0 then some 0x0D else none) fun s v =>
    .done (s.modMe fun x => { x with engPoison := (x.engPoison &&& ~~~v) ||| x.poisonNow })

/-- R41, R257: the limits of a grant. -/
def grantCheck (v : Word) : Option Nat :=
  if v.extractLsb' 43 21 != 0 || v.extractLsb' 10 22 != 0 || 1024 < grantCount v then some 0x0D else none

/-- ACC_GRANT_WRITE (R41). -/
def execAccGrantWrite (f : IF) (s : State) : Out :=
  s.mtc (.accGrantWrite f) f 1 grantCheck fun s v => .done (s.modMe fun x => { x with grant := v })

/-- R40, R108: the checks of a view word. -/
def viewCheck (v : Word) : Option Nat :=
  if viewBase v % 64 != 0 || viewStride v % 64 != 0 then some 0x08
  else if v.extractLsb' 48 16 != 0 || v.extractLsb' 16 16 != 0 then some 0x0D
  else none

/-- VIEW_WORD_WRITE (R40). -/
def execViewWordWrite (f : IF) (s : State) : Out :=
  s.mtc (.viewWordWrite f) f 0 viewCheck fun s v =>
    .done (s.modMe fun x => if f.x.toNat = 0xA0 then { x with viewV := v } else { x with viewT := v })

/-- LOOP_COUNTER_WRITE (R132). -/
def execLoopCounterWrite (f : IF) (s : State) : Out :=
  s.mtc (.loopCounterWrite f) f 1 (fun _ => none) fun s v =>
    .done (s.modMe fun x => x.setLoop (f.x.toNat - 0xB0) { x.loop (f.x.toNat - 0xB0) with lc := v })

/-- BRANCH_TARGET_WRITE (R257). -/
def execBranchTargetWrite (f : IF) (s : State) : Out :=
  s.mtc (.branchTargetWrite f) f 1 (fun v => if v.extractLsb' 0 3 != 0 then some 0x08 else if eaTop v then some 0x0E else none)
    fun s v => .done (s.modMe fun x => x.setBt (f.x.toNat - 0xB8) v)

/-- R312: no NaN, infinity or negative value. -/
def bf16Plain (v : BitVec 16) : Bool := v.toNat < 0x7F80 || v == 0x8000

/-- R312, R337: the checks of xbN.gain. -/
def gainCheck (v : Word) : Option Nat :=
  if !([0, 16, 32, 48].all fun b => bf16Plain (v.extractLsb' b 16)) || 0x3C00 < (v.extractLsb' 48 15).toNat then some 0x0D else none

/-- XB_GAIN_WRITE (R312, R337): it waits until the tile is idle. -/
def execXbGainWrite (f : IF) (s : State) : Out :=
  s.mtc (.xbGainWrite f) f 1 gainCheck fun s v =>
    let t := f.x.toNat - 0x68
    if s.myCore.tileQ t != 0 then .wait s
    else .done (s.modMy fun x =>
      let u := x.tile t
      x.setTile t { u with gain := v, calv := u.calv && u.gain.extractLsb' 0 48 == v.extractLsb' 0 48 })

/-- R313: the checks of xbN.sym. -/
def symCheck (v : Word) : Option Nat :=
  let d := (v.extractLsb' 0 15).toNat
  if v.extractLsb' 42 21 != 0 || v.extractLsb' 16 16 != 0 || 0x3F80 < d then some 0x0D else none

/-- XB_SYM_WRITE (R313): with WR it waits until the tile is idle. -/
def execXbSymWrite (f : IF) (s : State) : Out :=
  s.mtc (.xbSymWrite f) f 1 symCheck fun s v =>
    let t := f.x.toNat - 0x64
    let col := (v.extractLsb' 32 10).toNat
    if v.getLsbD 63 && s.myCore.tileQ t != 0 then .wait s
    else .done (s.modMy fun x =>
      let u := x.tile t
      x.setTile t { u with col := col, dsym := if v.getLsbD 63 then Tab.set (fun _ => 0) u.dsym col (v.extractLsb' 0 16) else u.dsym })

/-! ## TLBI (R260, R305, R306) -/

/-- Cores whose translations a TLBI of scope `sc` reaches; the home slice of a page is reached at any scope, and every
walk cache within the scope is emptied. -/
def State.tlbiDrop (s : State) (sc : Nat) (keep : TlbEntry → Bool) (home : Nat → Bool) : State :=
  s.cores.foldl (fun s p =>
    let c := p.1
    let x := s.core c
    let hit := inScope sc s.curCore s.curCtx c 0
    let t := if hit then x.tlb.filter keep else x.tlb
    let l := if hit || home c then x.l2tlb.filter keep else x.l2tlb
    let w := if hit then [] else x.ptrs
    let q := if hit then x.cmds.map fun m => { m with stream := m.stream.filter keep } else x.cmds
    if t == x.tlb && l == x.l2tlb && w == x.ptrs && q == x.cmds then s else s.setCore c { x with tlb := t, l2tlb := l, ptrs := w, cmds := q }) s

/-- TLBI_PAGE (R260): pinned translations too. -/
def execTlbiPage (f : MF) (s : State) : Out :=
  s.issueAt (.tlbiPage f) 1 1 f.gd [f.a.toNat] fun s =>
    let va := eaVa (s.eaBase f)
    let sp := s.me.space
    .done (s.tlbiDrop f.sc.toNat (fun e => !e.covers sp va) fun c => c == homeSlice sp va)

/-- TLBI_ALL (R260, R306): every translation of the space that is not pinned; the home slices of its pages wherever they lie. -/
def execTlbiAll (f : MF) (s : State) : Out :=
  s.issueAt (.tlbiAll f) 1 1 f.gd [] fun s =>
    let sp := s.me.space
    .done (s.tlbiDrop f.sc.toNat (fun e => e.space != sp || e.leaf.getLsbD 4) fun _ => true)

/-! ## PWRB (R38, R39, R261) -/

/-- Granules of a bank. -/
def bankGran (k b : Nat) : Nat := k * 1024 + b * 256
def inBank (k b g : Nat) : Bool := bankGran k b ≤ g && g < bankGran k b + 256

/-- A result in flight or an outstanding load targets a bank. -/
def Core.bankBusy (x : Core) (k b : Nat) : Bool :=
  (x.landings.any fun l => l.effs.any fun e => match e with
    | .gran g _ _ _ => inBank k b g
    | .clearTag g => inBank k b g
    | _ => false) ||
  (x.ctx k).acc.any fun a => match a.kind with
    | .vload g _ _ => g < bankGran k b + 256 && bankGran k b < g + a.bits.length * a.ew / 512
    | _ => false

/-- A bank loses its bytes and tags. -/
def Core.loseBank (x : Core) (k b : Nat) : Core :=
  { x with
    space := x.space.filter fun p => !inBank k b p.1
    tags := x.tags.filter fun p => !inBank k b p.1
    bad := x.bad.filter fun g => !inBank k b g }

/-- One bank takes a state. -/
def Core.putBank (x : Core) (k b : Nat) (v : BitVec 2) : Core :=
  let x := if v = 0 then x.loseBank k b else x
  { x with bank := setBank x.bank k b v }

/-- PWRB to one of the three states. A bank that goes from off to retention holds zeros, and nothing stalls: R39 and R261 give neither its
content nor a stall (log 86). -/
def State.pwrb (s : State) (i : Instr) (f : IF) (v : BitVec 2) : Out :=
  let k := (f.x.extractLsb' 8 2).toNat
  s.issueAt i 1 (if k = s.curCtx then 0 else 1) f.gd [] fun s =>
    let bs := (List.range 4).filter fun b => f.x.getLsbD (4 + b)
    if bs.any fun b => s.myCore.bankBusy k b then .wait s
    else
      let woke := v == 3 && bs.any fun b => bankState s.myCore.bank k b == 0
      let t := s.modMy fun x => bs.foldl (fun x b => x.putBank k b v) x
      .done (if woke then t.modMe fun x => { x with stall := s.now + 20 } else t)

/-- PWRB_ON (R261). -/
def execPwrbOn (f : IF) (s : State) : Out := s.pwrb (.pwrbOn f) f 3
/-- PWRB_RET (R261). -/
def execPwrbRet (f : IF) (s : State) : Out := s.pwrb (.pwrbRet f) f 1
/-- PWRB_OFF (R261). -/
def execPwrbOff (f : IF) (s : State) : Out := s.pwrb (.pwrbOff f) f 0

end Sys2Proof.Machine
end

