-- ==== Sys2Proof/Machine/Vector.lean ====
section
/-! DEFINITION. The vector instructions on rows: elementwise arithmetic, compare and select, conversion, reductions and scans, moving
elements, random bits and SETVW (spec/05 R89-R104, R108, R118). -/

namespace Sys2Proof.Machine

/-! ## Sources -/

/-- R93: FN[7], SB: B names a scalar. -/
def scalarB (f : RF) : Bool := f.fn.getLsbD 7
/-- R93: FN[6], SAT. -/
def saturating (f : RF) : Bool := f.fn.getLsbD 6

/-- Element k of source B (R97). -/
def State.srcB (s : State) (f : RF) (w k : Nat) : Nat :=
  if scalarB f then (s.getS f.b).toNat % 2 ^ w else elem w (s.refRow (s.me.vRow f.b.toNat)) k
def State.srcRow (s : State) (n : BitVec 6) : Row := s.refRow (s.me.vRow n.toNat)
def State.srcTag (s : State) (n : BitVec 6) : Tag := s.refTag (s.me.vRow n.toNat)
def State.tagB (s : State) (f : RF) : Tag := if scalarB f then .exact else s.srcTag f.b

/-- Masked-in elements of a type of width `w`. -/
def maskedElems (w : Nat) (m : Lanes) : List Nat := (List.range (6144 / w)).filter fun k => m.getLsbD (laneOf w k)

/-- R91: M of a source, over the elements that are read. -/
def magOf (ty : Nat) (m : Lanes) (src : Nat → Nat) : Option Rat :=
  maxMag ((maskedElems (tyWidth ty) m).map fun k => srcValue ty (src k))

/-- R91: the larger of two bounds, unknown if one is. -/
def optMax (a b : Option Rat) : Option Rat := do return max (← a) (← b)

/-! ## Elementwise instructions -/

/-- Shape of an elementwise instruction: sources, types refused when bounded, latency, and the bound of the result from the
bounds and magnitudes of its sources. -/
structure Shape where
  useB : Bool
  useC : Bool
  exact : Bool
  lat : Nat
  bound : (a b c ma mb : Option Rat) → Option Rat

/-- An elementwise instruction (R97): each masked-in element computed from the elements of its sources. -/
def State.elementwise (s : State) (i : Instr) (f : RF) (h : Shape) (ty : Nat) (op : State → Nat → Nat → Nat → Nat → Nat) : Out :=
  s.issueV i f.gd (if h.useB && scalarB f then [f.b.toNat] else []) fun s m =>
    let w := tyWidth ty
    let d := s.me.vRow f.d.toNat
    let use := fun (n : BitVec 6) => if h.exact then useExact (s.me.vRow n.toNat) m else useRead (s.me.vRow n.toNat) m
    let srcs := [use f.a] ++ (if h.useB && !scalarB f then [use f.b] else []) ++ (if h.useC then [use f.c] else [])
    s.checkRows (srcs ++ [useWrite d m]) (maskPred f.gd) [] <|
      let ra := s.srcRow f.a
      let rc := if h.useC then s.srcRow f.c else 0
      let a := elem w ra
      let b := if h.useB then s.srcB f w else fun _ => 0
      let c := elem w rc
      let ta := s.srcTag f.a
      let tb := if h.useB then s.tagB f else .exact
      let tc := if h.useC then s.srcTag f.c else .exact
      let data := mapElems w m fun k => op s k (a k) (b k) (c k)
      .done (s.landRow h.lat d m data (Tag.result [ta, tb, tc] (h.bound ta.val tb.val tc.val (magOf ty m a) (magOf ty m b))))

/-- A type of F (R96). -/
def isFloatTy (ty : BitVec 4) : Bool := (fmtOf ty.toNat).isSome

/-- R97: a rounded float result, or an integer result exact, saturated or modulo 2^w. -/
def arith (f : RF) (fv : Fv → Fv → Fv → Fv) (iv : Int → Int → Int) (s : State) (k a b c : Nat) : Nat :=
  let ty := f.ty.toNat
  let w := tyWidth ty
  match fmtOf ty with
  | some fm => fm.round f.rm.toNat (fv (fm.value a) (fm.value b) (fm.value c)) (elemRandom s.rngWord w k)
  | none =>
    let r := iv (intValue ty a) (intValue ty b)
    if saturating f then wrapInt w (satTy ty r) else wrapInt w r

def boundSum (a b _c _ma _mb : Option Rat) : Option Rat := optAdd a b
def boundProd (a b _c ma mb : Option Rat) : Option Rat := optAdd (optAdd (optMul a mb) (optMul b ma)) (optMul a b)
def boundFma (a b c ma mb : Option Rat) : Option Rat := optAdd (boundProd a b c ma mb) c
def boundFirst (a _b _c _ma _mb : Option Rat) : Option Rat := a
def boundMax (a b c _ma _mb : Option Rat) : Option Rat := optMax (optMax a b) c

/-- Integer forms refuse bounded sources (R92). -/
def shape2 (f : RF) (lat : Nat) (bound : (a b c ma mb : Option Rat) → Option Rat) : Shape :=
  ⟨true, false, !isFloatTy f.ty, lat, bound⟩

/-- VADD (R96). -/
def execVadd (f : RF) (s : State) : Out :=
  s.elementwise (.vadd f) f (shape2 f 3 boundSum) f.ty.toNat (arith f (fun a b _ => Fv.add f.rm.toNat a b) fun a b => a + b)

/-- VSUB (R96). -/
def execVsub (f : RF) (s : State) : Out :=
  s.elementwise (.vsub f) f (shape2 f 3 boundSum) f.ty.toNat (arith f (fun a b _ => Fv.add f.rm.toNat a b.negate) fun a b => a - b)

/-- VMUL (R96). -/
def execVmul (f : RF) (s : State) : Out :=
  s.elementwise (.vmul f) f (shape2 f 4 boundProd) f.ty.toNat (arith f (fun a b _ => Fv.mul a b) fun a b => a * b)

/-- VFMA (R96). -/
def execVfma (f : RF) (s : State) : Out :=
  s.elementwise (.vfma f) f ⟨true, true, false, 4, boundFma⟩ f.ty.toNat
    (arith f (fun a b c => Fv.add f.rm.toNat (Fv.mul a b) c) fun a _ => a)

/-- R70, R96: the smaller or larger of two elements of a type. -/
def pickElem (ty : Nat) (big : Bool) (a b : Nat) : Nat :=
  match fmtOf ty with
  | some fm => fm.round 0 (Fv.pick big (fm.value a) (fm.value b)) 0
  | none => if (intValue ty a < intValue ty b) == big then b else a

/-- VMIN (R96). -/
def execVmin (f : RF) (s : State) : Out :=
  s.elementwise (.vmin f) f (shape2 f 3 boundMax) f.ty.toNat fun _ _ a b _ => pickElem f.ty.toNat false a b

/-- VMAX (R96). -/
def execVmax (f : RF) (s : State) : Out :=
  s.elementwise (.vmax f) f (shape2 f 3 boundMax) f.ty.toNat fun _ _ a b _ => pickElem f.ty.toNat true a b

def shape1 (f : RF) : Shape := ⟨false, false, !isFloatTy f.ty, 3, boundFirst⟩

/-- R96, R98: VABS of an element. -/
def absElem (f : RF) (a : Nat) : Nat :=
  let w := tyWidth f.ty.toNat
  if isFloatTy f.ty then a % 2 ^ (w - 1)
  else
    let r : Int := (intValue f.ty.toNat a).natAbs
    wrapInt w (if saturating f then satTy f.ty.toNat r else r)

/-- R96, R98: VNEG of an element. -/
def negElem (f : RF) (a : Nat) : Nat :=
  let w := tyWidth f.ty.toNat
  if isFloatTy f.ty then (a + 2 ^ (w - 1)) % 2 ^ w
  else
    let r : Int := -(intValue f.ty.toNat a)
    wrapInt w (if saturating f then satTy f.ty.toNat r else r)

/-- VABS (R98). -/
def execVabs (f : RF) (s : State) : Out := s.elementwise (.vabs f) f (shape1 f) f.ty.toNat fun _ _ a _ _ => absElem f a
/-- VNEG (R98). -/
def execVneg (f : RF) (s : State) : Out := s.elementwise (.vneg f) f (shape1 f) f.ty.toNat fun _ _ a _ _ => negElem f a

def shapeBits : Shape := ⟨true, false, true, 3, boundMax⟩

/-- VAND (R96): over lanes, so that a scalar B stands for every lane. -/
def execVand (f : RF) (s : State) : Out := s.elementwise (.vand f) f shapeBits 6 fun _ _ a b _ => a &&& b
/-- VOR (R96). -/
def execVor (f : RF) (s : State) : Out := s.elementwise (.vor f) f shapeBits 6 fun _ _ a b _ => a ||| b
/-- VXOR (R96). -/
def execVxor (f : RF) (s : State) : Out := s.elementwise (.vxor f) f shapeBits 6 fun _ _ a b _ => a ^^^ b

/-- VSHL (R98). -/
def execVshl (f : RF) (s : State) : Out :=
  s.elementwise (.vshl f) f shapeBits f.ty.toNat fun _ _ a b _ =>
    let w := tyWidth f.ty.toNat
    if w ≤ b then 0 else a * 2 ^ b % 2 ^ w
/-- VSHR (R98). -/
def execVshr (f : RF) (s : State) : Out :=
  s.elementwise (.vshr f) f shapeBits f.ty.toNat fun _ _ a b _ => if tyWidth f.ty.toNat ≤ b then 0 else a / 2 ^ b
/-- VSAR (R98). -/
def execVsar (f : RF) (s : State) : Out :=
  s.elementwise (.vsar f) f shapeBits f.ty.toNat fun _ _ a b _ =>
    let w := tyWidth f.ty.toNat
    wrapInt w (sInt w a / ((2 ^ min b w : Nat) : Int))

/-- VCLAMP (R99). -/
def execVclamp (f : RF) (s : State) : Out :=
  s.elementwise (.vclamp f) f ⟨true, true, !isFloatTy f.ty, 3, boundMax⟩ f.ty.toNat fun _ _ a b c =>
    pickElem f.ty.toNat false (pickElem f.ty.toNat true a b) c

/-! ## Compare and select (R99) -/

/-- VCMP (R99): its predicate lands with its mark. -/
def execVcmp (f : RF) (s : State) : Out :=
  s.issueV (.vcmp f) f.gd (if scalarB f then [f.b.toNat] else []) fun s m =>
    let srcs := [useRead (s.me.vRow f.a.toNat) m] ++ (if scalarB f then [] else [useRead (s.me.vRow f.b.toNat) m])
    s.checkRows srcs (maskPred f.gd) [] <|
      let a := elem 32 (s.srcRow f.a)
      let b := s.srcB f 32
      let cc := (f.fn.extractLsb' 0 7).toNat
      let holds := fun l => if f.ty == 10 then ccFpEval cc (fmtF32.value (a l)) (fmtF32.value (b l)) else ccIntEval cc 32 (a l) (b l)
      let data := (List.range 192).foldl (fun (p : Lanes) l => if holds l then p ||| (1 <<< l) else p) 0
      .done (s.land 3 [.pred s.curCtx f.d.toNat data m ((s.srcTag f.a).b || (s.tagB f).b)])

/-- VSEL (R99, R91): a marked select predicate makes the result bounded without a known bound. -/
def execVsel (f : RF) (s : State) : Out :=
  s.issueV (.vsel f) f.gd (if scalarB f then [f.b.toNat] else []) fun s m =>
    let d := s.me.vRow f.d.toNat
    let srcs := [useRead (s.me.vRow f.a.toNat) m] ++ (if scalarB f then [] else [useRead (s.me.vRow f.b.toNat) m])
    s.checkRows (srcs ++ [useWrite d m]) (maskPred f.gd ++ [f.c.toNat]) [] <|
      let p := s.me.rdP f.c.toNat
      let a := elem 32 (s.srcRow f.a)
      let data := mapElems 32 m fun k => if p.getLsbD k then a k else s.srcB f 32 k
      let ta := s.srcTag f.a
      let tb := s.tagB f
      .done (s.landRow 3 d m data (if s.me.mark f.c.toNat then .unknown else Tag.result [ta, tb] (optMax ta.val tb.val)))

/-! ## Conversion (R100) -/

/-- VCVT: elements that move from the source to the destination, by index and lane. -/
def cvtPairs (src dst part : Nat) : List (Nat × Nat × Nat) :=
  let ns := 6144 / tyWidth src
  let nd := 6144 / tyWidth dst
  let n := min ns nd
  (List.range n).map fun k =>
    ((if nd < ns then part * n + k else k), (if ns < nd then part * n + k else k), laneOf (6144 / n) k)

/-- Place values at elements of a row: the row and the bits it covers. -/
def putElems (w : Nat) (l : List (Nat × Nat)) : Row × Row :=
  let at' := fun (v k : Nat) => BitVec.ofNat 6144 ((v % 2 ^ w) * 2 ^ (w * k))
  (l.foldl (fun r p => r ||| at' p.2 p.1) 0, l.foldl (fun r p => r ||| at' (2 ^ w - 1) p.1) 0)

/-- VCVT (R100). -/
def execVcvt (f : RF) (s : State) : Out :=
  s.issueV (.vcvt f) f.gd [] fun s m =>
    let src := (f.fn.extractLsb' 0 4).toNat
    let dst := f.ty.toNat
    let a := s.me.vRow f.a.toNat
    let d := s.me.vRow f.d.toNat
    let pairs := (cvtPairs src dst (f.fn.extractLsb' 4 3).toNat).filter fun p => m.getLsbD p.2.2
    let from' := lanesIn (pairs.map fun p => laneOf (tyWidth src) p.1)
    let dest := lanesIn (pairs.map fun p => laneOf (tyWidth dst) p.2.1)
    s.checkRows [{ useRead a from' with exact := !isFloatTy f.ty }, useWrite d dest] (maskPred f.gd) [] <|
      let row := s.refRow a
      let wd := tyWidth dst
      let done := pairs.map fun p =>
        (p.2.1, convert src dst f.rm.toNat (elem (tyWidth src) row p.1) (elemRandom s.rngWord wd p.2.1))
      let r := putElems wd (done.map fun p => (p.1, p.2.1))
      let tag := Tag.result [s.refTag a] (s.refTag a).val
      let effs := rowEffs (s.me.rowGran s.curCtx d) r.1 r.2 tag
      .done (s.land 3 (effs ++ if done.any (·.2.2) then [.poisonVc s.curCtx] else []))

/-! ## Reductions and scans (R101, R102) -/

/-- R101: the value of a lane of a float VREDS. -/
def redsLane (ty : Nat) (r : Row) (l : Nat) : Nat :=
  if ty = 10 then elem 32 r l else rneAdd (elem 16 r (2 * l) * 65536) (elem 16 r (2 * l + 1) * 65536)

/-- Pairs of adjacent entries added. -/
def pairSum : List Nat → List Nat
  | a :: b :: t => rneAdd a b :: pairSum t
  | l => l

/-- R101: VREDS. -/
def reds (ty : Nat) (m : Lanes) (r : Row) : Nat :=
  if ty = 10 ∨ ty = 9 then
    let x := (List.range 192).map fun l => if m.getLsbD l then redsLane ty r l else 0
    match pairSum (pairSum (pairSum (pairSum (pairSum (pairSum x))))) with
    | [a, b, c] => rneAdd (rneAdd a b) c
    | _ => 0
  else ((maskedElems 32 m).foldl (fun acc l => acc + elem 32 r l) 0) % 2 ^ 32

/-- The extreme of a list of values under FMAX or FMIN, or as integers. -/
def extreme (ty : Nat) (big : Bool) : List Nat → Nat
  | [] => 0
  | v :: t => t.foldl (pickElem ty big) v

/-- R101: VREDM; a bf16 extreme is widened. -/
def redm (ty : Nat) (big : Bool) (m : Lanes) (r : Row) : Nat :=
  let w := tyWidth ty
  let l := (maskedElems w m).map (elem w r)
  let e := match l with | [v] => pickElem ty big v v | l => extreme ty big l
  if ty = 9 then e * 65536 else e

/-- A reduction: one value in every masked-in lane (R101). -/
def State.reduction (s : State) (i : Instr) (f : RF) (v : Lanes → Row → Nat) (sum : Bool) : Out :=
  s.issueV i f.gd [] fun s m =>
    let a := s.me.vRow f.a.toNat
    let d := s.me.vRow f.d.toNat
    s.checkRows [useRead a m, useWrite d m] (maskPred f.gd) [] <|
      let n := (maskedElems (tyWidth f.ty.toNat) m).length
      let t := s.refTag a
      let x := v m (s.refRow a)
      .done (s.landRow 8 d m (mapElems 32 m fun _ => x) (Tag.result [t] (if sum then optMul (some n) t.val else t.val)))

/-- VREDS (R101). -/
def execVreds (f : RF) (s : State) : Out := s.reduction (.vreds f) f (reds f.ty.toNat) true
/-- VREDM FN 0 (R101). -/
def execVredmMax (f : RF) (s : State) : Out := s.reduction (.vredmMax f) f (redm f.ty.toNat true) false
/-- VREDM FN 1 (R101). -/
def execVredmMin (f : RF) (s : State) : Out := s.reduction (.vredmMin f) f (redm f.ty.toNat false) false

/-- R102: the serial scan, lane by lane. -/
def scanFrom (ty : Nat) (inc : Bool) (m : Lanes) (r : Row) (acc : Nat) : List Nat → List Nat
  | [] => []
  | l :: rest =>
    let x := if m.getLsbD l then elem 32 r l else 0
    let acc' := if ty = 10 then rneAdd acc x else (acc + x) % 2 ^ 32
    (if m.getLsbD l then (if inc then acc' else acc) else 0) :: scanFrom ty inc m r acc' rest

def State.scan (s : State) (i : Instr) (f : RF) (inc : Bool) : Out :=
  s.issueV i f.gd [] fun s m =>
    let a := s.me.vRow f.a.toNat
    let d := s.me.vRow f.d.toNat
    s.checkRows [useRead a m, useWrite d m] (maskPred f.gd) [] <|
      let t := s.refTag a
      let data := rowOfElems 32 (scanFrom f.ty.toNat inc m (s.refRow a) 0 (List.range 192))
      .done (s.landRow 10 d m data (Tag.result [t] (optMul (some (maskedElems 32 m).length) t.val)))

/-- VSCAN FN 0 (R102). -/
def execVscanInc (f : RF) (s : State) : Out := s.scan (.vscanInc f) f true
/-- VSCAN FN 1 (R102). -/
def execVscanExc (f : RF) (s : State) : Out := s.scan (.vscanExc f) f false

/-! ## Moving elements (R103) -/

/-- R103: what the masked-in lanes of the index row of a VPERM name. -/
def State.pickedLanes (s : State) (f : RF) (m : Lanes) : List Nat := (maskedElems 32 m).map (elem 32 (s.srcRow f.b))

/-- VPERM, of one row or of two. -/
def State.permute (s : State) (i : Instr) (f : RF) (two : Bool) : Out :=
  s.issueV i f.gd [] fun s m =>
    let d := s.me.vRow f.d.toNat
    let picks := s.pickedLanes f m
    let srcs := [useRead (s.me.vRow f.a.toNat) (lanesIn picks), useExact (s.me.vRow f.b.toNat) m] ++
      if two then [useRead (s.me.vRow f.c.toNat) (lanesIn ((picks.filter (192 ≤ ·)).map (· - 192)))] else []
    s.checkRows (srcs ++ [useWrite d m]) (maskPred f.gd) [] <|
      let ra := s.srcRow f.a
      let rb := s.srcRow f.b
      let rc := if two then s.srcRow f.c else 0
      let data := mapElems 32 m fun l =>
        let j := elem 32 rb l
        if j < 192 then elem 32 ra j else if two && j < 384 then elem 32 rc (j - 192) else 0
      let ta := s.srcTag f.a
      let tc := if two then s.srcTag f.c else .exact
      .done (s.landRow 4 d m data (Tag.result [ta, tc] (optMax ta.val tc.val)))

/-- VPERM FN 0 (R103). -/
def execVperm (f : RF) (s : State) : Out := s.permute (.vperm f) f false
/-- VPERM FN 1 (R103). -/
def execVpermTwo (f : RF) (s : State) : Out := s.permute (.vpermTwo f) f true

/-- A row made of scalars alone. -/
def State.rowFrom (s : State) (i : Instr) (f : RF) (regs : List Nat) (lat w : Nat) (v : State → Nat → Nat) : Out :=
  s.issueV i f.gd regs fun s m =>
    let d := s.me.vRow f.d.toNat
    s.checkRows [useWrite d m] (maskPred f.gd) [] <| .done (s.landRow lat d m (mapElems w m (v s)) .exact)

/-- VBCAST FN 0 (R103). -/
def execVbcast (f : RF) (s : State) : Out :=
  s.rowFrom (.vbcast f) f [f.a.toNat] 3 (tyWidth f.ty.toNat) fun s _ => (s.getS f.a).toNat

/-- VBCAST FN 1 (R103). -/
def execVbcastElement (f : RF) (s : State) : Out :=
  s.issueV (.vbcastElement f) f.gd [f.b.toNat] fun s m =>
    let w := tyWidth f.ty.toNat
    let a := s.me.vRow f.a.toNat
    let d := s.me.vRow f.d.toNat
    let j := (s.getS f.b).toNat
    s.checkRows [useRead a (lanesIn [laneOf w j]), useWrite d m] (maskPred f.gd) [] <|
      let v := if j < 6144 / w then elem w (s.refRow a) j else 0
      .done (s.landRow 3 d m (mapElems w m fun _ => v) (Tag.result [s.refTag a] (s.refTag a).val))

/-- VINS (R103). -/
def execVins (f : RF) (s : State) : Out :=
  s.issueV (.vins f) f.gd [f.a.toNat, f.b.toNat] fun s m =>
    let w := tyWidth f.ty.toNat
    let d := s.me.vRow f.d.toNat
    let j := (s.getS f.b).toNat
    s.checkRows [useWrite d (lanesIn [laneOf w j] &&& m)] (maskPred f.gd) [] <|
      if j < 6144 / w && m.getLsbD (laneOf w j) then
        let r := putElems w [(j, (s.getS f.a).toNat)]
        .done (s.land 3 (rowEffs (s.me.rowGran s.curCtx d) r.1 r.2 .exact))
      else .done s

/-- VEXT (R103): a scalar result, guarded as one, interlocked. -/
def execVext (f : RF) (s : State) : Out :=
  s.issue (.vext f) f.gd [f.b.toNat] fun s =>
    let ty := f.ty.toNat
    let w := tyWidth ty
    let a := s.me.vRow f.a.toNat
    let j := (s.getS f.b).toNat
    s.checkRows [useExact a (lanesIn [laneOf w j])] [] [] <|
      let v := if j < 6144 / w then elem w (s.refRow a) j else 0
      .done (s.putS f.d.toNat (extend (ty < 4) w (BitVec.ofNat 64 v)) 3)

/-- VIOTA (R103). -/
def execViota (f : RF) (s : State) : Out :=
  s.rowFrom (.viota f) f [f.a.toNat] 3 (tyWidth f.ty.toNat) fun s k => (s.getS f.a).toNat + k

/-! ## Random bits (R104) and views (R108) -/

/-- VRNG (R104). -/
def execVrng (f : RF) (s : State) : Out := s.rowFrom (.vrng f) f [] 3 32 fun s l => (rotl32 s.rngWord l).toNat

/-- VKRNG (R104). -/
def execVkrng (f : RF) (s : State) : Out :=
  s.rowFrom (.vkrng f) f [f.a.toNat, f.b.toNat] 4 32 fun s l => (kmix (s.getS f.a) (s.getS f.b + BitVec.ofNat 64 l)).toNat

/-- SETVW: the view word of a base and a stride, checked. -/
def State.setView (s : State) (i : Instr) (f : RF) (put : Ctx → Word → Ctx) : Out :=
  s.issue i f.gd [f.a.toNat, f.b.toNat] fun s =>
    let base := s.getS f.a
    let stride := s.getS f.b
    -- check 9 of R30 comes before the limit, a cause of the instruction's own (log 72)
    if base.extractLsb' 0 6 != 0 then .trap 0x08 base
    else if stride.extractLsb' 0 6 != 0 then .trap 0x08 stride
    else if 65535 < base.toNat then .trap 0x07 base
    else if 65535 < stride.toNat then .trap 0x07 stride
    else .done (s.modMe fun x => put x (stride <<< 32 ||| base))

/-- SETVW.v (R108). -/
def execSetvwV (f : RF) (s : State) : Out := s.setView (.setvwV f) f fun x v => { x with viewV := v }
/-- SETVW.t (R108). -/
def execSetvwT (f : RF) (s : State) : Out := s.setView (.setvwT f) f fun x v => { x with viewT := v }

end Sys2Proof.Machine
end

