-- ==== Sys2Proof/Machine/Accum.lean ====
section
/-! DEFINITION. Accumulator rows and admission (spec/05 R109-R112). -/

namespace Sys2Proof.Machine

/-- R109: the row U(s[A]) + c. -/
def State.accIndex (s : State) (f : RF) : Nat := (s.getS f.a).toNat + f.c.toNat

/-- AMOV (R110). -/
def execAmov (f : RF) (s : State) : Out :=
  s.issueV (.amov f) f.gd [f.a.toNat] fun s m =>
    let a := RowRef.acc (s.accIndex f)
    let d := s.me.vRow f.d.toNat
    s.checkRows [{ useRead a m with poison := true }, useWrite d m] (maskPred f.gd) [] <|
      .done (s.landRow 5 d m (s.refRow a) (s.refTag a))

/-- ACLR (R111): row j reads cleared from issue + 3 + j / 16. -/
def execAclr (f : RF) (s : State) : Out :=
  s.issueV (.aclr f) f.gd [f.a.toNat, f.b.toNat] fun s m =>
    let n := (s.getS f.b).toNat
    let first := s.accIndex f
    let run := List.range (min n 1025)
    s.checkRows (run.map fun j => useWrite (.acc (first + j)) m) (maskPred f.gd) [] <|
      .done (run.foldl (fun t j =>
        let row := s.me.accRow (first + j)
        t.land (3 + j / 16) (rowEffs (accGran row) 0 (laneBits m) .exact ++ if m = allLanes then [.sideSet row 0] else [])) s)

/-- ALDV FN 0 (R110). -/
def execAldv (f : RF) (s : State) : Out :=
  s.issueV (.aldv f) f.gd [f.a.toNat] fun s m =>
    let a := s.accIndex f
    let b := s.me.vRow f.b.toNat
    s.checkRows [useRead b m, useWrite (.acc a) m] (maskPred f.gd) [] <|
      let row := s.me.accRow a
      let t := s.refTag b
      .done (s.land 5 (rowEffs (accGran row) (s.refRow b) (laneBits m) .exact ++
        [if m = allLanes then .sideSet row (mkSide t false) else .sideOr row t]))

/-- ALDV FN 1 (R110): one rounding a lane; the row's old tag is the one at issue, as its old values are (log 72). -/
def execAldvAdd (f : RF) (s : State) : Out :=
  s.issueV (.aldvAdd f) f.gd [f.a.toNat] fun s m =>
    let a := RowRef.acc (s.accIndex f)
    let b := s.me.vRow f.b.toNat
    s.checkRows [useRead b m, { useRead a m with write := true }] (maskPred f.gd) [] <|
      let row := s.me.accRow (s.accIndex f)
      let e := s.refRow a
      let v := s.refRow b
      let data := mapElems 32 m fun l =>
        fmtF32.round f.rm.toNat (Fv.add f.rm.toNat (fmtF32.value (elem 32 e l)) (fmtF32.value (elem 32 v l))) (elemRandom s.rngWord 32 l)
      let ta := s.refTag a
      let tb := s.refTag b
      .done (s.land 5 (rowEffs (accGran row) data (laneBits m) .exact ++
        [.sideTag row (Tag.result [ta, tb] (optAdd ta.val tb.val))]))

/-- R112: the test of a tag against a threshold. -/
def admits (t : Tag) (thr : Word) : Bool :=
  let c := (thr.extractLsb' 0 16).toNat
  !t.b || (c < 0x8000 && c ≤ 0x7F80 && t.bound.toNat ≤ c)

/-- ADMIT FN 0 (R112): an accumulator row. -/
def execAdmitRow (f : RF) (s : State) : Out :=
  s.issue (.admitRow f) f.gd [f.a.toNat, f.b.toNat] fun s =>
    let a := RowRef.acc (s.accIndex f)
    s.checkRows [{ useRead a allLanes with write := true }] [] [] <|
      let t := s.refTag a
      let ok := admits t (s.getS f.b)
      .done (s.land 3 ([.pred s.curCtx f.d.toNat (lanesOf ok) allLanes false] ++
        if ok && t.b then [.sideTag (s.me.accRow (s.accIndex f)) .exact] else []))

/-- ADMIT FN 1 (R112): the granules of a view. -/
def execAdmitView (f : RF) (s : State) : Out :=
  s.issue (.admitView f) f.gd [f.b.toNat] fun s =>
    let a := s.me.vRow f.a.toNat
    s.checkRows [useRead a allLanes] [] [] <|
      let t := s.refTag a
      let ok := admits t (s.getS f.b)
      let g := s.me.rowGran s.curCtx a
      .done (s.land 3 ([.pred s.curCtx f.d.toNat (lanesOf ok) allLanes false] ++
        if ok && t.b then (List.range 12).map fun i => .clearTag (g + i) else []))

end Sys2Proof.Machine
end

