-- ==== Sys2Proof/Machine/Engine.lean ====
section
/-! DEFINITION. Engine commands: how engines reach memory, queues, slots, handles and status words, footprints, the event crossbar,
and the copy, gather and collective commands (spec/11 R185-R186, spec/12 R196-R200, spec/14 R226-R244, spec/08 R138-R139, R146-R147,
spec/22 R341). A command's reads and writes happen when it completes (log 18). -/

namespace Sys2Proof.Machine

/-! ## Memory as an engine reaches it -/

/-- What an engine finds at a virtual address (R227, R229, R245, R304, R309). -/
inductive Reach where
  | ok (pa : Nat) (a : Attr) (hold : Nat)
  | miss
  /-- the leaf is in transit -/
  | wait
  | refused
  deriving DecidableEq, Repr

def State.reach (s : State) (space va : Nat) (write : Bool) : Reach :=
  if 2 ^ 52 ≤ va then .refused
  else match s.homeAnswer space va with
  | .hit e =>
    let pa := e.pa va
    let a := e.attr
    let hold := if a.d then (e.leaf.extractLsb' 8 8).toNat else 0
    if !s.inDomain (modOf pa) || !placeOk pa write || (write && !copiesOk pa hold 0 true) || s.markedByte pa || (if write then !a.w else !a.r) then .refused
    else .ok pa a (if a.d then (e.leaf.extractLsb' 8 8).toNat else 0)
  | .miss => .miss
  | .transit => .wait
  | .malformed => .refused

/-- What stands in the way of reaching ranges: a missing translation with its direction, or a leaf in transit. -/
inductive Miss where
  | none
  /-- a refused page comes first: the command ends there with its status and reaches nothing behind it -/
  | refused
  | transit
  | at (va : Nat) (write : Bool)
  deriving DecidableEq, Repr

/-- What reaching one place finds missing. -/
def Reach.stop (r : Reach) (va : Nat) (write : Bool) : Miss :=
  match r with
  | .miss => .at va write
  | .wait => .transit
  | _ => .none

/-- First addresses of 64 KiB pages, each once. -/
def addPages (l m : List Nat) : List Nat := m.foldl (fun l a => if l.contains (a / 0x10000 * 0x10000) then l else l ++ [a / 0x10000 * 0x10000]) l

/-- Bytes an engine has read, the status that reading them gives (0 for none), whether a page of them carries A, the missing translation
behind a status 2, and the pages it has asked for. -/
structure Got where
  bytes : List Byte
  bad : Nat
  a : Bool
  miss : Miss
  asked : List Nat
  deriving DecidableEq, Repr

def Got.nil : Got := ⟨[], 0, false, .none, []⟩
/-- A place that gives a status. -/
def Got.fail (bs : List Byte) (st : Nat) (miss : Miss) (va : Nat) : Got := ⟨bs, st, false, miss, [va]⟩
/-- What lies behind a failure is not reached. -/
def Got.join (g h : Got) : Got :=
  if g.bad != 0 then { g with bytes := g.bytes ++ h.bytes, a := g.a || h.a }
  else ⟨g.bytes ++ h.bytes, h.bad, g.a || h.a, h.miss, addPages g.asked h.asked⟩

/-- Bytes at a physical address. -/
def State.gotAt (s : State) (c pa n hold : Nat) (a : Bool) : Got :=
  let pr := readAt pa hold (dieOf c)
  { bytes := s.seen pr n
    bad := if !placeOk pr false then 2 else if s.koyth.unreachable.contains (modOf pa) then 9 else if s.anyPoison pr n || s.retiredByte pr then 3 else 0
    a := a
    miss := .none
    asked := [] }

/-- Bytes at a virtual address, within one page. -/
def State.engRead (s : State) (c space va n : Nat) : Got :=
  match s.reach space va false with
  | .ok pa a h => { s.gotAt c pa n h a.a with asked := [va] }
  | r => .fail (List.replicate n 0) 2 (r.stop va false) va

/-- `k` pieces of 32 bytes from a virtual address on. -/
def State.engReads (s : State) (c space va : Nat) : Nat → Got
  | 0 => Got.nil
  | k + 1 => (s.engRead c space va 32).join (s.engReads c space (va + 32) k)

/-- First addresses, page by page, of a range. -/
def pagesIn (va n : Nat) : List Nat :=
  (List.range ((va + n - 1) / 0x10000 - va / 0x10000 + 1)).map fun i => if i = 0 then va else (va / 0x10000 + i) * 0x10000

/-- R168: the core whose slice a command of a tile step may write in: a page that had no translation at its issue and lies outside is
refused when the command reaches it (log 77). -/
def Cmd.bound (m : Cmd) (c : Nat) : Option Nat := if m.step then some c else none

def State.firstMiss (s : State) (space : Nat) (l : List (Nat × Nat × Bool)) : Miss :=
  ((l.flatMap fun r => (pagesIn r.1 (max r.2.1 1)).map fun va => (va, r.2.2)).foldl (fun m p =>
    match m with
    | .none => match s.reach space p.1 p.2 with | .miss => .at p.1 p.2 | .wait => .transit | .refused => .refused | .ok _ _ _ => .none
    | m => m) Miss.none)

/-- R302, R303: the home slices keep what an engine's queries have found: for the pages it has reached, and for the next one of its
ranges, in the order in which it reaches them, which it has prefetched. -/
def State.learnAll (s : State) (space : Nat) (asked : List Nat) (l : List (Nat × Nat × Bool)) : State :=
  let ps := l.flatMap fun r => pagesIn r.1 (max r.2.1 1)
  (asked ++ (ps.filter fun a => !asked.contains (a / 0x10000 * 0x10000)).take 1).foldl (fun s va => s.learn space va) s

/-- The machine as a running command sees it: the entries of its stream TLB answer before the home slice does (R301, R305). -/
def State.through (s : State) (m : Cmd) : State :=
  m.stream.foldl (fun s e => s.modCore (homeSlice m.space e.va) fun x => { x with l2tlb := e :: x.l2tlb }) s

/-- R302: the first address after the page of `va`, which a prefetch asks for. -/
def State.nextPage (s : State) (space va : Nat) : Nat :=
  match s.homeAnswer space va with
  | .hit e => e.va + e.bytes
  | _ => (va / 0x10000 + 1) * 0x10000

/-- R301-R303: after a command has reached ranges, the home slices keep what its stream TLB has asked them, the page after the last
one included where the command will reach it, in one of the ranges of `whole`, and the stream TLB holds the last page and the one after
it; a prefetch that finds nothing leaves nothing. -/
def State.keepStream (s : State) (c : Nat) (m : Cmd) (l whole : List (Nat × Nat × Bool)) : State :=
  let v := s.through m
  let ps := l.flatMap fun r => pagesIn r.1 (max r.2.1 1)
  match ps.getLast? with
  | none => s
  | some va =>
    let next := v.nextPage m.space va
    let two := va :: (if whole.any fun r => r.1 ≤ next && next < r.1 + r.2.1 then [next] else [])
    let es := (two.filterMap fun a => match v.homeAnswer m.space a with | .hit e => some e | _ => none).eraseDups
    let s := ((ps ++ two).filter fun a => m.stream.all fun e => !e.covers m.space a).foldl (fun s a => s.learn m.space a) s
    s.modCore c fun x => { x with cmds := x.cmds.map fun o => if o.id == m.id then { o with stream := es } else o }

/-- Nothing missing stands in the way. -/
def Miss.clear : Miss → Bool
  | .none | .refused => true
  | _ => false

/-- A command in progress: the state, the status it stops with (0 while it goes on), destination bytes written, poison gathered; the missing
translation behind a status 2, the pages it has asked for, and the core that bounds its writes. -/
structure Prog where
  s : State
  st : Nat
  cnt : Nat
  poison : Bool
  miss : Miss
  asked : List Nat
  own : Option Nat
  deriving Repr

def Prog.start (s : State) (own : Option Nat := none) : Prog := ⟨s, 0, 0, false, .none, [], own⟩
/-- Go on unless stopped. -/
def Prog.then (r : Prog) (f : Prog → Prog) : Prog := if r.st != 0 then r else f r
def Prog.check (r : Prog) (bad : Nat) : Prog := if r.st != 0 then r else { r with st := bad }
/-- What a read or a judged write has found. -/
def Prog.took (r : Prog) (g : Got) : Prog :=
  if r.st != 0 then r else { r with st := g.bad, miss := g.miss, asked := addPages r.asked g.asked }

/-- What a write would find, as a read of no bytes: status 2 refused, 5 data from an A page bound for a page without A, 9 lost route, 3
retired macro. -/
def State.writeGot (s : State) (own : Option Nat) (space va : Nat) (needA : Bool) : Got :=
  match s.reach space va true with
  | .ok pa a _ => .fail [] (if (match own with | some c => !s.ownSlice c pa | none => false) then 2
      else if needA && !a.a then 5 else if s.koyth.unreachable.contains (modOf pa) then 9 else if s.retiredByte pa then 3 else 0) .none va
  | r => .fail [] 2 (r.stop va true) va
/-- Status of a write that nothing bounds. -/
def State.writeStatus (s : State) (space va : Nat) (needA : Bool) : Nat := (s.writeGot none space va needA).bad

/-- A plain-form engine write within one page; `clean` lifts the poison of a line written whole (R382). -/
def State.engWrite (s : State) (space va : Nat) (bs : List Byte) (clean : Bool) : State :=
  match s.reach space va true with
  | .ok pa _ h =>
    let t := s.storeD none pa h bs none
    if clean && bs.length == 64 && pa % 64 == 0 then t.cleanLine (pa / 64) else t
  | _ => s

def Prog.put (r : Prog) (space va : Nat) (bs : List Byte) (needA clean : Bool) : Prog :=
  (r.took (r.s.writeGot r.own space va needA)).then fun r => { r with s := r.s.engWrite space va bs clean, cnt := r.cnt + bs.length }

/-! ## Slots, handles, status words (R228, R229) -/

/-- Engine numbers of R228 and their slot counts. -/
def engSlots (e : Nat) : Nat := if e = 0 then 64 else if e = 1 then 32 else 8
def Core.slot (x : Core) (e n : Nat) : Slot := Tab.get (fun _ => Slot.init) x.slots (64 * e + n)
def Core.setSlot (x : Core) (e n : Nat) (v : Slot) : Core := { x with slots := Tab.set (fun _ => Slot.init) x.slots (64 * e + n) v }
def Core.freeSlots (x : Core) (e : Nat) : List Nat := (List.range (engSlots e)).filter fun n => !(x.slot e n).used

def mkHandle (c e : Nat) (gen : BitVec 26) (n : Nat) : Word := BitVec.ofNat 64 (c * 2 ^ 34 + e * 2 ^ 32 + gen.toNat * 64 + n)
def statusWord (st cnt : Nat) : Word := BitVec.ofNat 64 (2 ^ 63 + st * 2 ^ 48 + cnt % 2 ^ 40)
def statusDone (w : Word) : Bool := w.getLsbD 63
/-- R228, R229: DONE with STATUS 0xFF. -/
def statusRetired : Word := 0x80FF000000000000

/-- Engine number of R228; the crossbar, matrix and tile queues have none. -/
def Engine.num : Engine → Option Nat
  | .copy | .unit => some 0
  | .gather => some 1
  | .coll => some 2
  | _ => none

/-- Take the slot `n` for a command: its generation rises, its status word is clear. -/
def Core.takeSlot (x : Core) (e n : Nat) (tid : Option Nat) : Core :=
  x.setSlot e n { gen := (x.slot e n).gen + 1, status := 0, used := true, tid := tid }

/-! ## Footprints (R185, R241) -/

/-- The parts of a virtual range that lie in the slice of a core: an interval for each page, since pages of an operand may lie apart in the
slice, where R185 does not say whether its interval runs over virtual addresses or over the slice (log 86). -/
def State.rangeParts (s : State) (c space va n : Nat) (write : Bool) : List Part :=
  (pagesIn va n).filterMap fun a =>
    let last := min (va + n) ((a / 0x10000 + 1) * 0x10000)
    match s.reach space a write with
    | .ok pa _ _ => if s.ownSlice c pa then some ⟨false, sliceOff pa, sliceOff pa + (last - a) - 1, write⟩ else none
    | _ => none

/-- From an address to the end of the slice that holds it (R241). -/
def State.tailParts (s : State) (c space va : Nat) (write : Bool) : List Part :=
  match s.reach space va write with
  | .ok pa _ _ => if s.ownSlice c pa then [⟨false, sliceOff pa, 0x3FFFFF, write⟩] else []
  | _ => []

/-- Bounding box of rows under a layout word, relative to the base, in bytes: first and one past the last. -/
def Lay.box (l : Lay) (rows : Nat) : Nat × Nat :=
  (List.range rows).foldl (fun p r => (List.range l.n).foldl (fun p k =>
    (min p.1 (l.at r k / 8), max p.2 (l.at r k / 8 + max 1 (l.e / 8)))) p) (l.at 0 0 / 8, 0)

/-- Parts of a layout operand. -/
def State.layParts (s : State) (c space va : Nat) (l : Lay) (rows : Nat) (write : Bool) : List Part :=
  s.rangeParts c space (va + (l.box rows).1) ((l.box rows).2 - (l.box rows).1) write

/-! ## Queues (R186, R196) -/

def EF.src (f : EF) : Nat := (f.r.fn.extractLsb' 0 4).toNat
def EF.dst (f : EF) : Nat := f.r.ty.toNat
def EF.word (i : Instr) : Word := match encode i with | some [_, w] => w | _ => 0
/-- The word-1 fields of an engine command. -/
def Instr.ef (i : Instr) : Option EF := match i.bundle with | some (_, .e f) => some f | _ => none
def Cmd.aq (m : Cmd) : Bool := match Instr.ef m.ins with | some f => f.aq | none => false
def Cmd.rl (m : Cmd) : Bool := match Instr.ef m.ins with | some f => f.rl | none => false

/-- The command as its context issues it, before its operands are set. -/
def State.newCmd (s : State) (i : Instr) (f : EF) (e : Engine) (parts : List Part) : Cmd :=
  { id := s.myCore.nextCmd, ctx := s.curCtx, ins := i, vd := s.getS f.r.d, va := s.getS f.r.a, vb := s.getS f.r.b, vc := s.getS f.r.c,
    lsrc := s.getS (f.eng.extractLsb' 34 6), ldst := s.getS (f.eng.extractLsb' 28 6), engine := e, parts := parts, slot := none,
    handle := 0, blk := [], crec := 0, pc := s.me.pc, space := s.me.space, lid := s.me.lid,
    tid := s.me.tid, dbg := s.me.dbgLayout.getLsbD 0, gbase := grantBase s.me.grant,
    st := if f.ev then .armed f.term.toNat else .queued, due := none, prog := 0, reg := 0, mac := [], arrived := 0, stream := [], product := Product.init, rows := [], late := [], skip := 0,
    stopAt := none, retire := none, fail := none, cancel := false, poison := false, seq := 0, step := s.me.inStep }

/-- Put a command at the end of its core's queues. -/
def Core.enqueue (x : Core) (m : Cmd) : Core := { x with cmds := x.cmds ++ [{ m with id := x.nextCmd }], nextCmd := x.nextCmd + 1 }

/-- The unit outside the core that serves a command of the copy engine's slots (R355). -/
def servedBy (i : Instr) : Nat :=
  match i with
  | .pcfg _ => 1
  | .rjsend _ => 2
  | .strd _ => 3
  | .mdec _ => 4
  | .mrsz _ => 5
  | _ => 0
def CmdSt.missed? (t : CmdSt) : Bool := match t with | .missed _ _ => true | _ => false
/-- R227, R355: another command of its engine or unit, held on a missing translation, holds the command. -/
def Core.held (x : Core) (m : Cmd) : Bool :=
  x.cmds.any fun o => o.id != m.id && o.st.missed? && o.engine == m.engine && servedBy o.ins == servedBy m.ins

def Core.findCmd (x : Core) (q : Nat) : Option Cmd := x.cmds.find? fun m => m.id == q
def Core.modCmd (x : Core) (q : Nat) (f : Cmd → Cmd) : Core := { x with cmds := x.cmds.map fun m => if m.id == q then f m else m }

/-- A fault record of a die, not yet placed (R284). -/
def State.addFault (s : State) (d : Nat) (r : FaultRec) : State :=
  s.setDie d { s.die d with waiting := (s.die d).waiting ++ [r] }

/-- R304: the requester of an engine's queries: all tiles are one. -/
def Engine.requester (e : Engine) : Engine := match e with | .tile _ => .tile 0 | e => e
/-- R304: another command of the same requester waits for the answer to its miss. -/
def Core.asking (x : Core) (m : Cmd) : Bool :=
  x.cmds.any fun o => o.st.missed? && o.engine.requester == m.engine.requester && servedBy o.ins == servedBy m.ins

/-- Record that a command is held on a missing translation (R282, R284); it waits while its requester has another such miss. -/
def State.missCmd (s : State) (c : Nat) (m : Cmd) (va : Nat) (write : Bool) : State :=
  if (s.core c).asking m then s
  else
  let s := s.modCore c fun x => x.modCmd m.id fun m => { m with st := .missed (BitVec.ofNat 64 va) write }
  s.addFault (dieOf c)
    { ref := m.id, kind := 2, acc := if write then 7 else 6, ea := BitVec.ofNat 64 va, pc := if m.handle != 0 then m.handle else m.pc,
      idx := 0, core := c, ctx := m.ctx }

/-- R244: an event term that a command names. -/
def Core.term (x : Core) (t : Nat) : EvTerm := Tab.get (fun _ => ⟨0, false⟩) x.evterm t
def Core.setTerm (x : Core) (t : Nat) (v : EvTerm) : Core := { x with evterm := Tab.set (fun _ => ⟨0, false⟩) x.evterm t v }
def Core.cnt (x : Core) (n : Nat) : EvCnt := Tab.get (fun _ => ⟨0, 0, 0, false⟩) x.evcnt n
def Core.setCnt (x : Core) (n : Nat) (v : EvCnt) : Core := { x with evcnt := Tab.set (fun _ => ⟨0, 0, 0, false⟩) x.evcnt n v }

/-- An engine command has issued: the spin detector sees it (R203). -/
def Issue.noted : Issue → Issue
  | .done t => .done t.noteStore
  | r => r

/-- R192, R416: what holds a command with RL is told at its issue. -/
def State.issueEngine (s : State) (i : Instr) (f : EF) (lvl : Nat) (regs : List Nat) (body : State → Issue) : Out :=
  s.issueAt i 2 lvl f.r.gd regs fun s => (body s).noted

/-- R244: EV = 1 on an unconfigured term. -/
def State.evCheck (s : State) (f : EF) (ok : Issue) : Issue :=
  if f.ev && (s.myCore.term f.term.toNat).masks == 0 then .trap 0x14 (f.term.setWidth 64) else ok

/-- The task whose handle a save records: that of a CPY, GATH, SCAD or COLL (R265). -/
def Cmd.owner (m : Cmd) : Option Nat := match m.engine with | .copy | .gather | .coll => some m.tid | _ => none

/-- A command that takes a slot of engine `e` and returns a handle in D. -/
def State.enterSlot (s : State) (f : EF) (e : Nat) (m : Cmd) : Issue :=
  s.evCheck f <| s.checkDiscard f.rl <|
  match s.myCore.freeSlots e with
  | [] => .wait s
  | n :: _ =>
    let h := mkHandle s.curCore e ((s.myCore.slot e n).gen + 1) n
    let t := s.modMy fun x => (x.takeSlot e n m.owner).enqueue { m with slot := some n, handle := h }
    .done (t.putS f.r.d.toNat h 1)

/-- R227: an address operand must have neither high byte nor alias code. -/
def eaPlain (ea : Word) : Bool := !eaTop ea && eaAlias ea == 0
def eaAligned (ea : Word) : Bool := ea.extractLsb' 0 6 == 0

/-- R227, in the order of R30: alignment of the addresses, then a limit, then high byte or alias; `none` where all hold. -/
def addrBad (l : List Word) (limit : Option Word) : Option (Nat × Word) :=
  match l.find? fun a => !eaAligned a with
  | some a => some (0x08, a)
  | none =>
    match limit with
    | some w => some (0x0D, w)
    | none => (l.find? fun a => !eaPlain a).map fun a => (0x0E, a)

/-- A trap, or go on. -/
def orTrap (t : Option (Nat × Word)) (ok : Issue) : Issue :=
  match t with
  | some (c, w) => .trap c w
  | none => ok

def addrChecks (l : List Word) (limit : Bool) (info : Word) (ok : Issue) : Issue :=
  orTrap (addrBad l (if limit then none else some info)) ok

/-- R168: inside a tile step a command writes within the own slice only, as far as its pages translate. -/
def State.stepWrites (s : State) (l : List (Word × Nat)) (ok : Issue) : Issue :=
  if !s.me.inStep then ok
  else match l.find? fun p => (pagesIn (eaVa p.1) p.2).any fun a =>
      match s.reach s.me.space a true with | .ok pa _ _ => !s.ownSlice s.curCore pa | _ => false with
  | some p => .trap 0x15 p.1
  | none => ok

/-- R177: the first byte of a layout operand, row by row, that lies outside the slice of its base, as far as its pages have a
leaf; on a page that has none yet it is refused when it is reached (`layReach`). -/
def State.layOutside (s : State) (c space base : Nat) (l : Lay) (rows : Nat) : Option Nat :=
  let out := (pagesIn (base + (l.box rows).1) ((l.box rows).2 - (l.box rows).1)).filter fun a =>
    match s.homeAnswer space a with | .hit e => !s.ownSlice c (e.pa a) | _ => false
  if out.isEmpty then none
  else (List.range rows).findSome? fun r => (List.range l.n).findSome? fun k =>
    let va := base + l.at r k / 8
    if out.any fun a => a / 0x10000 == va / 0x10000 then some va else none

/-- R231, R180, R177: a layout operand: its word, then a base in a slice of this module. -/
def State.layOk (s : State) (base w : Word) (write : Bool) (rows : Nat) (ok : Issue) : Issue :=
  match s.look s.curCore s.curCtx base with
  | .wait => .wait (s.modMe (·.ask base))
  | .miss => .park (if write then 7 else 6) base
  | .malformed => .trap 0x0E base
  | .ok pa _ =>
    match targetOf pa with
    | .slice c _ =>
      if modOf pa != s.koyth.modId then .trap 0x0E base
      else match s.layOutside c s.me.space (eaVa base) (layOf w) rows with
      | some va => .trap 0x0E (BitVec.ofNat 64 va)
      | none => ok
    | _ => .trap 0x0E base

/-! ## CPY (R231-R233) -/

/-- R232: the conversions of CPY. -/
def cpyTypes (src dst : Nat) : Bool := [10, 9, 8].contains src && [10, 9, 8, 11, 12].contains dst && src != dst

/-- Elements of bytes. -/
def elemsOf (w : Nat) (bs : List Byte) : List Nat := (List.range (8 * bs.length / w)).map fun i => leNat ((bs.drop (i * (w / 8))).take (w / 8))
/-- R138: bytes converted element by element, and whether poison was recorded. -/
def convBytes (src dst rm : Nat) (bs : List Byte) : List Byte × Bool :=
  if src = 0 ∧ dst = 0 then (bs, false)
  else
    let l := (elemsOf (tyWidth src) bs).map fun n => convert src dst rm n 0
    (l.flatMap fun p => leBytes (tyWidth dst / 8) p.1, l.any (·.2))

/-- Source bytes per 64 bytes of destination. -/
def srcStride (src dst : Nat) : Nat := if src = 0 ∧ dst = 0 then 64 else 64 * tyWidth src / tyWidth dst
def EF.dstBytes (f : EF) (n : Nat) : Nat := n * 64 / srcStride (Machine.EF.src f) (Machine.EF.dst f)

/-- Overlapping destination bytes are undefined (R231): free bytes of one index. -/
def freeBytes (t base n : Nat) : List Byte := (List.range n).map fun i => Config.byte t (base + i)

/-- Source bytes of a copy; a retire copy reads its core's slice by offset (R168), refused in a marked macro (R245). -/
def State.cpySource (s : State) (c : Nat) (m : Cmd) (o pieces : Nat) : Got :=
  match m.retire with
  | some _ =>
    if 0x400000 < m.va.toNat + o + 32 * pieces || s.markedByte (s.sliceBase c + m.va.toNat + o) then { Got.nil with bytes := List.replicate (32 * pieces) 0, bad := 2 }
    else s.gotAt c (s.sliceBase c + m.va.toNat + o) (32 * pieces) 0 false
  | none => s.engReads c m.space (m.va.toNat + o) pieces

/-- Physical line of a source byte. -/
def State.cpyLine (s : State) (c : Nat) (m : Cmd) (o : Nat) : Option Nat :=
  match m.retire with
  | some _ => some ((s.sliceBase c + m.va.toNat + o) / 64)
  | none => match s.reach m.space (m.va.toNat + o) false with | .ok pa _ _ => some (pa / 64) | _ => none

/-- SUB 0 without layout words, granule by granule of the destination. -/
def State.runCopy (s0 : State) (c : Nat) (m : Cmd) (f : EF) : Prog :=
  let (t, s) := s0.next
  let src := Machine.EF.src f
  let dst := Machine.EF.dst f
  let sp := srcStride src dst
  let n := m.vc.toNat
  let gs := List.range (n / sp)
  let lines := (List.range (n / 64)).map fun i => s.cpyLine c m (64 * i)
  let anyA := gs.any fun i => (s.cpySource c m (i * sp) (sp / 32)).a
  gs.foldl (fun r i => r.then fun r =>
    let g := s.cpySource c m (i * sp) (sp / 32)
    let va := m.vb.toNat + 64 * i
    let (bs, p) := convBytes src dst f.r.rm.toNat g.bytes
    let ovl := match s.reach m.space va true with | .ok pa _ _ => lines.contains (some (pa / 64)) | _ => false
    let r := (r.took g).put m.space va (if ovl then freeBytes t (64 * i) 64 else bs) anyA true
    { r with poison := r.poison || (p && r.st == 0) }) (Prog.start s (m.bound c))

/-- SUB 1. -/
def State.runFill (s : State) (c : Nat) (m : Cmd) : Prog :=
  (List.range (m.vc.toNat / 64)).foldl (fun r i =>
    r.put m.space (m.vb.toNat + 64 * i) ((List.range 8).flatMap fun _ => leBytes 8 m.va.toNat) false true) (Prog.start s (m.bound c))

/-- The bytes of a row value. -/
def rowBytes (r : Row) : List Byte := leBytes 768 r.toNat
def bytesRow (bs : List Byte) : Row := BitVec.ofNat 6144 (leNat bs)

/-- Write an accumulator row and its side word. -/
def Core.putAcc (x : Core) (row : Nat) (r : Row) (side : BitVec 32) : Core :=
  ((List.range 12).foldl (fun x i => x.setGran (accGran row + i) (r.extractLsb' (512 * i) 512)) x).setSide row side

/-- 768 contiguous bytes: every page is judged before the first byte is written. -/
def Prog.putRow (r : Prog) (space va : Nat) (bs : List Byte) (needA : Bool) : Prog :=
  ((List.range 12).foldl (fun r i => r.took (r.s.writeGot r.own space (va + 64 * i) needA)) r).then fun r =>
    (List.range 12).foldl (fun r i => r.put space (va + 64 * i) ((bs.drop (64 * i)).take 64) needA true) r

/-- SUB 2 (R233). -/
def State.runFrom (s : State) (c : Nat) (m : Cmd) : Prog :=
  (List.range (m.vc.toNat / 768)).foldl (fun r i =>
    let row := m.gbase + m.va.toNat + i
    let side := (s.core c).side row
    (r.check (if sidePoison side then 3 else 0)).then fun r =>
      r.putRow m.space (m.vb.toNat + 768 * i) (rowBytes ((s.core c).row (accGran row))) (sideTag side).b) (Prog.start s (m.bound c))

/-- SUB 3 (R233). -/
def State.runTo (s : State) (c : Nat) (m : Cmd) : Prog :=
  (List.range (m.vc.toNat / 768)).foldl (fun r i => r.then fun r =>
    let row := m.gbase + m.vb.toNat + i
    let g := s.engReads c m.space (m.va.toNat + 768 * i) 24
    if g.bad = 3 then { r with s := r.s.modCore c fun x => x.setSide row (mkSide (sideTag (x.side row)) true), st := 3 }
    else (r.took g).then fun r =>
      { r with s := r.s.modCore c fun x => x.putAcc row (bytesRow g.bytes) (if g.a then mkSide .unknown false else 0), cnt := r.cnt + 768 })
    (Prog.start s)

/-- The slice, by module and core, that holds the base of a layout operand. -/
def State.baseSlice (s : State) (space base : Nat) : Option (Nat × Nat) :=
  match s.homeAnswer space base with
  | .hit e => (match targetOf (e.pa base) with | .slice c _ => some (modOf (e.pa base), c) | _ => none)
  | _ => none

/-- R177: what an engine finds at a byte of a layout operand; outside the slice of its base it is refused. -/
def State.layReach (s : State) (space : Nat) (slice : Option (Nat × Nat)) (va : Nat) (write : Bool) : Reach :=
  match s.reach space va write with
  | .ok pa a h => (match targetOf pa with | .slice c _ => if slice == some (modOf pa, c) then .ok pa a h else .refused | _ => .refused)
  | r => r

/-- Bits of a logical row under a layout, and what reading them gives. -/
def State.layElems (s : State) (c space base : Nat) (l : Lay) (r : Nat) (sel : Nat → Bool) : Row × Got :=
  let home := s.baseSlice space base
  let got := (List.range l.n).map fun k =>
    let b := 8 * base + l.at r k
    if !sel k then (0, Got.nil)
    else match s.layReach space home (b / 8) false with
    | .ok pa a h =>
      (s.readBits (8 * readAt pa h (dieOf c) + b % 8) l.e, { s.gotAt c pa (max 1 (l.e / 8)) h a.a with bytes := [], asked := [b / 8] })
    | q => (0, .fail [] 2 (q.stop (b / 8) false) (b / 8))
  (rowOfElems l.e (got.map (·.1)), got.foldl (fun g p => g.join p.2) Got.nil)

/-- A whole logical row under a layout. -/
def State.layRow (s : State) (c space base : Nat) (l : Lay) (r : Nat) : Row × Got := s.layElems c space base l r fun _ => true

/-- The elements of a layout that hold bits `lo` to `lo + n` of a row. -/
def Lay.holds (l : Lay) (lo n k : Nat) : Bool := decide (l.e * k < lo + n) && decide (lo < l.e * k + l.e)

/-- R184: a granule read has a valid tag that differs; the first `n` bits of each row are read. -/
def State.layMismatch (s : State) (space base : Nat) (l : Lay) (rows n : Nat) : Bool :=
  (List.range rows).any fun r => (List.range l.n).any fun k =>
    l.holds 0 n k && match s.reach space ((8 * base + l.at r k) / 8) false with
    | .ok pa _ _ =>
      match targetOf pa with
      | .slice c off => let t := Tab.get (fun _ => 0) (s.core c).ltags (off / 64); t.getLsbD 8 && t != l.tag
      | _ => false
    | _ => false

/-- Physical bytes: intervals, and the smallest that holds them all. -/
structure Span where
  lo : Nat
  hi : Nat
  parts : List (Nat × Nat)
  deriving DecidableEq, Repr

def Span.of (l : List (Nat × Nat)) : Span := ⟨(l.map (·.1)).foldl min ((l.headD (0, 0)).1), (l.map (·.2)).foldl max 0, l⟩
def Span.has (p : Span) (a : Nat) : Bool := p.lo ≤ a && a < p.hi && p.parts.any fun q => q.1 ≤ a && a < q.2

/-- An element of `w` bits at a physical byte with the bytes that lie in `ovl` undefined. -/
def Span.blur (p : Span) (t n pa w v : Nat) : Nat :=
  if w < 8 then (if p.has pa then (Config.byte t (64 * n)).toNat % 2 ^ w else v)
  else leNat ((leBytes (w / 8) v).mapIdx fun j b => if p.has (pa + j) then Config.byte t (64 * n + j) else b)

/-- Write a logical row under a layout, judged before the first byte; the bytes of `ovl` are undefined (R231). -/
def Prog.putLay (r : Prog) (space base : Nat) (l : Lay) (row : Nat) (v : Row) (needA : Bool) (ovl : Span) (t : Nat) : Prog :=
  let at' := fun k => 8 * base + l.at row k
  let home := r.s.baseSlice space base
  ((List.range l.n).foldl (fun r k => match r.s.layReach space home (at' k / 8) true with
    | .refused => r.took (.fail [] 2 .none (at' k / 8))
    | _ => r.took (r.s.writeGot r.own space (at' k / 8) needA)) r).then fun r =>
    { r with
      s := (List.range l.n).foldl (fun s k =>
        match s.reach space (at' k / 8) true with
        | .ok pa _ h => s.writeBits none h (8 * pa + at' k % 8) l.e (ovl.blur t (row * l.n + k) pa l.e (elem l.e v k)) (some l.tag)
        | _ => s) r.s
      cnt := r.cnt + 768 }

/-- Layout registers named by ENG of a CPY. -/
def EF.lsrc (f : EF) : BitVec 6 := f.eng.extractLsb' 34 6
def EF.ldst (f : EF) : BitVec 6 := f.eng.extractLsb' 28 6

/-- Physical bytes of the source of a copy with layout words. -/
def State.laySource (s : State) (m : Cmd) (f : EF) (n : Nat) : Span :=
  let bytes := fun va k => match s.reach m.space va false with | .ok pa _ _ => some (pa, pa + k) | _ => none
  .of <| if Machine.EF.lsrc f != 0 then
      let l := layOf m.lsrc
      (List.range n).flatMap fun r => (List.range l.n).filterMap fun k => bytes (m.va.toNat + l.at r k / 8) (max 1 (l.e / 8))
    else (List.range (12 * n)).filterMap fun i => bytes (m.va.toNat + 64 * i) 64

/-- R382: a copy under a layout lifts the poison of the lines that its rows have written whole. -/
def State.liftLay (s : State) (space base : Nat) (l : Lay) (rows : Nat) : State :=
  if s.poison.isEmpty then s
  else
    let bits := ((List.range rows).flatMap fun r => (List.range l.n).filterMap fun k =>
      match s.reach space ((8 * base + l.at r k) / 8) true with | .ok pa _ _ => some (8 * pa + (8 * base + l.at r k) % 8) | _ => none).eraseDups
    s.poison.foldl (fun s n => if 512 ≤ l.e * (bits.filter fun b => b / 512 == n).length then s.cleanLine n else s) s
def State.lifted (m : Cmd) (ld : Bool) (r : Prog) : Prog :=
  if ld then { r with s := r.s.liftLay m.space m.vb.toNat (layOf m.ldst) (r.cnt / 768) } else r

/-- SUB 0 with layout words: rows in logical order; overlapping destination bytes are undefined. -/
def State.runLayCopy (s0 : State) (c : Nat) (m : Cmd) (f : EF) : Prog :=
  let (t, s) := s0.next
  let n := m.vc.toNat / 768
  let ovl := s.laySource m f n
  let plain := fun i (bs : List Byte) => (List.range 12).flatMap fun j =>
    let l := (bs.drop (64 * j)).take 64
    match s.reach m.space (m.vb.toNat + 768 * i + 64 * j) true with
    | .ok pa _ _ => l.mapIdx fun x b => if ovl.has (pa + x) then Config.byte t (768 * i + 64 * j + x) else b
    | _ => l
  let ls := Machine.EF.lsrc f != 0
  let ld := Machine.EF.ldst f != 0
  let src := fun r => if ls then s.layRow c m.space m.va.toNat (layOf m.lsrc) r
    else let g := s.engReads c m.space (m.va.toNat + 768 * r) 24; (bytesRow g.bytes, g)
  let anyA := (List.range n).any fun r => (src r).2.a
  if m.dbg && ls && s.layMismatch m.space m.va.toNat (layOf m.lsrc) n 6144 then { Prog.start s with st := 4 }
  else State.lifted m ld <| (List.range n).foldl (fun r i => r.then fun r =>
    let g := src i
    (r.took g.2).then fun r =>
      if ld then r.putLay m.space m.vb.toNat (layOf m.ldst) i g.1 anyA ovl t
      else r.putRow m.space (m.vb.toNat + 768 * i) (plain i (rowBytes g.1)) anyA) (Prog.start s (m.bound c))

/-- Bounding range of a layout operand. -/
def layTouch (va : Nat) (l : Lay) (rows : Nat) (write : Bool) : Nat × Nat × Bool :=
  (va + (l.box rows).1, (l.box rows).2 - (l.box rows).1, write)

/-- Ranges a CPY touches. -/
def cpyTouch (m : Cmd) (f : EF) : List (Nat × Nat × Bool) :=
  let n := m.vc.toNat
  let src := if m.retire.isSome then [] else
    [if Machine.EF.lsrc f != 0 then layTouch m.va.toNat (layOf m.lsrc) (n / 768) false else (m.va.toNat, n, false)]
  src ++ [if Machine.EF.ldst f != 0 then layTouch m.vb.toNat (layOf m.ldst) (n / 768) true
    else (m.vb.toNat, Machine.EF.dstBytes f n, true)]

/-- Accumulator rows named by a count: the first that fails R41. -/
def Ctx.rowsBad (x : Ctx) (first n : Nat) : Option (Nat × Word) :=
  ((List.range (min (max n 1) 1025)).find? fun j => !x.accOk (first + j)).map fun j => (0x07, BitVec.ofNat 64 (2 ^ 62 + first + j))

/-- R231: the byte count of a form. -/
def cpyLen (sub n : Nat) (layout : Bool) : Bool :=
  if 2 ≤ sub then n % 768 == 0 && 768 ≤ n && n ≤ 786432
  else if layout then n % 768 == 0 && 768 ≤ n && n ≤ 2 ^ 28
  else n % 64 == 0 && 64 ≤ n && n ≤ 2 ^ 28

/-- Values of the registers an engine command names: A, B, C and the layout registers. -/
structure Vals where
  a : Word
  b : Word
  c : Word
  ls : Word
  ld : Word
  deriving DecidableEq, Repr

/-- The checks of CPY SUB 0 at issue but for those of a layout operand's base (R231, R232). -/
def cpyBad (f : EF) (v : Vals) : Option (Nat × Word) :=
  let n := v.c.toNat
  let ls := Machine.EF.lsrc f != 0
  let ld := Machine.EF.ldst f != 0
  let conv := !(f.r.ty == 0 && f.r.fn == 0)
  let limit := f.eng.extractLsb' 0 28 == 0 && cpyLen 0 n (ls || ld) &&
    (!conv || (cpyTypes (Machine.EF.src f) (Machine.EF.dst f) && !(ls || ld) && n % srcStride (Machine.EF.src f) (Machine.EF.dst f) == 0))
  addrBad [v.a, v.b] <|
    if !limit then some (EF.word (.cpy f))
    else if ls && !layoutOk v.ls then some v.ls
    else if ld && !layoutOk v.ld then some v.ld
    else none

/-- The row part of a footprint. -/
def rowPart (first n : Nat) (write : Bool) : Part := ⟨true, first, first + n - 1, write⟩

/-! ## GATH and SCAD (R236, R237, R146) -/

def EF.ity (f : EF) : Nat := (f.eng.extractLsb' 36 4).toNat
/-- Row length in bytes, index count, bag. -/
def EF.rowu (f : EF) : Nat := 64 * (f.eng.extractLsb' 24 12).toNat
def EF.nidx (f : EF) : Nat := (f.eng.extractLsb' 8 16).toNat
def EF.bag (f : EF) : Nat := (f.eng.extractLsb' 0 8).toNat
def EF.iw (f : EF) : Nat := if Machine.EF.ity f = 1 then 8 else 4

def gathLimit (f : EF) (sum : Bool) : Bool :=
  let r := Machine.EF.rowu f
  let n := Machine.EF.nidx f
  let b := Machine.EF.bag f
  Machine.EF.ity f < 2 && 64 ≤ r && r ≤ 65536 && 1 ≤ n && (if sum then 1 ≤ b && n % b == 0 else b == 0)

/-- Index p, none for all ones, and the status of reading it. -/
def State.index (s : State) (c : Nat) (m : Cmd) (f : EF) (p : Nat) : Option Nat × Got :=
  let w := Machine.EF.iw f
  let g := s.engRead c m.space (m.vb.toNat + p * w) w
  let v := leNat g.bytes
  (if v = 2 ^ (8 * w) - 1 then none else some v, g)

def State.indices (s : State) (c : Nat) (m : Cmd) (f : EF) : List (Option Nat × Got) := (List.range (Machine.EF.nidx f)).map (s.index c m f)

/-- Bytes of a destination row of GATH. -/
def EF.gathRow (f : EF) : Nat := Machine.EF.dstBytes f (Machine.EF.rowu f)

/-- Ranges of GATH and SCAD in the order in which they are reached: indices, then row by row, the sum of a bag after its rows. -/
def State.gathTouch (s : State) (c : Nat) (m : Cmd) (f : EF) : List (Nat × Nat × Bool) :=
  let rl := Machine.EF.rowu f
  let dl := Machine.EF.gathRow f
  let b := Machine.EF.bag f
  let src := fun i => (m.va.toNat + i * rl, rl, false)
  let rows := (s.indices c m f).zipIdx.flatMap fun q =>
    match m.ins with
    | .scad _ => (match q.1.1 with | some i => [(m.vc.toNat + q.2 * rl, rl, false), (m.va.toNat + i * rl, rl, true)] | none => [])
    | .gathSum _ => (q.1.1.map src).toList ++ if (q.2 + 1) % b = 0 then [(m.vc.toNat + q.2 / b * dl, dl, true)] else []
    | _ => (q.1.1.map src).toList ++ [(m.vc.toNat + q.2 * dl, dl, true)]
  (m.vb.toNat, Machine.EF.nidx f * Machine.EF.iw f, false) :: rows

/-- GATH SUB 0. -/
def State.runGath (s : State) (c : Nat) (m : Cmd) (f : EF) : Prog :=
  let rl := Machine.EF.rowu f
  let src := Machine.EF.src f
  let dst := Machine.EF.dst f
  let sp := srcStride src dst
  let dl := Machine.EF.gathRow f
  let idx := s.indices c m f
  let row := fun (i k : Nat) => s.engReads c m.space (m.va.toNat + i * rl + k * sp) (sp / 32)
  let anyA := idx.any fun p => p.2.a || (match p.1 with | some i => (List.range (rl / sp)).any fun k => (row i k).a | none => false)
  ((idx.mapIdx fun p x => (p, x)).foldl (fun r px => (r.took px.2.2).then fun r =>
    (List.range (dl / 64)).foldl (fun r k => r.then fun r =>
      match px.2.1 with
      | none => r.put m.space (m.vc.toNat + px.1 * dl + 64 * k) (List.replicate 64 0) anyA false
      | some i =>
        let g := row i k
        let (bs, po) := convBytes src dst f.r.rm.toNat g.bytes
        let r := (r.took g).put m.space (m.vc.toNat + px.1 * dl + 64 * k) bs anyA false
        { r with poison := r.poison || (po && r.st == 0) }) r) (Prog.start s (m.bound c)))

/-- R146: one addition of a contribution of type `src` to an element of type `ty`. -/
def addRound (ty src d c : Nat) : Nat :=
  match fmtOf ty with
  | some fm => fm.round 0 (Fv.add 0 (srcValue ty d) (srcValue src c)) 0
  | none => 0

/-- Bytes written at once of a destination row of GATH SUB 1: f32 rows summed to bf16 may end in half a granule. -/
def EF.piece (f : EF) : Nat := if Machine.EF.gathRow f % 64 = 0 then 64 else 32

/-- GATH SUB 1: a piece of a destination row of a bag. -/
def State.bagGranule (s : State) (c : Nat) (m : Cmd) (f : EF) (bag : List (Option Nat)) (k : Nat) : Got :=
  let src := Machine.EF.src f
  let ty := Machine.EF.dst f
  let sp := srcStride src ty * Machine.EF.piece f / 64
  let gots := bag.filterMap fun i => i.map fun i => s.engReads c m.space (m.va.toNat + i * Machine.EF.rowu f + k * sp) (sp / 32)
  let n := 8 * Machine.EF.piece f / tyWidth ty
  let es := (List.range n).map fun e => gots.foldl (fun d g => addRound ty src d ((elemsOf (tyWidth src) g.bytes).getD e 0)) 0
  { gots.foldl Got.join Got.nil with bytes := es.flatMap fun v => leBytes (tyWidth ty / 8) v }

def State.runGathSum (s : State) (c : Nat) (m : Cmd) (f : EF) : Prog :=
  let dl := Machine.EF.gathRow f
  let b := Machine.EF.bag f
  let idx := s.indices c m f
  let bagOf := fun j => ((idx.drop (j * b)).take b).map (·.1)
  let w := Machine.EF.piece f
  let anyA := idx.any (·.2.a) || (List.range (idx.length / b)).any fun j => (List.range (dl / w)).any fun k => (s.bagGranule c m f (bagOf j) k).a
  let bagGot := fun j => ((idx.drop (j * b)).take b).foldl (fun g p => g.join p.2) Got.nil
  (List.range (idx.length / b)).foldl (fun r j => (List.range (dl / w)).foldl (fun r k => r.then fun r =>
    let g := s.bagGranule c m f (bagOf j) k
    (r.took g).put m.space (m.vc.toNat + j * dl + w * k) g.bytes anyA false) (r.took (bagGot j))) (Prog.start s (m.bound c))

/-- SCAD: source rows added into table rows, each element read and written in its turn. -/
def State.runScad (s : State) (c : Nat) (m : Cmd) (f : EF) : Prog :=
  let rl := Machine.EF.rowu f
  let ty := Machine.EF.dst f
  let idx := s.indices c m f
  let row := fun (p k : Nat) => s.engReads c m.space (m.vc.toNat + p * rl + 64 * k) 2
  let anyA := idx.any (·.2.a) || (List.range idx.length).any fun p => (List.range (rl / 64)).any fun k => (row p k).a
  ((idx.mapIdx fun p x => (p, x)).foldl (fun r px => (r.took px.2.2).then fun r =>
    match px.2.1 with
    | none => r
    | some i => (List.range (rl / 64)).foldl (fun r k => r.then fun r =>
      let va := m.va.toNat + i * rl + 64 * k
      let g := row px.1 k
      let old := r.s.engReads c m.space va 2
      let bs := (List.zip (elemsOf (tyWidth ty) old.bytes) (elemsOf (tyWidth ty) g.bytes)).flatMap fun p =>
        leBytes (tyWidth ty / 8) (addRound ty ty p.1 p.2)
      ((r.took g).took old).put m.space va bs anyA false) r) (Prog.start s (m.bound c)))

/-- The type rules of GATH and SCAD (R237). -/
def gathTypes (i : Instr) (f : EF) : Bool :=
  let src := Machine.EF.src f
  let dst := Machine.EF.dst f
  match i with
  | .gath _ => (f.r.ty == 0 && f.r.fn == 0) || (cpyTypes src dst && Machine.EF.rowu f % srcStride src dst == 0)
  | .gathSum _ => [10, 9].contains src && [10, 9].contains dst
  | _ => f.r.fn == 0 && [10, 9].contains dst
def isSum (i : Instr) : Bool := match i with | .gathSum _ => true | _ => false
def isScad (i : Instr) : Bool := match i with | .scad _ => true | _ => false

/-- Bytes of the rows at C. -/
def gathTotal (i : Instr) (f : EF) : Nat :=
  if isScad i then Machine.EF.rowu f * Machine.EF.nidx f
  else Machine.EF.gathRow f * (if isSum i then Machine.EF.nidx f / Machine.EF.bag f else Machine.EF.nidx f)

/-! ## Issue of CPY, GATH and SCAD -/

/-- Checks of a copy or gather command on its operand values, under the grant of a context. -/
def Ctx.cmdBad (x : Ctx) (i : Instr) (v : Vals) : Option (Nat × Word) :=
  let n := v.c.toNat
  let lim := fun (ok : Bool) => if ok then none else some (EF.word i)
  match i with
  | .cpy f => cpyBad f v
  | .cpyFill f => addrBad [v.b] (lim (cpyLen 1 n false && f.eng == 0))
  | .cpyFrom f => (x.rowsBad v.a.toNat (n / 768)).or (addrBad [v.b] (lim (cpyLen 2 n false && f.eng == 0)))
  | .cpyTo f => (x.rowsBad v.b.toNat (n / 768)).or (addrBad [v.a] (lim (cpyLen 3 n false && f.eng == 0)))
  | .gath f | .gathSum f | .scad f => addrBad [v.a, v.b, v.c] (lim (gathLimit f (isSum i) && gathTypes i f))
  | _ => none

/-- Footprint of a copy or gather command. -/
def State.cmdParts (s : State) (c sp gbase : Nat) (i : Instr) (v : Vals) : List Part :=
  let n := v.c.toNat
  match i with
  | .cpy f =>
    (if Machine.EF.lsrc f != 0 then s.layParts c sp (eaVa v.a) (layOf v.ls) (n / 768) false else s.rangeParts c sp (eaVa v.a) n false) ++
    (if Machine.EF.ldst f != 0 then s.layParts c sp (eaVa v.b) (layOf v.ld) (n / 768) true
      else s.rangeParts c sp (eaVa v.b) (Machine.EF.dstBytes f n) true)
  | .cpyFill _ => s.rangeParts c sp (eaVa v.b) n true
  | .cpyFrom _ => rowPart (gbase + v.a.toNat) (n / 768) false :: s.rangeParts c sp (eaVa v.b) n true
  | .cpyTo _ => rowPart (gbase + v.b.toNat) (n / 768) true :: s.rangeParts c sp (eaVa v.a) n false
  | .gath f | .gathSum f | .scad f =>
    s.rangeParts c sp (eaVa v.b) (Machine.EF.nidx f * Machine.EF.iw f) false ++ s.tailParts c sp (eaVa v.a) (isScad i) ++
      s.rangeParts c sp (eaVa v.c) (gathTotal i f) (!isScad i)
  | _ => []

/-- What the command writes outside rows, for R168. -/
def cmdWrites (i : Instr) (v : Vals) : List (Word × Nat) :=
  match i with
  | .cpy f => if Machine.EF.ldst f != 0 then [] else [(v.b, Machine.EF.dstBytes f v.c.toNat)]
  | .cpyFill _ | .cpyFrom _ => [(v.b, v.c.toNat)]
  | .gath f | .gathSum f => [(v.c, gathTotal i f)]
  | _ => []

/-- A SCAD of a tile step is judged by its index list once the context's stores and the earlier commands that write the list have
performed (R190, R186; log 77). -/
def State.scadHold (s : State) (i : Instr) (f : EF) (v : Vals) (ok : Issue) : Issue :=
  if isScad i && s.me.inStep && (s.me.acc.any (·.kind.writes) ||
      s.myCore.rangeHold (s.rangeParts s.curCore s.me.space (eaVa v.b) (Machine.EF.nidx f * Machine.EF.iw f) false)) then .wait s
  else ok

/-- The table rows that a SCAD writes, as its index list stands at issue (log 77). -/
def State.scadWrites (s : State) (i : Instr) (f : EF) (m : Cmd) : List (Word × Nat) :=
  if isScad i then
    (s.indices s.curCore m f).filterMap fun p => p.1.map fun n => (m.va + BitVec.ofNat 64 (n * Machine.EF.rowu f), Machine.EF.rowu f)
  else []

/-- The bases of layout operands: base, layout word, written. -/
def cmdLays (i : Instr) (v : Vals) : List (Word × Word × Bool) :=
  match i with
  | .cpy f => (if Machine.EF.lsrc f != 0 then [(v.a, v.ls, false)] else []) ++ (if Machine.EF.ldst f != 0 then [(v.b, v.ld, true)] else [])
  | _ => []

/-- A layout destination outside the own slice breaks R168 in a tile step. -/
def State.layStep (s : State) (i : Instr) (v : Vals) (ok : Issue) : Issue :=
  s.stepWrites ((cmdLays i v).filterMap fun l => if l.2.2 then some (l.1, 64) else none) ok

/-- Operand values of the issuing context. -/
def State.vals (s : State) (f : EF) : Vals :=
  ⟨s.getS f.r.a, s.getS f.r.b, s.getS f.r.c, s.getS (Machine.EF.lsrc f), s.getS (Machine.EF.ldst f)⟩

/-- A copy or gather command at issue (R227, R231, R237). -/
def State.issueMove (s : State) (i : Instr) (f : EF) (e : Nat) (eng : Engine) (regs : List Nat) : Out :=
  s.issueEngine i f 0 regs fun s =>
    let v := s.vals f
    orTrap (s.me.cmdBad i v) <|
      (cmdLays i v).foldr (fun l go => s.layOk l.1 l.2.1 l.2.2 (v.c.toNat / 768) go) <|
        let m := s.newCmd i f eng (s.cmdParts s.curCore s.me.space (grantBase s.me.grant) i v)
        s.scadHold i f v <| s.stepWrites (cmdWrites i v ++ if s.me.inStep then s.scadWrites i f m else []) <| s.layStep i v <| s.enterSlot f e m

/-- CPY SUB 0 (R231). -/
def execCpy (f : EF) (s : State) : Out :=
  s.issueMove (.cpy f) f 0 .copy [f.r.a.toNat, f.r.b.toNat, f.r.c.toNat, (Machine.EF.lsrc f).toNat, (Machine.EF.ldst f).toNat]
/-- CPY SUB 1 (R231). -/
def execCpyFill (f : EF) (s : State) : Out := s.issueMove (.cpyFill f) f 0 .copy [f.r.a.toNat, f.r.b.toNat, f.r.c.toNat]
/-- CPY SUB 2 (R231, R233). -/
def execCpyFrom (f : EF) (s : State) : Out := s.issueMove (.cpyFrom f) f 0 .copy [f.r.a.toNat, f.r.b.toNat, f.r.c.toNat]
/-- CPY SUB 3 (R231, R233). -/
def execCpyTo (f : EF) (s : State) : Out := s.issueMove (.cpyTo f) f 0 .copy [f.r.a.toNat, f.r.b.toNat, f.r.c.toNat]
/-- GATH SUB 0 (R237). -/
def execGath (f : EF) (s : State) : Out := s.issueMove (.gath f) f 1 .gather [f.r.a.toNat, f.r.b.toNat, f.r.c.toNat]
/-- GATH SUB 1 (R237). -/
def execGathSum (f : EF) (s : State) : Out := s.issueMove (.gathSum f) f 1 .gather [f.r.a.toNat, f.r.b.toNat, f.r.c.toNat]
/-- SCAD (R237). -/
def execScad (f : EF) (s : State) : Out := s.issueMove (.scad f) f 1 .gather [f.r.a.toNat, f.r.b.toNat, f.r.c.toNat]

/-! ## COLL (R238-R240, R147) -/

def EF.count (f : EF) : Nat := (f.eng.extractLsb' 16 24).toNat
def EF.root (f : EF) : Nat := (f.eng.extractLsb' 0 16).toNat
/-- Source and destination bytes. -/
def EF.collSrc (f : EF) (bcast : Bool) : Nat := if bcast then Machine.EF.count f else Machine.EF.count f * tyWidth (Machine.EF.src f) / 8
def EF.collDst (f : EF) (bcast : Bool) : Nat := if bcast then Machine.EF.count f else Machine.EF.count f * tyWidth (Machine.EF.dst f) / 8

def State.groupHead (s : State) (c : Nat) (m : Cmd) : Got := s.engReads c m.space m.vc.toNat 2

/-- Bytes of the group descriptor of a collective, its member table with them (R238). -/
def State.descBytes (s : State) (c : Nat) (m : Cmd) : Nat := 64 + 4 * min 4096 (leNat (((s.groupHead c m).bytes.drop 4).take 4))

/-- COLL at issue. -/
def State.coll (s : State) (i : Instr) (f : EF) (bcast : Bool) : Out :=
  s.issueEngine i f 0 [f.r.a.toNat, f.r.b.toNat, f.r.c.toNat] fun s =>
    let a := s.getS f.r.a
    let b := s.getS f.r.b
    let d := s.getS f.r.c
    let types := if bcast then f.r.ty == 0 && f.r.fn == 0
      else [10, 9].contains (Machine.EF.src f) && [10, 9, 11, 12].contains (Machine.EF.dst f) && Machine.EF.root f == 0
    let ns := Machine.EF.collSrc f bcast
    let nd := Machine.EF.collDst f bcast
    let limit := types && 1 ≤ Machine.EF.count f && ns % 64 == 0 && nd % 64 == 0
    addrChecks [a, b, d] limit (EF.word i) <|
      if s.me.inStep then .trap 0x15 0
      else
        let c := s.curCore
        let sp := s.me.space
        let m := s.newCmd i f .coll []
        let parts := s.rangeParts c sp (eaVa a) ns false ++ s.rangeParts c sp (eaVa d) (s.descBytes c m) false ++
          s.rangeParts c sp (eaVa b) nd true
        s.enterSlot f 2 { m with parts := parts }

/-- COLL SUB 0 (R239). -/
def execCollBcast (f : EF) (s : State) : Out := s.coll (.collBcast f) f true
/-- COLL SUB 1 (R239). -/
def execCollSum (f : EF) (s : State) : Out := s.coll (.collSum f) f false
/-- COLL SUB 2 (R239). -/
def execCollMax (f : EF) (s : State) : Out := s.coll (.collMax f) f false
/-- COLL SUB 3 (R239). -/
def execCollMin (f : EF) (s : State) : Out := s.coll (.collMin f) f false

/-- A group descriptor as read: GID, NMEM, whether its reserved bytes are zero, the members' words, the status of reading it and the
missing translation behind a status 2. -/
structure Group where
  gid : Nat
  nmem : Nat
  plain : Bool
  members : List Nat
  bad : Nat
  miss : Miss
  deriving DecidableEq, Repr

def State.group (s : State) (c : Nat) (m : Cmd) : Group :=
  let h := s.groupHead c m
  let n := leNat ((h.bytes.drop 4).take 4)
  let ms := (List.range (if n ≤ 4096 then n else 0)).map fun i => s.engRead c m.space (m.vc.toNat + 64 + 4 * i) 4
  let all := ms.foldl Got.join h
  { gid := leNat (h.bytes.take 4), nmem := n, plain := (h.bytes.drop 8).all (· == 0), members := ms.map fun g => leNat g.bytes,
    bad := all.bad, miss := all.miss }

/-- R238: members strictly ascending, bits [31:21] zero, 2 to 4,096 of them. -/
def ascending : List Nat → Bool
  | a :: b :: t => a < b && ascending (b :: t)
  | _ => true
def Group.ok (g : Group) : Bool := 2 ≤ g.nmem && g.nmem ≤ 4096 && g.plain && ascending g.members && g.members.all (· < 2 ^ 21)

/-- R239: a command takes its number within its group when it starts; one whose descriptor cannot be read names no group, and ends. -/
def State.collStart (s : State) (c : Nat) (m : Cmd) : State :=
  let h := s.groupHead c m
  let gid := leNat (h.bytes.take 4)
  let k := Tab.get (fun _ => 0) (s.core c).collSeq gid
  if h.bad != 0 then s.modCore c fun x => x.modCmd m.id fun m => { m with fail := m.fail.or (some h.bad) }
  else s.modCore c fun x =>
    { (x.modCmd m.id fun m => { m with seq := gid * 2 ^ 32 + k, reg := 1 }) with collSeq := Tab.set (fun _ => 0) x.collSeq gid (k + 1) }

/-- The running collective of a core with a number, unless its unit is held. -/
def Core.collOf (x : Core) (q : Nat) : Option Cmd :=
  x.cmds.find? fun m => m.engine == .coll && m.st.running? && m.seq == q && m.fail.isNone && !m.cancel && !x.held m

def collBcast? (m : Cmd) : Bool := match m.ins with | .collBcast _ => true | _ => false

/-- What two matched commands must agree in. -/
def collKey (m : Cmd) (g : Group) : Option (Nat × BitVec 4 × BitVec 8 × BitVec 3 × BitVec 40 × Nat × List Nat) :=
  match m.ins with
  | .collBcast f => some (0, f.r.ty, f.r.fn, f.r.rm, f.eng, g.nmem, g.members)
  | .collSum f => some (1, f.r.ty, f.r.fn, f.r.rm, f.eng, g.nmem, g.members)
  | .collMax f => some (2, f.r.ty, f.r.fn, f.r.rm, f.eng, g.nmem, g.members)
  | .collMin f => some (3, f.r.ty, f.r.fn, f.r.rm, f.eng, g.nmem, g.members)
  | _ => none

/-- R147: the bytes every member receives, and the conversion poison. -/
def collCombine (m : Cmd) (f : EF) (srcs : List (List Byte)) : List Byte × Bool :=
  let ws := tyWidth (Machine.EF.src f)
  let cols := srcs.map (elemsOf ws)
  let wide := fun n => fmtF32.round 0 (srcValue (Machine.EF.src f) n) 0
  let op := fun a b => match m.ins with
    | .collMax _ => fmtF32.round 0 (Fv.pick true (fmtF32.value a) (fmtF32.value b)) 0
    | .collMin _ => fmtF32.round 0 (Fv.pick false (fmtF32.value a) (fmtF32.value b)) 0
    | _ => rneAdd a b
  let es := (List.range (Machine.EF.count f)).map fun e =>
    match cols.map fun c => wide (c.getD e 0) with
    | [] => (0, false)
    | v :: t => if Machine.EF.dst f = 10 then (t.foldl op v, false) else convert 10 (Machine.EF.dst f) f.r.rm.toNat (t.foldl op v) 0
  (es.flatMap fun p => leBytes (tyWidth (Machine.EF.dst f) / 8) p.1, es.any (·.2))

/-- A matched member ends with a status; its reads and writes are done, and its footprint goes (R185). -/
def State.collEnd (s : State) (c q st cnt : Nat) (poison : Bool) : State :=
  s.modCore c fun x => x.modCmd q fun m => { m with fail := some st, prog := cnt, poison := poison, parts := [] }

/-- The completion record of a command (R230). -/
def recTouch (m : Cmd) : List (Nat × Nat × Bool) := if m.crec = 0 then [] else [(m.crec.toNat, 8, true)]

/-- R197, R230: a completion record is known by its physical address. -/
def State.noteRec (s : State) (space : Nat) (a : Word) : State :=
  if a = 0 then s
  else match s.reach space a.toNat true with
  | .ok pa _ _ => if s.records.contains pa then s else { s with records := pa :: s.records }
  | _ => s

/-- Ranges a collective touches once its table is read: its descriptor, its source and its destination. -/
def State.collTouch (s : State) (c : Nat) (m : Cmd) (f : EF) (n : Nat) : List (Nat × Nat × Bool) :=
  let g := s.group c m
  let me := g.members.findIdx? (· == s.koyth.modId * 2 ^ 11 + c)
  [(m.vc.toNat, 64 + 4 * g.members.length, false)] ++
  if g.bad != 0 || !g.ok then [] else
  (if collBcast? m && me != some (Machine.EF.root f) then [] else [(m.va.toNat, Machine.EF.collSrc f (collBcast? m), false)]) ++
  [(m.vb.toNat, n, true)]

/-- A member is a core of this module. -/
def State.mine (s : State) (w : Nat) : Bool := w / 2 ^ 11 == s.koyth.modId
/-- The group has members in other modules. -/
def State.spans (s : State) (g : Group) : Bool := g.members.any fun w => !s.mine w

/-- Members of this module that have issued the collective `m`, with their commands. -/
def State.collFound (s : State) (m : Cmd) (g : Group) : List (Nat × Cmd) :=
  ((g.members.filter s.mine).map (· % 2 ^ 11)).filterMap fun d => ((s.core d).collOf m.seq).map fun o => (d, o)

/-- The group that a collective's descriptor names, and the place of the collective in it, taken or to be taken (R239). -/
def State.collNumber (s : State) (c : Nat) (m : Cmd) : Option (Nat × Nat) :=
  let gid := fun (o : Cmd) => let h := s.groupHead c o; if h.bad = 0 then some (leNat (h.bytes.take 4)) else none
  if m.reg = 1 then some (m.seq / 2 ^ 32, m.seq % 2 ^ 32)
  else (gid m).map fun g => (g, Tab.get (fun _ => 0) (s.core c).collSeq g +
    ((s.core c).cmds.filter fun o => o.id < m.id && o.engine == .coll && o.reg == 0 && gid o == some g).length)

/-- Core `d` has issued its k-th collective of a group, queued and armed ones among them. -/
def State.hasIssued (s : State) (d gid k : Nat) : Bool :=
  k < Tab.get (fun _ => 0) (s.core d).collSeq gid ||
    (s.core d).cmds.any fun o => o.engine == .coll && o.reg == 0 && s.collNumber d o == some (gid, k)

/-- R240: the match of a collective is complete: its table holds, and every member has issued its own. -/
def State.collIssued (s : State) (c : Nat) (m : Cmd) : Bool :=
  let g := s.group c m
  g.bad == 0 && g.ok &&
    match s.collNumber c m with
    | some (gid, k) => g.members.all fun w => if s.mine w then s.hasIssued (w % 2 ^ 11) gid k else s.collFar.contains (gid * 2 ^ 32 + k)
    | none => false

/-- What the members in other modules have done about a collective is theirs: by free choice, they have issued their own now (log 70). -/
def State.farAsk (s : State) (c : Nat) (m : Cmd) : State :=
  match s.collNumber c m with
  | some (gid, k) =>
    let (t, u) := s.next
    if !s.spans (s.group c m) || s.collFar.contains (gid * 2 ^ 32 + k) then s
    else if Config.pick t % 2 = 1 then { u with collFar := (gid * 2 ^ 32 + k) :: u.collFar } else u
  | none => s

/-- The group of a COLL of a member, held on its descriptor, is not known yet: a CCAN waits until it is (R240). -/
def State.collUnknown (s : State) (c : Nat) (m : Cmd) : Bool :=
  let g := s.group c m
  g.bad == 0 && g.members.any fun w => w / 2 ^ 11 == s.koyth.modId &&
    (s.core (w % 2 ^ 11)).cmds.any fun o => o.engine == .coll && o.reg == 0 && o.fail.isNone && !o.cancel && (s.groupHead (w % 2 ^ 11) o).miss != .none

/-- The members of a match have all started, so that the unit may combine. -/
def State.collFull (s : State) (c : Nat) (m : Cmd) : Bool :=
  let g := s.group c m
  m.st.running? && g.bad == 0 && g.ok && (s.collFound m g).length == (g.members.filter s.mine).length

/-- R239, R240: a collective ends without a match: every member of the table that has issued, and every one that still issues. -/
def State.collKill (s : State) (seq : Nat) (members : List Nat) (st : Nat) : State :=
  members.foldl (fun s w =>
    if w / 2 ^ 11 == s.koyth.modId then
      match (s.core (w % 2 ^ 11)).collOf seq with | some o => s.collEnd (w % 2 ^ 11) o.id st 0 false | none => s
    else s) { s with collDead := (seq, members, st) :: s.collDead }

/-- A command ends: its place in its queue and its footprint go. -/
def Core.dropCmd (x : Core) (q : Nat) : Core := { x with cmds := x.cmds.filter fun m => m.id != q }

/-- The status with which a collective of a core ends without a match. -/
def State.deadStatus (s : State) (me seq : Nat) : Option Nat :=
  (s.collDead.find? fun d => d.1 == seq && d.2.1.contains me).map (·.2.2)

/-- A collective meets a missing translation in its table: its unit is held (R227). -/
def State.collMiss (s : State) (c : Nat) (m : Cmd) (miss : Miss) : State :=
  match miss with
  | .at va w => s.missCmd c m va w
  | _ => s

/-- A turn of a collective whose members in other modules have not all issued theirs: by free choice they have not yet, they have, or one
of them ends it with a command that does not agree (R239) or a CCAN (R240; log 70). -/
def State.farTurn (s : State) (c q : Nat) (m : Cmd) (g : Group) : State :=
  let (t, u) := s.next
  match Config.pick t % 4 with
  | 0 => u
  | 1 => { u with collFar := m.seq :: u.collFar }
  | 2 => (u.collEnd c q 6 0 false).collKill m.seq g.members 6
  | _ => (u.collEnd c q 7 0 false).collKill m.seq g.members 7

/-- What a member in another module brings: free bytes, an approximate or a failed source among them (log 70). -/
def farGot (t i n : Nat) : Got :=
  { Got.nil with bytes := freeBytes t (i * n) n, a := (Config.word t (2 * i)).getLsbD 0, bad := [0, 2, 3, 0].getD ((Config.word t (2 * i + 1)).toNat % 4) 0 }

/-- The sources of a match, in the order of its table: every member's, or the root's of a broadcast. -/
def State.collGots (s : State) (t : Nat) (m : Cmd) (f : EF) (g : Group) (found : List (Nat × Cmd)) (ns : Nat) : List Got :=
  let need := if collBcast? m then (g.members.drop (Machine.EF.root f)).take 1 else g.members
  need.zipIdx.map fun w =>
    if s.mine w.1 then
      match found.find? fun p => p.1 == w.1 % 2 ^ 11 with
      | some p => s.engReads p.1 p.2.space p.2.va.toNat (ns / 32)
      | none => Got.nil
    else farGot t w.2 ns

/-- COLL_MATCH (R239, R240): the collective `q` of core `c` once every member has issued its own. -/
def execCollMatch (c q : Nat) (s : State) : Out :=
  .next <|
    match (s.core c).findCmd q with
    | none => s
    | some m =>
      match Instr.ef m.ins with
      | none => s
      | some f =>
        let me := s.koyth.modId * 2 ^ 11 + c
        if !(m.engine == .coll && m.st.running? && m.fail.isNone) || (s.core c).held m then s
        else if m.cancel then
          -- cancelled before its turn: it has taken its number, and the others end without it (R240)
          (s.collKill m.seq (s.group c m).members 7).modCore c fun x => x.dropCmd q
        else match s.deadStatus me m.seq with
        | some st => s.collEnd c q st 0 false
        | none =>
          let g := s.group c m
          if g.miss != .none then s.collMiss c m g.miss
          else if g.bad != 0 then s.collEnd c q g.bad 0 false
          else if !g.ok || !g.members.contains me || (collBcast? m && g.nmem ≤ Machine.EF.root f) ||
              (f.sc < 4 && g.members.any fun w => w / 2 ^ 11 != s.koyth.modId) then
            (s.collEnd c q 6 0 false).collKill m.seq g.members 6
          -- a member that cannot be reached (R416)
          else if g.members.any fun w => s.koyth.unreachable.contains (w / 2 ^ 11) then (s.collEnd c q 9 0 false).collKill m.seq g.members 9
          else if s.spans g && !s.collFar.contains m.seq then s.farTurn c q m g
          else
            let found := s.collFound m g
            if !s.collFull c m then s
            else
              let stuck := found.find? fun p => (s.group p.1 p.2).miss != .none
              let endAll := fun (st : Nat) => found.foldl (fun s p => s.collEnd p.1 p.2.id st 0 false) s
              if stuck.isSome then stuck.elim s fun p => s.collMiss p.1 p.2 (s.group p.1 p.2).miss
              else if (found.any fun p => collKey p.2 (s.group p.1 p.2) != collKey m g) || (s.spans g && Config.pick s.tick % 4 = 0) then
                -- a core that only another command's table names is a member of the match too
                (endAll 6).collKill m.seq (found.flatMap fun p => (s.group p.1 p.2).members).eraseDups 6
              else
                let n := Machine.EF.collDst f (collBcast? m)
                let ns := Machine.EF.collSrc f (collBcast? m)
                let blocked := found.any fun p => !(s.firstMiss p.2.space (s.collTouch p.1 p.2 f n)).clear
                if blocked then s
                else
                  let gots := s.collGots s.tick m f g found ns
                  let s : State := if s.spans g then s.next.2 else s
                  let bad := ((gots.map (·.bad)).find? (· != 0)).getD 0
                  let anyA := gots.any (·.a)
                  if bad != 0 then endAll bad
                  else
                    let (bs, po) := if collBcast? m then ((gots.headD Got.nil).bytes, false) else collCombine m f (gots.map (·.bytes))
                    found.foldl (fun s p =>
                      let pre := if anyA then ((List.range (n / 64)).map fun i => s.writeStatus p.2.space (p.2.vb.toNat + 64 * i) true).find? (· == 5) else none
                      let r := (List.range (n / 64)).foldl (fun r i =>
                        r.put p.2.space (p.2.vb.toNat + 64 * i) ((bs.drop (64 * i)).take 64) anyA false) ((Prog.start s).check (pre.getD 0))
                      r.s.collEnd p.1 p.2.id r.st r.cnt po) s

/-! ## Event pulses (R242, R243) -/

/-- R242: the source code of a command's completion, 0 for none. -/
def eventSource (i : Instr) : Nat :=
  match i with
  | .cpy _ | .cpyFill _ | .cpyFrom _ | .cpyTo _ => 1
  | .gath _ | .gathSum _ | .scad _ => 2
  | .collBcast _ | .collSum _ | .collMax _ | .collMin _ => 3
  | .mms _ => 4
  | .xmv _ | .xmvt _ => 5
  | .xupd _ | .xdep _ | .xdepRst _ | .xcal _ | .xsym _ | .xrd _ | .xpgm _ | .xstatBlk _ => 6
  | .strd _ => 7
  | .mdec _ | .mrsz _ => 8
  | _ => 0

/-- R243: a pulse reaches a counter of its source. -/
def EvCnt.take (e : EvCnt) (p : Nat × Bool) : EvCnt :=
  if e.src != p.1 then e else if p.2 then { e with value := min 255 (e.value + 1) } else { e with fault := true }

/-- R243: a completion pulses the counters of its source. -/
def Core.pulse (x : Core) (src : Nat) (ok : Bool) : Core :=
  if src = 0 then x
  else (List.range 16).foldl (fun x n => x.setCnt n ((x.cnt n).take (src, ok))) { x with pulses := x.pulses ++ [(src, ok)] }

/-- R243: a configuration write of a cycle applies before the cycle's pulses: those that came earlier in the cycle reach the counter
again. -/
def Core.repulse (x : Core) (n : Nat) : Core := x.setCnt n (x.pulses.foldl EvCnt.take (x.cnt n))

/-! ## Waiting, polling, cancelling (R234, R235, R265) -/

/-- A handle that names no slot of this core. -/
def State.badHandle (s : State) (h : Word) : Bool :=
  (h.extractLsb' 34 11).toNat != s.curCore || h.extractLsb' 32 2 == 3 || h.extractLsb' 45 19 != 0

/-- The status word a handle finds, retired if its slot has been taken again. -/
def Core.handleStatus (x : Core) (h : Word) : Word :=
  let sl := x.slot (h.extractLsb' 32 2).toNat (h.extractLsb' 0 6).toNat
  if sl.gen == h.extractLsb' 6 26 then sl.status else statusRetired

/-- The command in flight of a handle. -/
def Core.handleCmd (x : Core) (h : Word) : Option Cmd := x.cmds.find? fun m => m.handle == h && h != 0

/-- Handles that saves of the task have recorded. -/
def Ctx.recorded (x : Ctx) : List (Word × Word) := match x.task with | some t => t.r.recorded | none => []

/-- A recorded handle answers at once; else a bad one traps (R234, R265). -/
def State.onHandle (s : State) (i : Instr) (f : EF) (body : State → Word → Issue) : Out :=
  s.issueEngine i f 0 [f.r.a.toNat] fun s =>
    let h := s.getS f.r.a
    if f.eng != 0 then .trap 0x0D (EF.word i)
    else match s.me.recorded.find? fun p => p.1 == h with
    | some p => .done (s.putS f.r.d.toNat p.2 1)
    | none => if s.badHandle h then .trap 0x0D (EF.word i) else body s h

/-- CPYW SUB 0 (R234). -/
def execCpyw (f : EF) (s : State) : Out :=
  s.onHandle (.cpyw f) f fun s h =>
    let w := s.myCore.handleStatus h
    if statusDone w then .done (s.putS f.r.d.toNat w 1) else .wait s

/-- A command that CPYW.all waits for: a CPY, GATH, SCAD or COLL that the issuing context has issued. -/
def State.countsHere (s : State) (m : Cmd) : Bool :=
  m.retire.isNone && !m.cancel && (m.engine == .copy || m.engine == .gather || m.engine == .coll) && m.ctx == s.curCtx

/-- CPYW SUB 1 (R234). -/
def execCpywAll (f : EF) (s : State) : Out :=
  s.issueEngine (.cpywAll f) f 0 [] fun s =>
    if f.eng != 0 then .trap 0x0D (EF.word (.cpywAll f))
    else if s.myCore.cmds.any s.countsHere then .wait s
    else .done (s.putS f.r.d.toNat (BitVec.ofNat 64 s.me.engFail) 1)

/-- CPOLL (R234). -/
def execCpoll (f : EF) (s : State) : Out :=
  s.onHandle (.cpoll f) f fun s h => .done (s.putS f.r.d.toNat (s.myCore.handleStatus h) 1)

/-- End a command with a status: its slot, its completion record's word is written by the caller, its event pulse, its poison. -/
def Core.endSlot (x : Core) (m : Cmd) (w : Word) : Core :=
  match m.engine.num, m.slot with
  | some e, some n => x.setSlot e n { x.slot e n with status := w, used := false }
  | _, _ => x

/-- R234: a failed CPY, GATH, SCAD or COLL that the context has issued is counted (log 79). -/
def Ctx.countFail (x : Ctx) (m : Cmd) (st : Nat) : Ctx :=
  if st != 0 && m.retire.isNone && (m.engine == .copy || m.engine == .gather || m.engine == .coll) then
    { x with engFail := x.engFail + 1 }
  else x

/-- The command has left its queue (R235). -/
def CmdSt.started : CmdSt → Bool
  | .queued | .armed _ => false
  | _ => true

/-- The destination of a cancelled copy, whose bytes are undefined (R200). -/
def State.scatterFree (s0 : State) (space va n : Nat) : State :=
  let (t, s) := s0.next
  (List.range (n / 64)).foldl (fun s i => (s.engWrite space (va + 64 * i) (freeBytes t (64 * i) 64) false)) s

/-- Undefined accumulator rows of a cancelled CPY.to. -/
def State.scatterRows (s0 : State) (c first n : Nat) : State :=
  let (t, s) := s0.next
  (List.range n).foldl (fun s i => s.modCore c fun x => x.putAcc (first + i) (bytesRow (freeBytes t (768 * i) 768)) 0) s

/-- Destination of a copy left undefined. -/
def State.cancelCopy (s : State) (c : Nat) (m : Cmd) : State :=
  match m.ins with
  | .cpyTo _ => s.scatterRows c (m.gbase + m.vb.toNat) (m.vc.toNat / 768)
  | .cpy f =>
    if Machine.EF.ldst f != 0 then
      let (t, s) := s.next
      ((List.range (m.vc.toNat / 768)).foldl (fun r i =>
        r.putLay m.space m.vb.toNat (layOf m.ldst) i (bytesRow (freeBytes t (768 * i) 768)) false (.of []) t) (Prog.start s)).s
    else s.scatterFree m.space m.vb.toNat (Machine.EF.dstBytes f m.vc.toNat)
  | .cpyFill _ | .cpyFrom _ => s.scatterFree m.space m.vb.toNat m.vc.toNat
  | _ => s

/-- Cancelled: DONE, STATUS 1, and a count (R235); it completes with a status other than 0 (R234, R243). The conversion poison that the
command has gathered is dropped with it (R139, log 43). -/
def State.cancelNow (s : State) (c : Nat) (m : Cmd) (cnt : Nat) : State :=
  (s.modCtx c m.ctx fun x => x.countFail m 1).modCore c fun x =>
    ((x.endSlot m (statusWord 1 cnt)).pulse (eventSource m.ins) false).dropCmd m.id

/-- R240, R243: a collective that ends with a status before its turn, cancelled or by a fault of its term, stays in its queue, without
slot and footprint, until it has taken its number; the commands matched with it end at once, as far as its group is known. -/
def State.cancelColl (s : State) (c : Nat) (m : Cmd) (status : Nat) : State :=
  let s := match s.collNumber c m with
    | some p => s.collKill (p.1 * 2 ^ 32 + p.2) ((s.group c m).members.filter (· != s.koyth.modId * 2 ^ 11 + c)) 7
    | none => s
  (s.modCtx c m.ctx fun x => x.countFail m status).modCore c fun x =>
    ((x.endSlot m (statusWord status 0)).pulse (eventSource m.ins) false).modCmd m.id fun m =>
      { m with slot := none, handle := 0, parts := [], cancel := true, st := if m.st.started then m.st else .queued }

/-- Destination bytes of a copy. -/
def Cmd.dstBytes (m : Cmd) : Nat :=
  match m.ins with
  | .cpy f => Machine.EF.dstBytes f m.vc.toNat
  | _ => m.vc.toNat

/-- CCAN (R235, R240, R357). -/
def execCcan (f : EF) (s : State) : Out :=
  s.onHandle (.ccan f) f fun s h =>
    let w := s.myCore.handleStatus h
    if statusDone w then .done (s.putS f.r.d.toNat w 1)
    else match s.myCore.handleCmd h with
    | none => .wait s
    | some m =>
      let fin := fun (s : State) (cnt : Nat) => Issue.done ((s.cancelNow s.curCore m cnt).putS f.r.d.toNat (statusWord 1 cnt) 1)
      match m.ins with
      | .cpy _ | .cpyFill _ | .cpyFrom _ | .cpyTo _ =>
        if !m.st.started then fin s 0
        -- it ends with a status of its own, and one that a fault of its term ends has not started
        else if m.fail.isSome then .wait s
        else
          let (t, s) := s.next
          fin (s.cancelCopy s.curCore m) (64 * (Config.pick t % (Cmd.dstBytes m / 64 + 1)))
      | .collBcast _ | .collSum _ | .collMax _ | .collMin _ =>
        let s := s.farAsk s.curCore m
        if m.fail.isSome || s.collIssued s.curCore m || s.collUnknown s.curCore m then .wait s
        else .done ((s.cancelColl s.curCore m 1).putS f.r.d.toNat (statusWord 1 0) 1)
      | .strd _ | .mrsz _ | .mdec _ => if !m.st.started then fin s 0 else .wait (s.modMy fun x => x.modCmd m.id fun m => { m with cancel := true })
      | _ => .wait s

/-! ## The event crossbar (R242-R244) -/

/-- An armed command waits on a term. -/
def Core.termWaits (x : Core) (t : Nat) : Bool := x.cmds.any fun m => m.st == .armed t
/-- Counters a term's masks name. -/
def EvTerm.names (e : EvTerm) (n : Nat) : Bool := e.masks.getLsbD n || e.masks.getLsbD (16 + n)

/-- EVCFG SUB 0 (R242). -/
def execEvcfgCnt (f : EF) (s : State) : Out :=
  s.issueEngine (.evcfgCnt f) f 0 [f.r.a.toNat] fun s =>
    let v := s.getS f.r.a
    let n := (f.eng.extractLsb' 0 4).toNat
    let th := (v.extractLsb' 8 8).toNat
    let src := (v.extractLsb' 0 4).toNat
    if f.eng.extractLsb' 4 36 != 0 || v.extractLsb' 16 48 != 0 || v.extractLsb' 4 4 != 0 || th == 0 || 8 < src then
      .trap 0x0D (EF.word (.evcfgCnt f))
    else if (List.range 8).any fun t => s.myCore.termWaits t && (s.myCore.term t).names n then .trap 0x14 (BitVec.ofNat 64 n)
    else .done (s.modMy fun x => (x.setCnt n ⟨th, src, 0, false⟩).repulse n)

/-- EVCFG SUB 1 (R242). -/
def execEvcfgTerm (f : EF) (s : State) : Out :=
  s.issueEngine (.evcfgTerm f) f 0 [f.r.a.toNat] fun s =>
    let v := s.getS f.r.a
    let t := (f.eng.extractLsb' 0 3).toNat
    if f.eng.extractLsb' 3 37 != 0 || v.extractLsb' 32 32 != 0 then .trap 0x0D (EF.word (.evcfgTerm f))
    else if s.myCore.termWaits t then .trap 0x14 (BitVec.ofNat 64 t)
    else .done (s.modMy fun x => x.setTerm t { x.term t with masks := v.extractLsb' 0 32 })

/-- EVARM, with or without clearing the counters of the term. -/
def State.evarm (s : State) (i : Instr) (f : EF) (clr : Bool) : Out :=
  s.issueEngine i f 0 [] fun s =>
    let t := (f.eng.extractLsb' 0 3).toNat
    if f.eng.extractLsb' 3 37 != 0 then .trap 0x0D (EF.word i)
    else if (s.myCore.term t).masks == 0 then .trap 0x14 (BitVec.ofNat 64 t)
    else .done (s.modMy fun x =>
      let x := if clr then (List.range 16).foldl (fun x n =>
        if (x.term t).names n then (x.setCnt n { x.cnt n with value := 0, fault := false }).repulse n else x) x else x
      x.setTerm t { x.term t with armed := true })

/-- EVARM SUB 0 (R242). -/
def execEvarm (f : EF) (s : State) : Out := s.evarm (.evarm f) f false
/-- EVARM SUB 1 (R242). -/
def execEvarmClr (f : EF) (s : State) : Out := s.evarm (.evarmClr f) f true

/-- R242: armed terms, counters at their threshold, faults. -/
def Core.evStat (x : Core) : Word :=
  let bit := fun (b : Bool) (n : Nat) => if b then 2 ^ n else 0
  BitVec.ofNat 64 (((List.range 8).map fun t => bit (x.term t).armed t).sum +
    ((List.range 16).map fun n => bit ((x.cnt n).thresh ≤ (x.cnt n).value) (8 + n) + bit (x.cnt n).fault (24 + n)).sum)

/-- EVARM SUB 2 (R242). -/
def execEvarmStat (f : EF) (s : State) : Out :=
  s.issueEngine (.evarmStat f) f 0 [] fun s =>
    if f.eng != 0 then .trap 0x0D (EF.word (.evarmStat f)) else .done (s.putS f.r.d.toNat s.myCore.evStat 1)

/-- The counters of product `p` of a term; an empty product never fires (log 19). -/
def EvTerm.product (e : EvTerm) (p : Nat) : List Nat := (List.range 16).filter fun n => e.masks.getLsbD (16 * p + n)
def Core.productHolds (x : Core) (ns : List Nat) : Bool :=
  !ns.isEmpty && ns.all fun n => (x.cnt n).thresh ≤ (x.cnt n).value && !(x.cnt n).fault

/-- R243: an armed term may fire or fault. -/
def Core.termDue (x : Core) (t : Nat) : Bool :=
  let e := x.term t
  e.armed && (x.productHolds (e.product 0) || x.productHolds (e.product 1) ||
    (e.product 0 ++ e.product 1).any fun n => (x.cnt n).fault)

/-- A firing of product `ns`. -/
def Core.fire (x : Core) (t : Nat) (ns : List Nat) : Core :=
  let x := ns.foldl (fun x n => x.setCnt n { x.cnt n with value := (x.cnt n).value - (x.cnt n).thresh }) x
  let x := x.setTerm t { x.term t with armed := false }
  { x with cmds := x.cmds.map fun m => if m.st == .armed t then { m with st := .queued } else m }

/-- EVENT_TERM_FIRING (R243). A term one of whose products holds while a counter of the other has FAULT fires: R243 does not say which comes
first (log 87). -/
def execEventTermFiring (c t : Nat) (s : State) : Out :=
  .next <|
    let x := s.core c
    let e := x.term t
    if !x.termDue t then s
    else if x.productHolds (e.product 0) then s.setCore c (x.fire t (e.product 0))
    else if x.productHolds (e.product 1) then s.setCore c (x.fire t (e.product 1))
    else
      let y := x.setTerm t { e with armed := false }
      let armed := fun (m : Cmd) => m.st == .armed t
      -- they complete without running; what is left of a collective takes its number in its turn (R239, log 43)
      (x.cmds.filter fun m => armed m && m.engine == .coll).foldl (fun s m => s.cancelColl c m 8) <|
        s.setCore c { y with cmds := y.cmds.map fun m =>
          if (armed m && m.engine != .coll) then { m with st := .running x.clock, fail := some 8 } else m }

end Sys2Proof.Machine
end

