-- ==== Sys2Proof/Machine/Tasks.lean ====
section
/-! DEFINITION. Task instructions: spawning, ending and joining, waiting, remote commands, range units, pipes, barriers, the walker and
handler starts (spec/09 R151-R168, spec/13 R212, spec/03 R64, spec/18 R286). The scheduler's events stand in Sched.lean. -/

namespace Sys2Proof.Machine

/-! ## Records and queues (R151-R153, R211, R212) -/

def Rec.pri (r : Rec) : Nat := (r.pf.extractLsb' 0 2).toNat
def Rec.stepBit (r : Rec) : Bool := r.pf.getLsbD 2
def Rec.resume (r : Rec) : Bool := r.pf.getLsbD 3
def Rec.pin (r : Rec) : Bool := r.pf.getLsbD 4
def Rec.coreNo (r : Rec) : Nat := (r.pf.extractLsb' 5 11).toNat

/-- R151, R152: the limits of a record's fields. -/
def Rec.fieldsOk (r : Rec) : Bool :=
  r.code.extractLsb' 0 3 == 0 && !eaTop r.code && r.joina.extractLsb' 0 6 == 0 && r.live.extractLsb' 27 5 == 0 &&
    r.pf.extractLsb' 16 16 == 0

/-- What a software record must satisfy: RESUME and STEP are set by hardware only. -/
def Rec.softOk (r : Rec) : Bool := r.fieldsOk && !r.stepBit && !r.resume
/-- What a popped record must satisfy. -/
def Rec.ok (r : Rec) : Bool := r.fieldsOk && !r.stepBit && (!r.resume || r.tid.isSome)

/-- The record in memory at a physical address. -/
def State.recAt (s : State) (pa space lid : Nat) : Rec :=
  { code := s.seenWord pa, frame := s.seenWord (pa + 8), joina := s.seenWord (pa + 16), live := BitVec.ofNat 32 (s.seenN (pa + 24) 4),
    pf := BitVec.ofNat 32 (s.seenN (pa + 28) 4), space := space, lid := lid, far := false, tid := none, got := none, views := none, fault := none, recorded := [] }

/-- R159: the record of a spilled task: RESUME, PIN and its core. -/
def Rec.asResume (r : Rec) (c tid : Nat) : Rec :=
  { r with pf := BitVec.ofNat 32 (r.pri + 8 + 16 + 32 * c), tid := some tid }

/-- Descriptor of a queue (R211, R419). -/
def State.queueDesc (s : State) (g l : Nat) : Nat := s.pub (0x10000 + (4 * g + l) * 64)
/-- A ring of the runtime starts at a multiple of 64 in HBM that the runtime may write. -/
def ringBase (a : Nat) : Bool := a % 64 == 0 && (match targetOf a with | .hbm b => !privateByte b && !firstPage b | _ => false)
/-- A number of slots is a power of two within its limits. -/
def ringSize (lo hi n : Nat) : Bool := decide (lo ≤ n) && decide (n ≤ hi) && n &&& (n - 1) == 0

/-- SLOTS of a queue, from its descriptor; a descriptor outside the limits of R211 has no room (log 29). -/
def State.queueSlots (s : State) (g l : Nat) : Nat :=
  let n := s.readN (s.queueDesc g l + 8) 4
  if ringSize 256 1048576 n && ringBase (s.readWord (s.queueDesc g l)).toNat then n else 0

/-- R211, R4: PUSHED, POPPED and the ring of each queue of a grotto that runs are undefined to every reader. The grotto head's own records
and counts stand in its state, and what it keeps of them in memory no reader learns. -/
def State.queueRings (s : State) : List (Nat × Nat) :=
  (s.grottos.filter (·.2.started)).flatMap fun p => [0, 1, 2, 3].flatMap fun l =>
    let n := s.queueSlots p.1 l
    (s.queueDesc p.1 l + 16, 16) :: (if n = 0 then [] else [((s.readWord (s.queueDesc p.1 l)).toNat, 32 * n)])

def Grotto.queue (x : Grotto) (l : Nat) : List Rec := Tab.get (fun _ => []) x.queues l
def Grotto.setQueue (x : Grotto) (l : Nat) (q : List Rec) : Grotto := { x with queues := Tab.set (fun _ => []) x.queues l q }

/-- Put a record in its queue, at a grotto unless it is pinned; `none` where the queue holds all but `keep` of its slots. A record
pinned to a retired core is dropped and counted (R424). -/
def State.pushRec (s : State) (g : Nat) (r : Rec) (keep : Nat) : Option State :=
  let g := if r.pin then grottoOf r.coreNo else g
  let x := s.grotto g
  let l := r.pri
  if r.pin && (s.core r.coreNo).retired then some { s with koyth := { s.koyth with dropped := s.koyth.dropped + 1 } }
  else if (x.queue l).length + keep < s.queueSlots g l then
    let n := Tab.get (fun _ => 0) x.pushed l
    some (s.setGrotto g { x.setQueue l (x.queue l ++ [r]) with pushed := Tab.set (fun _ => 0) x.pushed l (n + 1) })
  else none

/-- R153: DECREMENT at a physical address, by a party of a grotto; `none` while its push cannot enter. -/
def State.decrement (s : State) (who : Option (Nat × Nat)) (g space lid pa hold : Nat) : Option (State × Word) :=
  let old := s.seenWord pa
  if old = 0 then some (s, old)
  else
    let t := s.storeD who pa hold (leBytes 8 (old.toNat - 1)) none
    if old = 1 then (t.pushRec g (t.recAt (pa + 32) space lid) 0).map fun u => (u, old) else some (t, old)

/-! ## Frames of these instructions -/

/-- Free value of trap.info where no rule states one (log 20). -/
def State.trapFree (s : State) (cause : Nat) : Issue :=
  let (t, s') := s.next
  .trapAfter s' cause (Config.word t 0)

/-- R192: what a release waits for: every earlier access, and the engine commands of the context but for those it does not order. -/
def State.releaseBut (s : State) (free : Cmd → Bool) (body : Issue) : Issue :=
  s.checkDiscard true <|
    if s.me.acc.isEmpty && s.myCore.cmds.all (fun m => m.ctx != s.curCtx || m.retire.isSome || free m) &&
        !s.stackBusy s.curCore s.curCtx 0xFFFF
    then body else .wait s
def State.releaseHold (s : State) (body : Issue) : Issue := s.releaseBut (fun _ => false) body

/-- R168: refused inside a tile step. -/
def State.noStep (s : State) (body : Issue) : Issue := if s.me.inStep then .trap 0x15 0 else body

/-- An acquire reads at once what its own earlier accesses let it read (R189-R193). -/
def State.readNow (s : State) (ea : Word) (pa n : Nat) (at' : Attr) (body : Issue) : Issue :=
  if s.orderOk (s.newAccess (.load 0 false) ea [8 * pa] (8 * n) at' 0 0 3 true false (modOf pa)) then body else .wait s

/-- The issuing context waits (R163, R165). -/
def State.waitFor (s : State) (w : Wait) : State := s.modMe fun x => { x with run := .waiting w, since := s.now }
/-- The issuing context stops to wait (R130, R158). -/
def State.stopWait (s : State) (w : Wait) : State := (s.modMe Ctx.stopClear).waitFor w

/-- A waiting context continues: its result is written and it steps past its instruction. -/
def Core.wake (x : Core) (k d : Nat) (v : Word) : Core := (x.setCtx k { (x.ctx k).wr d v with run := .ready }).advance k 1

/-- Pages of a block of memory judged 64 bytes at a time (R154), then the body with the physical address of each piece. -/
def State.checkBlock (s : State) (ea : Word) (pieces : List Nat) (got : List Nat) (body : List Nat → Issue) : Issue :=
  match pieces with
  | [] => body got
  | i :: t => s.checkAccess .peek (ea + BitVec.ofNat 64 (64 * i)) 64 3 true fun pa at' =>
      s.checkBlock ea t (got ++ [readAt pa (if at'.d then s.holdOf (ea + BitVec.ofNat 64 (64 * i)) else 0) (dieOf s.curCore)]) body

/-! ## SPAWN (R155) -/

/-- SPAWN to a grotto. -/
def State.spawnTo (s : State) (f : RF) (g : Nat) (ok : Rec → Bool) : Issue :=
  let a := s.getS f.a
  if a.extractLsb' 0 5 != 0 then .trap 0x08 a
  else s.noStep <| s.checkAccess .peek a 32 3 true fun pa at' =>
    let r := s.recAt (readAt pa (if at'.d then s.holdOf a else 0) (dieOf s.curCore)) s.me.space s.me.lid
    -- the record is read once the context's own stores to it have performed (R190)
    s.releaseHold <|
      if !(r.softOk && ok r) then .trap 0x0D a
      else match s.pushRec g r 64 with
      | some t => .done t.noteStore
      | none => .wait s

/-- SPAWN FN 0. -/
def execSpawn (f : RF) (s : State) : Out :=
  s.issue (.spawn f) f.gd [f.a.toNat] fun s => s.spawnTo f (grottoOf s.curCore) fun _ => true

/-- SPAWN FN 1. -/
def execSpawnG (f : RF) (s : State) : Out :=
  s.issue (.spawnG f) f.gd [f.a.toNat, f.b.toNat] fun s =>
    s.spawnTo f (s.getS f.b).toNat fun r => !r.pin && (s.getS f.b).toNat < 64

/-! ## JOIN and DONE (R156, R64, R223) -/

/-- JOIN (R156). -/
def execJoin (f : RF) (s : State) : Out :=
  s.issue (.join f) f.gd [f.a.toNat] fun s =>
    let a := s.getS f.a
    if a.extractLsb' 0 6 != 0 then .trap 0x08 a
    else s.noStep <| s.checkAccess .update a 64 3 true fun pa at' =>
      if !s.me.acc.isEmpty then .wait s
      else match s.decrement (some (s.curCore, s.curCtx)) (grottoOf s.curCore) s.me.space s.me.lid pa (if at'.d then s.holdOf a else 0) with
        | some (t, old) =>
          -- a decrement is a store of the context itself (R82)
          .done ((if old = 0 then t else t.modMe (·.ownWrite [8 * pa])).noteStore.putS f.d.toNat old 1)
        | none => .wait s

/-- R165, R219: every context that waits in a phase continues with its number; `hit` gives the register of a context that does. -/
def State.phaseDone (s : State) (hit : Nat → Ctx → Option Nat) (v : Word) : State :=
  let s := s.cores.foldl (fun s p => [0, 1, 2, 3].foldl (fun s k =>
    match hit p.1 (s.ctx p.1 k) with
    | some d => s.modCore p.1 fun x => x.wake k d v
    | none => s) s) s
  let sm := fun (m : SavedMember) =>
    match hit m.core m.ctx with
    | some d => { m with ctx := (((Core.init 0).setCtx 0 m.ctx).wake 0 d v).ctx 0 }
    | none => m
  let sg := fun (g : SavedGang) => { g with members := g.members.map sm }
  { s with
    saved := s.saved.map sg
    pending := s.pending.map fun p => match p with | .saved d g => .saved d (sg g) | p => p }

/-- A context waits at barrier `n` of grotto `g`. -/
def barHit (g n : Nat) (c : Nat) (x : Ctx) : Option Nat :=
  match x.run with
  | .waiting (.bar d m _) => if m = n ∧ grottoOf c = g then some d else none
  | _ => none

/-- A context waits at barrier `n` of a gang. -/
def gbarHit (id n : Nat) (_c : Nat) (x : Ctx) : Option Nat :=
  match x.run with
  | .waiting (.gbar d m _) => if m = n ∧ (match x.task with | some t => t.gang | none => none) = some id then some d else none
  | _ => none

def Grotto.bar (x : Grotto) (n : Nat) : Bar := Tab.get (fun _ => ⟨0, 0, 0⟩) x.bars n
def Grotto.setBar (x : Grotto) (n : Nat) (b : Bar) : Grotto := { x with bars := Tab.set (fun _ => ⟨0, 0, 0⟩) x.bars n b }

/-- A phase of a grotto barrier completes; spilled waiters keep their result until they are pushed. -/
def State.barDone (s : State) (g n : Nat) : State :=
  let b := (s.grotto g).bar n
  let v := BitVec.ofNat 64 b.phase
  let s := s.phaseDone (barHit g n) v
  let x := (s.grotto g).setBar n { b with arr := 0, phase := b.phase + 1 }
  s.setGrotto g { x with waits := x.waits.map fun w =>
    match w.wait with
    | some (.bar d m _) => if m = n ∧ w.r.got = none then { w with r := { w.r with got := some (d, v) } } else w
    | _ => w }

def Gang.bar (x : Gang) (n : Nat) : Bar := Tab.get (fun _ => ⟨0, 0, 0⟩) x.bars n
def Gang.setBar (x : Gang) (n : Nat) (b : Bar) : Gang := { x with bars := Tab.set (fun _ => ⟨0, 0, 0⟩) x.bars n b }
def State.gang (s : State) (id : Nat) : Option Gang := s.gangs.find? fun x => x.id == id
def State.modGang (s : State) (id : Nat) (f : Gang → Gang) : State :=
  { s with gangs := s.gangs.map fun x => if x.id == id then f x else x }

/-- A phase of a gang barrier completes. -/
def State.gbarDone (s : State) (id n : Nat) : State :=
  match s.gang id with
  | none => s
  | some x =>
    let b := x.bar n
    (s.phaseDone (gbarHit id n) (BitVec.ofNat 64 b.phase)).modGang id fun x => x.setBar n { b with arr := 0, phase := b.phase + 1 }

/-- Contexts that hold a task of a gang. -/
def State.gangCtxs (s : State) (id : Nat) : List (Nat × Nat) :=
  s.cores.flatMap fun p => ([0, 1, 2, 3].filter fun k => (match (s.ctx p.1 k).task with | some t => t.gang | none => none) == some id).map fun k => (p.1, k)

/-- R219: a member is done; barriers whose arrivals now suffice complete; the last member ends the gang. -/
def State.memberDone (s : State) (id : Nat) : State :=
  let s := s.modGang id fun x => { x with alive := x.alive - 1 }
  match s.gang id with
  | none => s
  | some x =>
    if x.alive = 0 then { s with gangs := s.gangs.filter fun y => y.id != id }
    else x.bars.foldl (fun s p => if 0 < p.2.arr && x.alive ≤ p.2.arr then s.gbarDone id p.1 else s) s

/-- The context is free for the next task. -/
def State.freeCtx (s : State) (c k : Nat) : State :=
  s.modCtx c k fun x =>
    { x.stopClear with task := none, run := .ready, delay := none, acc := [], level := 0, preempt := false, yieldTo := [],
                       win := none, discard := none }

/-- R219: a member's DONE: its context is kept until every member has executed DONE, and then all are free. -/
def State.memberEnd (s : State) (id c k : Nat) : State :=
  let t := s.memberDone id
  if (t.gang id).isSome then t.modCtx c k fun x => { x.stopClear with run := .finished }
  else (t.gangCtxs id).foldl (fun t p => t.freeCtx p.1 p.2) (t.freeCtx c k)

def WalkBlk.modChain (b : WalkBlk) (n : Nat) (f : Chain → Chain) : WalkBlk :=
  { b with chains := Tab.set (fun _ => Chain.init) b.chains n (f (Tab.get (fun _ => Chain.init) b.chains n)) }
def State.modBlk (s : State) (g id : Nat) (f : WalkBlk → WalkBlk) : State :=
  let x := s.grotto g
  s.setGrotto g { x with blocks := x.blocks.map fun b => if b.id == id then f b else b }
def State.blk (s : State) (g id : Nat) : Option WalkBlk := (s.grotto g).blocks.find? fun b => b.id == id

/-- The fields of a retire copy: CPY with K = 0, SC = 3, RL = 1 (R223). -/
def retireEf : EF :=
  { r := { gd := ⟨false, 31⟩, d := 0, a := 0, b := 0, c := 0, ty := 0, rm := 0, fn := 0 }, k := 0, sc := 3, aq := false, rl := true,
    ev := false, term := 0, sub := 0, eng := 0 }

/-- R168: retire copy `rt` of a step of core `c`. -/
def State.retireCmd (s : State) (c k : Nat) (rt : Retire) (sr : StepRef) (space lid : Nat) : Cmd :=
  let dst := (List.zip sr.idx rt.dstr).foldl (fun (d : Word) p => d + BitVec.ofNat 64 p.1 * p.2) rt.dst
  { id := 0, ctx := k, ins := .cpy retireEf, vd := 0, va := BitVec.ofNat 64 rt.src, vb := dst, vc := BitVec.ofNat 64 rt.len, lsrc := 0,
    ldst := 0, engine := .copy,
    parts := (if rt.len = 0 then [] else [⟨false, rt.src, rt.src + rt.len - 1, false⟩]) ++ s.rangeParts c space (eaVa dst) rt.len true,
    slot := none, handle := 0, blk := [], crec := 0, pc := 0, space := space, lid := lid, tid := 0, dbg := false, gbase := 0, st := .queued,
    due := none, prog := 0, reg := 0, mac := [], arrived := 0, stream := [], product := Product.init, rows := [], late := [], skip := 0, stopAt := none, retire := some (sr.grotto, sr.block, sr.chain),
    fail := if eaAligned dst && eaPlain dst then none else some 2, cancel := false, poison := false, seq := 0, step := false }

/-- Queue the retire copies of a finished step, each in a slot of the copy engine. -/
def State.queueRetires (s : State) (c k : Nat) (op : OpBlock) (sr : StepRef) (space lid : Nat) : State :=
  (op.rets.take op.nret).foldl (fun s rt =>
    let m := s.retireCmd c k rt sr space lid
    s.modCore c fun x => match x.freeSlots 0 with
      | n :: _ => (x.takeSlot 0 n none).enqueue { m with slot := some n }
      | [] => x.enqueue m) s

/-- R223: a step has executed DONE. -/
def State.stepDone (s : State) (c k : Nat) (op : OpBlock) (sr : StepRef) (space lid : Nat) : State :=
  (s.queueRetires c k op sr space lid).modBlk sr.grotto sr.block fun b =>
    { b.modChain sr.chain (fun ch => { ch with next := ch.next + 1, running := false }) with finished := b.finished + 1, copies := b.copies + op.nret }

/-- What DONE does once its checks have passed: a tile step's copies, a gang member's count, then the context is free. -/
def State.endTask (s : State) (t : Task) : Issue :=
  let free := fun (s : State) => Issue.jump (s.freeCtx s.curCore s.curCtx)
  match t.step with
  | some sr =>
    match s.blk sr.grotto sr.block with
    | none => free s
    | some b =>
      if (s.myCore.freeSlots 0).length < b.op.nret then .wait s
      else free (s.stepDone s.curCore s.curCtx b.op sr t.r.space t.r.lid)
  | none =>
    match t.gang with
    | some id => .jump (s.memberEnd id s.curCore s.curCtx)
    | none => free s

/-- DONE (R64, R156). -/
def execDone (f : RF) (s : State) : Out :=
  s.issue (.done f) f.gd [] fun s =>
    if !(s.myCore.landed s.curCtx && s.me.acc.isEmpty) then .wait s
    else s.checkDiscard true <|
    match s.me.task with
    | none => .jump (s.freeCtx s.curCore s.curCtx)
    | some t =>
      let a := t.r.joina
      if a = 0 then s.endTask t
      else s.checkAccess .update a 64 3 true fun pa at' =>
        match s.decrement (some (s.curCore, s.curCtx)) (grottoOf s.curCore) t.r.space t.r.lid pa (if at'.d then s.holdOf a else 0) with
          | some (u, _) => u.endTask t
          | none => .wait s

/-! ## WAITF (R158) -/

/-- R158: bit 63 of a future. -/
def futureFull (w : Word) : Bool := w.getLsbD 63

/-- WAITF. -/
def execWaitf (f : RF) (s : State) : Out :=
  s.issue (.waitf f) f.gd [f.a.toNat] fun s =>
    let a := s.getS f.a
    s.checkAccess .peek a 8 3 false fun pa at' =>
      let pr := readAt pa (if at'.d then s.holdOf a else 0) (dieOf s.curCore)
      s.readNow a pa 8 at' <|
        if futureFull (s.seenWord pr) then .done ((s.modMe fun x => { x with resv := none }).putS f.d.toNat (s.seenWord pr) 1)
        else .jump (s.stopWait (.future f.d.toNat a))

/-- What a waiting instruction finds when it reads its bytes again, through the page table as it stands (R158, R164, R309). -/
inductive Again where
  | here (pa : Nat)
  /-- the leaf is in transit -/
  | notYet
  /-- the read meets an error, a missing page or a refusal: the instruction issues again and is told -/
  | lost
  deriving DecidableEq, Repr

/-- R158 has a waiting context read again at each write to its granule; it is silent on a page that goes, or a line that is poisoned, with
no such write. Here the context may read again at any time, and then issues its instruction again (log 82). -/
def State.readAgain (s : State) (c space : Nat) (ea : Word) (n : Nat) : Again :=
  match s.reach space ea.toNat false with
  | .ok pa _ hold =>
    let p := readAt pa hold (dieOf c)
    if s.retiredByte p || s.anyPoison p n then .lost else .here p
  | .wait => .notYet
  | .miss | .refused => .lost

/-- FUTURE_WAKE (R158): the waiting context reads its future again. -/
def execFutureWake (c k : Nat) (s : State) : Out :=
  .next <|
    match (s.ctx c k).run with
    | .waiting (.future d a) =>
      match s.readAgain c (s.ctx c k).space a 8 with
      | .here pa => if futureFull (s.seenWord pa) then s.modCore c fun x => x.wake k d (s.seenWord pa) else s
      | .lost => s.modCtx c k fun x => { x with run := .ready }
      | .notYet => s
    | _ => s

/-! ## The spill area (R286) -/

/-- Granule `i` of a view in its context's window, where it lies inside the window. -/
def Ctx.viewGran (x : Ctx) (v i : Nat) : Option Nat :=
  let g := (viewBase x.viewV + v * viewStride x.viewV) / 64 + i
  if g < 1024 then some g else none

/-- A granule as a spill saves it: zero where it lies in an off bank. -/
def Core.spillGran (x : Core) (k v i : Nat) : Granule × Tag :=
  match (x.ctx k).viewGran v i with
  | some g => if bankState x.bank k (g / 256) = 0 then (0, .exact) else (x.gran (1024 * k + g), x.tag (1024 * k + g))
  | none => (0, .exact)

/-- R286: a saved granule tag. -/
def tagWord (t : Tag) : Nat := (if t.b then 2 ^ 31 else 0) + t.bound.toNat
def wordTag (n : Nat) : Tag := ⟨n / 2 ^ 31 % 2 == 1, BitVec.ofNat 16 n⟩

def bitsNat (l : List Bool) : Nat := l.foldr (fun b n => b.toNat + 2 * n) 0

/-- The pieces a spill writes: offset from SPL, bytes. -/
def Core.spillPieces (x : Core) (k : Nat) (live : BitVec 32) : List (Nat × List Byte) :=
  let t := x.ctx k
  let grp := fun n => live.getLsbD n
  let views := ((List.range 8).filter fun n => grp (16 + n)).flatMap fun n => (List.range 8).map (· + 8 * n)
  [(0, leBytes 8 t.pc.toNat ++ leBytes 8 t.viewV.toNat ++ leBytes 8 t.viewT.toNat ++ leBytes 8 t.grant.toNat ++ leBytes 4 live.toNat ++
      leBytes 4 (bitsNat ((List.range 24).map t.mark)) ++ leBytes 1 (bitsNat ((List.range 4).map fun l => (t.loop l).act)) ++
      leBytes 1 (bitsNat [t.dbgPend.getLsbD 0, t.dbgLayout.getLsbD 0]) ++ leBytes 6 0 ++ leBytes 8 t.engPoison.toNat ++ leBytes 8 0)] ++
  ((List.range 16).filter grp).map (fun n => (64 + 32 * n, (List.range 4).flatMap fun j => leBytes 8 (t.rd (4 * n + j)).toNat)) ++
  (if grp 24 then (List.range 24).map fun n => (576 + 24 * n, leBytes 24 (if n = 0 then 0 else (t.rdP n).toNat)) else []) ++
  (if grp 25 then [(1152, (List.range 8).flatMap fun n => leBytes 8 (t.bt n).toNat)] else []) ++
  (if grp 26 then [(1216, (List.range 4).flatMap fun l =>
      leBytes 8 (t.loop l).start.toNat ++ leBytes 8 (t.loop l).endw.toNat ++ leBytes 8 (t.loop l).trip.toNat ++ leBytes 8 (t.loop l).lc.toNat)] else []) ++
  views.map (fun v => (1344 + 48 * v, (List.range 12).flatMap fun i => leBytes 4 (tagWord (x.spillGran k v i).2))) ++
  views.flatMap (fun v => (List.range 12).map fun i => (4416 + 768 * v + 64 * i, leBytes 64 (x.spillGran k v i).1.toNat))

/-- A piece cut at the page boundary. -/
def splitPage (va : Nat) (bs : List Byte) : List (Nat × List Byte) :=
  let n := 0x10000 - va % 0x10000
  if bs.length ≤ n then [(va, bs)] else [(va, bs.take n), (va + n, bs.drop n)]

/-- R286: SPL. -/
def spillBase (frame : Word) : Nat := (frame - 53568).toNat

/-- The spill of a task's state, or `none` where a page refuses it or has no translation. -/
def State.spillState (s : State) (c k : Nat) (t : Task) : Option State :=
  let ps := ((s.core c).spillPieces k t.r.live).flatMap fun p => splitPage (spillBase t.r.frame + p.1) p.2
  if ps.any fun p => s.writeStatus t.r.space p.1 false != 0 then none
  else some (ps.foldl (fun s p =>
    match s.reach t.r.space p.1 true with
    | .ok pa _ h => s.storeD (some (c, k)) pa h p.2 none
    | _ => s) s)

/-- R217, R286: tasks that are never spilled. -/
def Task.spillable (t : Task) : Bool :=
  t.gang.isNone && !t.handler && t.step.isNone && t.r.frame != 0 && t.r.frame.extractLsb' 0 6 == 0

/-- trap.pc of the trap 0x0E that answers a miss (R280, R285): the fetched address where word 1 of an engine command was missing, else
the instruction's own. -/
def State.missPc (s : State) (c k : Nat) (ea : Word) : Word :=
  let x := s.ctx c k
  match s.walkSpace x.space (eaVa x.pc) with
  | .hit e => if ea == x.pc + 8 && 0xC0 ≤ ((s.readWord (e.pa (eaVa x.pc))).extractLsb' 56 8).toNat then ea else x.pc
  | _ => x.pc

/-! ## YIELD (R160) -/

/-- YIELD: drain, then pass over. -/
def State.passMe (s : State) : Issue :=
  if s.myCore.landed s.curCtx then
    .done (s.modMy fun x => (x.setCtx s.curCtx (x.ctx s.curCtx).stopClear).passOver s.curCtx)
  else .wait s

/-- YIELD FN 0. -/
def execYield (f : RF) (s : State) : Out := s.issue (.yield f) f.gd [] fun s => s.passMe

/-- R309: a page of a task's spill area is in transit: its spill or resume waits. -/
def State.spillTransit (s : State) (r : Rec) : Bool :=
  (pagesIn (spillBase r.frame) 53568).any fun a => match s.reach r.space a true with | .wait => true | _ => false

/-- YIELD FN 1: a task that may not spill, or whose spill is abandoned, acts as YIELD. Where the task is at runtime level, of which R160
says nothing, it is spilled too, and resumes at task level (log 48); not while a pre-emption of it waits for its return (R288). -/
def execYieldQ (f : RF) (s : State) : Out :=
  s.issue (.yieldQ f) f.gd [] fun s => s.noStep <|
    match s.me.task with
    | none => s.passMe
    | some t =>
      if !t.spillable || s.me.preempt then s.passMe
      else if !(s.myCore.landed s.curCtx && s.me.acc.isEmpty) then .wait s
      else
        let u := s.modMy fun x => x.advance s.curCtx 1
        match u.spillState s.curCore s.curCtx t with
        | none => if s.spillTransit t.r then .wait s else s.passMe
        | some u =>
          match u.pushRec (grottoOf s.curCore) (t.r.asResume s.curCore t.tid) 0 with
          | none => .wait s
          | some u => .jump (u.freeCtx s.curCore s.curCtx)

/-! ## RENQ (R161, R230) -/

/-- The command a block holds, its engine and its fields, where its words are a command of the named engine. -/
def renqIns (gat : Bool) (w0 w1 : Word) : Option (Instr × EF) :=
  match decode w0 (some w1) with
  | .instr i _ =>
    match i, gat with
    | .cpy f, false | .cpyFill f, false | .cpyFrom f, false | .cpyTo f, false => some (i, f)
    | .gath f, true | .gathSum f, true | .scad f, true => some (i, f)
    | _, _ => none
  | _ => none

/-- What a command that arrives at another core is refused for: its own limits, its term, its layout bases. -/
def State.renqBad (s : State) (c : Nat) (i : Instr) (f : EF) (v : Vals) : Bool :=
  let x := s.ctx c 0
  (x.cmdBad i v).isSome || (f.ev && ((s.core c).term f.term.toNat).masks == 0) ||
  (cmdLays i v).any fun l =>
    match s.reach x.space (eaVa l.1) l.2.2 with
    | .ok pa _ _ =>
      match targetOf pa with
      | .slice k _ => modOf pa != s.koyth.modId || (s.layOutside k x.space (eaVa l.1) (layOf l.2.1) (v.c.toNat / 768)).isSome
      | _ => true
    | .refused => true
    | _ => false

/-- The registers a command names that the block's values stand for. -/
def standIn (x : Ctx) (f : EF) (d a b c : Word) : Ctx :=
  (((x.wr f.r.d.toNat d).wr f.r.a.toNat a).wr f.r.b.toNat b).wr f.r.c.toNat c

/-- RENQ into a queue of another core, as if context 0 of that core had issued the command (R161). Where that context holds no task the
command runs in the address space, and for the task, of the context that issues the RENQ (log 82). -/
def State.renq (s : State) (i : Instr) (f : RF) (gat : Bool) : Out :=
  s.issue i f.gd [f.a.toNat, f.b.toNat] fun s =>
    let a := s.getS f.a
    let c := (s.getS f.b).toNat
    let e := if gat then 1 else 0
    if a.extractLsb' 0 6 != 0 then .trap 0x08 a
    else s.noStep <| s.checkAccess .peek a 64 3 true fun pa _ =>
      let inSlice := modOf pa == s.koyth.modId && (match targetOf pa with | .slice _ _ => true | _ => false)
      if !inSlice then .trap 0x0E a
      -- the block is read once the context's own stores to it have performed (R190)
      else s.releaseHold <|
        let w := fun n => s.seenWord (pa + 8 * n)
        match renqIns gat (w 0) (w 1) with
        | none => .trap 0x0D a
        | some (j, g) =>
          let x := standIn (s.ctx c 0) g (w 2) (w 3) (w 4) (w 5)
          let u := { s.setCtx c 0 { x with task := if x.task.isSome then x.task else s.me.task } with curCore := c, curCtx := 0 }
          let v : Vals := ⟨w 3, w 4, w 5, u.getS (Machine.EF.lsrc g), u.getS (Machine.EF.ldst g)⟩
          if !(g.r.gd.g == 31 && !g.r.gd.gn) || w 6 != 0 || w 7 != 0 || 2047 < c || (w 2).extractLsb' 0 3 != 0 then .trap 0x0D a
          else if (s.core c).retired then .trap 0x0E a
          else if u.renqBad c j g v then .trap 0x0D a
          else
            match (s.core c).freeSlots e with
            | [] => .wait s
            | n :: _ =>
              let m := u.newCmd j g (if gat then .gather else .copy) (u.cmdParts c u.me.space (grantBase u.me.grant) j v)
              .done (((s.noteRec u.me.space (w 2)).modCore c fun y => (y.takeSlot e n (some m.tid)).enqueue
                { m with vd := w 2, va := w 3, vb := w 4, vc := w 5, slot := some n, crec := w 2, pc := a, step := false }).noteStore)

/-- RENQ FN 0. -/
def execRenqCpy (f : RF) (s : State) : Out := s.renq (.renqCpy f) f false
/-- RENQ FN 1. -/
def execRenqGat (f : RF) (s : State) : Out := s.renq (.renqGat f) f true

/-! ## Range units (R162, R224) -/

def Grotto.range (x : Grotto) (n : Nat) : Range := Tab.get (fun _ => ⟨0, 0, 0, 0, 0⟩) x.ranges n
def Grotto.setRange (x : Grotto) (n : Nat) (r : Range) : Grotto := { x with ranges := Tab.set (fun _ => ⟨0, 0, 0, 0, 0⟩) x.ranges n r }
def State.modMyGrotto (s : State) (f : Grotto → Grotto) : State := s.setGrotto (grottoOf s.curCore) (f (s.grotto (grottoOf s.curCore)))
def State.myGrotto (s : State) : Grotto := s.grotto (grottoOf s.curCore)

/-- RNGT.cfg. Its 0x0D comes before the 0x15 of a tile step (log 87). -/
def execRngtCfg (f : RF) (s : State) : Out :=
  s.issue (.rngtCfg f) f.gd [f.a.toNat, f.b.toNat] fun s =>
    let v := s.getS f.b
    let r : Range := { rem := (s.getS f.a).toNat, next := 0, min := (v.extractLsb' 0 24).toNat, k := (v.extractLsb' 24 8).toNat,
                       p := (v.extractLsb' 32 8).toNat }
    if 2 ^ 40 ≤ r.rem || r.min = 0 || r.k = 0 || r.p = 0 || v.extractLsb' 40 24 != 0 then s.trapFree 0x0D
    else s.noStep <| .done (s.modMyGrotto fun x => x.setRange f.c.toNat r)

/-- R162: the size of the next chunk. -/
def Range.chunk (r : Range) : Nat := Nat.min r.rem (Nat.min (2 ^ 24 - 1) (Nat.max r.min ((r.rem + r.k * r.p - 1) / (r.k * r.p))))

/-- RNGT: a take. -/
def execRngt (f : RF) (s : State) : Out :=
  s.issue (.rngt f) f.gd [] fun s => s.noStep <|
    let r := s.myGrotto.range f.c.toNat
    if r.k = 0 ∨ r.p = 0 then .done (s.putS f.d.toNat 0 1)
    else .done ((s.modMyGrotto fun x => x.setRange f.c.toNat { r with rem := r.rem - r.chunk, next := r.next + r.chunk }).putS f.d.toNat
      (BitVec.ofNat 64 (r.chunk * 2 ^ 40 + r.next)) 1)

/-! ## Pipes (R163, R164) -/

/-- A pipe descriptor. -/
structure PipeDesc where
  base : Word
  slots : Nat
  sbytes : Nat
  widx : Nat
  ridx : Nat
  deriving DecidableEq, Repr

def State.pipeAt (s : State) (pa : Nat) : PipeDesc :=
  ⟨s.seenWord pa, s.seenN (pa + 8) 4, s.seenN (pa + 12) 4, s.seenN (pa + 16) 8, s.seenN (pa + 24) 8⟩
def PipeDesc.ok (d : PipeDesc) : Bool :=
  1 ≤ d.slots && d.slots ≤ 256 && d.sbytes % 64 == 0 && 64 ≤ d.sbytes && d.sbytes ≤ 65536 && d.base.extractLsb' 0 6 == 0
/-- Whether a get must wait, and the slot it takes. -/
def PipeDesc.blocked (d : PipeDesc) (wr : Bool) : Bool :=
  if wr then (d.widx + 2 ^ 64 - d.ridx) % 2 ^ 64 == d.slots else d.ridx == d.widx
def PipeDesc.slot (d : PipeDesc) (wr : Bool) : Word :=
  d.base + BitVec.ofNat 64 ((if wr then d.widx else d.ridx) % d.slots * d.sbytes)

def Launch.holder (l : Launch) (n : Nat) (wr : Bool) : Option Nat := (l.held.find? fun h => h.pipe == n && h.wr == wr).map (·.owner)
def State.modLaunch (s : State) (space : Nat) (f : Launch → Launch) : State :=
  { s with launches := s.launches.map fun l => if l.space == space then f l else l }
def Launch.take (l : Launch) (n : Nat) (wr : Bool) (o : Nat) : Launch := { l with held := ⟨n, wr, o⟩ :: l.held }
def Launch.drop (l : Launch) (n : Nat) (wr : Bool) : Launch := { l with held := l.held.filter fun h => !(h.pipe == n && h.wr == wr) }

/-- Address of the descriptor of a pipe. -/
def Launch.desc (l : Launch) (n : Word) : Word := l.pipes + 64 * n

/-- PIPEW.get and PIPER.get. -/
def State.pipeGet (s : State) (i : Instr) (f : RF) (wr : Bool) : Out :=
  s.issue i f.gd [f.b.toNat] fun s => s.noStep <|
    let n := s.getS f.b
    match s.launchOf s.me.space with
    | none => .trap 0x13 n
    | some l =>
      if l.np ≤ n.toNat || (l.holder n.toNat wr).isSome then .trap 0x13 n
      else s.checkAccess .peek (l.desc n) 64 3 false fun pa at' =>
        let d := s.pipeAt (readAt pa (if at'.d then s.holdOf (l.desc n) else 0) (dieOf s.curCore))
        s.readNow (l.desc n) pa 64 at' <|
          if !d.ok then .trap 0x13 n
          else
            let t := s.modLaunch s.me.space fun l => l.take n.toNat wr s.me.tid
            if d.blocked wr then .jump (t.waitFor (.pipe f.d.toNat wr n.toNat)) else .done (t.putS f.d.toNat (d.slot wr) 1)

/-- PIPEW.put and PIPER.put. R154 names the access of JOIN and of the decrement as atomic and is silent on a put: here a missing
translation of its descriptor is told as an atomic's, ACC 3 (log 82). -/
def State.pipePut (s : State) (i : Instr) (f : RF) (wr : Bool) : Out :=
  s.issue i f.gd [f.b.toNat] fun s => s.noStep <|
    let n := s.getS f.b
    match s.launchOf s.me.space with
    | none => .trap 0x13 n
    | some l =>
      if l.np ≤ n.toNat || l.holder n.toNat wr != some s.me.tid then .trap 0x13 n
      else s.checkAccess .update (l.desc n) 64 3 true fun pa at' =>
        s.releaseHold <|
        let d := s.pipeAt pa
        if !d.ok then .trap 0x13 n
        else
          let o := if wr then 16 else 24
          let v := ((if wr then d.widx else d.ridx) + 1) % 2 ^ 64
          .done (((s.modLaunch s.me.space fun l => l.drop n.toNat wr).storeD (some (s.curCore, s.curCtx)) (pa + o)
            (if at'.d then s.holdOf (l.desc n) else 0) (leBytes 8 v) none).modMe (·.ownWrite [8 * (pa + o)]))

/-- PIPEW.get (R163). -/
def execPipewGet (f : RF) (s : State) : Out := s.pipeGet (.pipewGet f) f true
/-- PIPEW.put (R163). -/
def execPipewPut (f : RF) (s : State) : Out := s.pipePut (.pipewPut f) f true
/-- PIPER.get (R163). -/
def execPiperGet (f : RF) (s : State) : Out := s.pipeGet (.piperGet f) f false
/-- PIPER.put (R163). -/
def execPiperPut (f : RF) (s : State) : Out := s.pipePut (.piperPut f) f false

/-- Where a waiting get of a launch finds its descriptor now. -/
def State.pipeNow (s : State) (c space n : Nat) : Again :=
  match s.launchOf space with
  | none => .notYet
  | some l => s.readAgain c space (l.desc (BitVec.ofNat 64 n)) 64

/-- PIPE_WAKE (R163, R164): a waiting get reads the descriptor again. -/
def execPipeWake (c k : Nat) (s : State) : Out :=
  .next <|
    match (s.ctx c k).run with
    | .waiting (.pipe d wr n) =>
      match s.pipeNow c (s.ctx c k).space n with
      | .notYet => s
      | .lost => (s.modLaunch (s.ctx c k).space fun l => l.drop n wr).modCtx c k fun x => { x with run := .ready }
      | .here pa =>
        let p := s.pipeAt pa
        if !p.ok then
          ((s.modLaunch (s.ctx c k).space fun l => l.drop n wr).modCtx c k fun x => { x with run := .ready }).raise c k 0x13
            (BitVec.ofNat 64 n) (s.ctx c k).pc
        else if p.blocked wr then s
        else s.modCore c fun x => x.wake k d (p.slot wr)
    | _ => s

/-! ## Barriers (R165) -/

/-- BAR. In a tile step R168 gives no order between its traps: 0x0D of a barrier without parties comes first, as of BAR.cfg and RNGT.cfg,
and GBAR raises 0x15 first (log 87). -/
def execBar (f : RF) (s : State) : Out :=
  s.issue (.bar f) f.gd [] fun s =>
    let g := grottoOf s.curCore
    let n := f.c.toNat
    let b := s.myGrotto.bar n
    if b.party = 0 then s.trapFree 0x0D
    else s.noStep <| s.releaseHold <|
      let t := s.modMyGrotto fun x => x.setBar n { b with arr := b.arr + 1 }
      if b.party ≤ b.arr + 1 then .done ((t.barDone g n).putS f.d.toNat (BitVec.ofNat 64 b.phase) 1)
      else .jump (t.waitFor (.bar f.d.toNat n b.phase))

/-- BAR.cfg. Its 0x0D comes before the 0x15 of a tile step (log 87). -/
def execBarCfg (f : RF) (s : State) : Out :=
  s.issue (.barCfg f) f.gd [f.a.toNat] fun s =>
    let g := grottoOf s.curCore
    let n := f.c.toNat
    let v := (s.getS f.a).toNat
    let b := s.myGrotto.bar n
    if v = 0 || 128 < v || (b.arr != 0 && s.me.level == 0) then s.trapFree 0x0D
    else s.noStep <|
      let t := if b.arr = 0 then s else s.barDone g n
      .done (t.modMyGrotto fun x => x.setBar n ⟨v, 0, 0⟩)

/-- GBAR. The 0x15 of a tile step comes before its 0x0D (log 87). -/
def execGbar (f : RF) (s : State) : Out :=
  s.issue (.gbar f) f.gd [] fun s =>
    let n := f.c.toNat
    let x := match s.me.task with | some t => (match t.gang with | some id => s.gang id | none => none) | none => none
    match x with
    | none => if s.me.inStep then .trap 0x15 0 else s.trapFree 0x0D
    | some x =>
      let b := x.bar n
      s.noStep <| s.releaseHold <|
        let t := s.modGang x.id fun x => x.setBar n { b with arr := b.arr + 1 }
        if x.alive ≤ b.arr + 1 then .done ((t.gbarDone x.id n).putS f.d.toNat (BitVec.ofNat 64 b.phase) 1)
        else .jump (t.waitFor (.gbar f.d.toNat n b.phase))

/-! ## WALK (R166, R167) -/

def sub (l : List Byte) (o n : Nat) : Nat := leNat ((l.drop o).take n)

/-- The operator block of 320 bytes read at issue. -/
def opBlock (bs : List Byte) (space lid : Nat) (a : Word) : OpBlock :=
  { r := { code := BitVec.ofNat 64 (sub bs 0 8), frame := BitVec.ofNat 64 (sub bs 8 8), joina := BitVec.ofNat 64 (sub bs 16 8),
           live := BitVec.ofNat 32 (sub bs 24 4), pf := BitVec.ofNat 32 (sub bs 28 4), space := space, lid := lid, far := false,
           tid := none, got := none, views := none, fault := none, recorded := [] }
    nlev := sub bs 32 1, nret := sub bs 33 1, repl := sub bs 34 1, tiles := sub bs 35 1, home := sub bs 36 2, roff := sub bs 38 2
    levels := (List.range 4).map fun l => ⟨sub bs (64 + 16 * l) 4, sub bs (68 + 16 * l) 1, sub bs (70 + 16 * l) 2⟩
    rets := (List.range 4).map fun j =>
      let o := 128 + 48 * j
      ⟨sub bs o 4, sub bs (o + 4) 4, BitVec.ofNat 64 (sub bs (o + 8) 8), (List.range 4).map fun l => BitVec.ofNat 64 (sub bs (o + 16 + 8 * l) 8)⟩
    addr := a }

def OpBlock.lev (o : OpBlock) : List Level := o.levels.take o.nlev
/-- Chains, steps of a chain. -/
def OpBlock.chainCount (o : OpBlock) : Nat := (o.lev.filter (·.kind != 0)).foldl (fun n l => n * l.count) 1
def OpBlock.chainLen (o : OpBlock) : Nat := (o.lev.filter (·.kind == 0)).foldl (fun n l => n * l.count) 1
def OpBlock.steps (o : OpBlock) : Nat := o.lev.foldl (fun n l => n * l.count) 1

/-- R167: the limits of the fields, zero where the block must be. -/
def OpBlock.fieldsOk (o : OpBlock) (bs : List Byte) : Bool :=
  o.r.softOk && 1 ≤ o.nlev && o.nlev ≤ 4 && o.nret ≤ 4 && 1 ≤ o.repl && o.repl ≤ 8 && o.tiles < 16 && o.home < 2048 && sub bs 40 24 == 0 &&
  ((List.range 4).all fun l =>
    if l < o.nlev then
      let v := o.levels.getD l ⟨0, 0, 0⟩
      v.kind ≤ 3 && sub bs (69 + 16 * l) 1 == 0 && sub bs (72 + 16 * l) 8 == 0 && (v.kind != 3 || v.cstride % 256 == 0)
    else sub bs (64 + 16 * l) 16 == 0) &&
  ((List.range 4).all fun j =>
    if j < o.nret then
      let r := o.rets.getD j ⟨0, 0, 0, []⟩
      r.len % 64 == 0 && r.src % 64 == 0 && r.len ≤ 0x100000
    else sub bs (128 + 48 * j) 48 == 0)

/-- R167: where the eligible cores of all steps lie, for a walk that is not empty. -/
def OpBlock.coresOk (o : OpBlock) (g : Nat) : Bool :=
  let last := o.home + ((o.lev.filter (·.kind != 0)).map fun l => (l.count - 1) * l.cstride).sum + (o.repl - 1) * o.roff
  o.steps == 0 || (last ≤ 2047 && (o.lev.all (·.kind != 1) || (grottoOf o.home == g && grottoOf last == g)))

/-- WALK. -/
def execWalk (f : RF) (s : State) : Out :=
  s.issue (.walk f) f.gd [f.a.toNat] fun s =>
    let a := s.getS f.a
    let g := grottoOf s.curCore
    if a.extractLsb' 0 6 != 0 then .trap 0x08 a
    else s.noStep <| s.checkBlock a [0, 1, 2, 3, 4] [] fun pas => s.releaseHold <|
      let bs := pas.flatMap fun pa => s.seen pa 64
      let o := opBlock bs s.me.space s.me.lid a
      if !(o.fieldsOk bs && o.coresOk g) then .trap 0x0D a
      else if 8 ≤ s.myGrotto.blocks.length then .wait s
      else
        .done (s.modMyGrotto fun x =>
          { x with blocks := x.blocks ++ [⟨x.nextBlk, o, [], 0, 0⟩], nextBlk := x.nextBlk + 1 })

/-! ## SENDH (R157, R341) -/

/-- Bytes of 64 from a virtual address on, by the pages' translations. -/
def lineOf (pages : List Word) (trs : List (Nat × Attr)) (va : Nat) : Nat :=
  match (List.zip pages trs).find? fun p => p.1.toNat / 0x10000 == va / 0x10000 with
  | some (w, pa, _) => pa - w.toNat % 0x10000 + va % 0x10000
  | none => 0

def pageWords (ea : Word) (n : Nat) : List Word := (pagesIn ea.toNat n).map (BitVec.ofNat 64)

/-- SENDH. R157 speaks of the slice of another core: bytes over two slices are refused as bytes outside every slice are, with 0x0E, and the
issuing core's own slice is accepted. A page without translation parks with ACC 1 for the source and 2 for the destination. A poisoned
line of the destination stays so, since SENDH is neither a plain store nor a CPY (R382; log 87). -/
def execSendh (f : RF) (s : State) : Out :=
  s.issue (.sendh f) f.gd [f.a.toNat, f.b.toNat, f.c.toNat] fun s =>
    let a := s.getS f.a
    let b := s.getS f.b
    let h := s.getS f.c
    let n := 64 * (f.fn.toNat + 1)
    if a.extractLsb' 0 6 != 0 then .trap 0x08 a
    else if b.extractLsb' 0 6 != 0 then .trap 0x08 b
    else if h.extractLsb' 0 3 != 0 then .trap 0x08 h
    else s.noStep <|
      if !eaPlain a then .trap 0x0E a
      else if !eaPlain b then .trap 0x0E b
      else
        let ps := pageWords a n
        let qs := pageWords b n
        match s.lookAll s.curCore s.curCtx ps, s.lookAll s.curCore s.curCtx qs with
        | .wait w, _ => .wait (s.modMe (·.ask w))
        | .miss w, _ => .park 1 w
        | .malformed _, _ => .trap 0x0E a
        | _, .wait w => .wait (s.modMe (·.ask w))
        | _, .miss w => .park 2 w
        | _, .malformed _ => .trap 0x0E b
        | .ok ts, .ok us =>
          let src := (List.range (n / 64)).map fun i => lineOf ps ts (a.toNat + 64 * i)
          let dst := (List.range (n / 64)).map fun i => lineOf qs us (b.toNat + 64 * i)
          let c' := match targetOf (dst.headD 0) with | .slice c _ => c | _ => 0
          if (s.core c').retired then .trap 0x0E b
          else if src.any (fun p => !s.ownSlice s.curCore p || s.markedByte p) || ts.any (fun t => !t.2.r) then .trap 0x0E a
          else if dst.any (fun p => !s.ownSlice c' p || s.markedByte p) || us.any (fun t => !t.2.w) then .trap 0x0E b
          else if (ts.any (·.2.a)) && (us.any fun t => !t.2.a) then .trap 0x04 a
          else if src.any fun p => s.poisoned p || s.retiredByte p then .trap 0x0B a
          else if dst.any fun p => s.retiredByte p then .trap 0x0B b
          else s.releaseHold <|
            let own := src.map fun p => (⟨false, sliceOff p, sliceOff p + 63, false⟩ : Part)
            let put := dst.map fun p => (⟨false, sliceOff p, sliceOff p + 63, true⟩ : Part)
            if s.myCore.rangeHold own || (s.core c').rangeHold put || 8 ≤ (s.core c').handlers.length then .wait s
            else
              let t := (List.zip dst (src.map fun p => s.bytes p 64)).foldl (fun t p => t.storeAt none p.1 p.2 none) s
              .done ((t.modCore c' fun x => { x with handlers := x.handlers ++
                [{ code := h, dst := b, len := n, sender := s.curCore, space := s.me.space, lid := s.me.lid }] }).noteStore)

end Sys2Proof.Machine
end

