-- ==== Sys2Proof/Machine/Sched.lean ====
section
/-! DEFINITION. The scheduler: how tasks start and resume, pops, steals, handler starts, spills and the end of spilled waits, and the
walker's steps (spec/07 R122-R123, spec/09 R157-R159, spec/13 R211-R223, spec/18 R286). -/

namespace Sys2Proof.Machine

/-! ## Free contexts -/

/-- Contexts of a core that hold no task; none on a core that is not running (R124, R424). -/
def Core.freeCtxs (x : Core) : List Nat := if x.started && !x.retired then [0, 1, 2, 3].filter fun k => (x.ctx k).task.isNone else []

/-- Cores of a grotto. -/
def coresOf (g : Nat) : List Nat := (List.range 32).map (· + 32 * g)

/-! ## Starting a task (R123, R215) -/

/-- Rows of a range read zero and exact. -/
def Core.dropRows (x : Core) (first n : Nat) : Core :=
  { x with
    space := x.space.filter fun p => !(accGran first ≤ p.1 && p.1 < accGran (first + n))
    sides := x.sides.filter fun p => !(first ≤ p.1 && p.1 < first + n) }

/-- R123, R215, R253: what a context finds after a task of another launch: its window, banks, debug words and rows cleared. -/
def Core.clearCtx (x : Core) (k : Nat) : Core :=
  let x := [0, 1, 2, 3].foldl (fun x b => (x.loseBank k b).putBank k b 3) x
  let x := x.dropRows (256 * k) 256
  x.setCtx k { x.ctx k with dbgPend := 0, dbgLayout := 0, engPoison := 0, engStatus := (x.ctx k).engStatus &&& 0x8000FFFFFFFFFFFF }

/-- The grant a pop gives (R215). -/
def popGrant (k count : Nat) : Word := BitVec.ofNat 64 (count * 2 ^ 32 + 256 * k)

/-- R123: the state of a context before the first instruction of a task; no stopped MMS awaits it (R253). -/
def Ctx.startOf (x : Ctx) (k count : Nat) (t : Task) (regs : List (Nat × Word)) (vv vt : Word) : Ctx :=
  let y : Ctx := { x with
    pc := t.r.code, level := 0, sregs := [], preds := [], marks := [], bts := [], loops := [], delay := none, viewV := vv, viewT := vt,
    grant := popGrant k count, resv := none, spin := Spin.init, acc := [], busy := [], discard := none, task := some t, run := .ready,
    yieldTo := [], query := none, win := none, held := false, fenceh := none, preempt := false, lastLid := some t.r.lid,
    pulsed := false, engStatus := x.engStatus &&& 0x7FFFFFFFFFFFFFFF }
  ([(61, t.r.frame), (62, t.r.frame)] ++ regs).foldl (fun (y : Ctx) (p : Nat × Word) => y.wr p.1 p.2) y

/-- Start a task in a context. A popped record that breaks R151 or R152 traps before the first instruction (R153). -/
def State.startTask (s : State) (c k count : Nat) (t : Task) (regs : List (Nat × Word)) (views : Option (Word × Word)) : State :=
  -- the pop acquires: the task fetches the code as it stands now (R201)
  let s := s.modCore c fun x => { x with icache := x.icache.filter (·.1.1 != k) }
  let s := s.modCore c fun x => if (x.ctx k).lastLid = some t.r.lid then x else x.clearCtx k
  let v := views.getD (viewVReset, viewTReset)
  let s := s.modCtx c k fun x => x.startOf k count t regs v.1 v.2
  if t.r.ok || t.step.isSome || t.handler then s else s.enterTrap c k 0x0D (t.r.pf.setWidth 64) t.r.code

/-- A number for a new task (log 17). -/
def State.newTid (s : State) : Nat × State := (s.nextTid, { s with nextTid := s.nextTid + 1 })

/-! ## Resuming (R286) -/

/-- A piece of a spill area, and whether reading it failed. -/
def State.spillRead (s : State) (c : Nat) (r : Rec) (o n : Nat) : Got :=
  (splitPage (spillBase r.frame + o) (List.replicate n 0)).foldl (fun g p => g.join (s.engRead c r.space p.1 p.2.length)) Got.nil

/-- Offsets and lengths a resume reads. -/
def spillRanges (live : BitVec 32) : List (Nat × Nat) :=
  let grp := fun n => live.getLsbD n
  let views := ((List.range 8).filter fun n => grp (16 + n)).flatMap fun n => (List.range 8).map (· + 8 * n)
  [(0, 64)] ++ ((List.range 16).filter grp).map (fun n => (64 + 32 * n, 32)) ++ (if grp 24 then [(576, 576)] else []) ++
  (if grp 25 then [(1152, 64)] else []) ++ (if grp 26 then [(1216, 128)] else []) ++
  views.flatMap fun v => [(1344 + 48 * v, 48), (4416 + 768 * v, 768)]

/-- One granule of a view as a resume restores it; an off bank is left alone. -/
def Core.fillGran (x : Core) (k v i : Nat) (d : Granule) (t : Tag) : Core :=
  match (x.ctx k).viewGran v i with
  | some g => if bankState x.bank k (g / 256) = 0 then x else (x.setGran (1024 * k + g) d).setTag (1024 * k + g) t
  | none => x

/-- The context of a resumed task from the bytes of its area; `rd` reads them. -/
def Ctx.loadSpill (x : Ctx) (live : BitVec 32) (rd : Nat → Nat → Nat) : Ctx :=
  let w := fun o => BitVec.ofNat 64 (rd o 8)
  let grp := fun n => live.getLsbD n
  -- the low bits of a program counter, a branch target and a loop address do not exist (R20, log 75)
  let aim := fun o => w o &&& ~~~7
  let x := { x with pc := aim 0, viewV := w 8, viewT := w 16, grant := w 24, engPoison := w 48,
                    dbgPend := BitVec.ofNat 64 (rd 41 1 % 2), dbgLayout := BitVec.ofNat 64 (rd 41 1 / 2 % 2) }
  let x := ((List.range 16).filter grp).foldl (fun x n => (List.range 4).foldl (fun x j => x.wr (4 * n + j) (w (64 + 32 * n + 8 * j))) x) x
  let x := (List.range 24).foldl (fun x n =>
    x.wrP n (if grp 24 then BitVec.ofNat 192 (rd (576 + 24 * n) 24) else 0) (rd 36 4 / 2 ^ n % 2 == 1)) x
  let x := if grp 25 then (List.range 8).foldl (fun x n => x.setBt n (aim (1152 + 8 * n))) x else x
  (List.range 4).foldl (fun x l =>
    let o := 1216 + 32 * l
    x.setLoop l (if grp 26 then ⟨rd 40 1 / 2 ^ l % 2 == 1, aim o, aim (o + 8), w (o + 16), w (o + 24)⟩ else LoopLevel.init)) x

/-- The views of a resumed task, in ascending order. -/
def Core.loadViews (x : Core) (k : Nat) (live : BitVec 32) (rd : Nat → Nat → Nat) : Core :=
  (((List.range 8).filter fun n => live.getLsbD (16 + n)).flatMap fun n => (List.range 8).map (· + 8 * n)).foldl (fun x v =>
    (List.range 12).foldl (fun x i =>
      x.fillGran k v i (BitVec.ofNat 512 (rd (4416 + 768 * v + 64 * i) 64)) (wordTag (rd (1344 + 48 * v + 4 * i) 4))) x) x

/-- Resume a spilled task in a context; a failed read discards it with a KIND 5 record. -/
def State.resumeTask (s : State) (c k : Nat) (r : Rec) (tid : Nat) : State :=
  let head := s.spillRead c r 0 64
  let live := BitVec.ofNat 32 (leNat ((head.bytes.drop 32).take 4))
  let got := (spillRanges live).map fun p => (p, s.spillRead c r p.1 p.2)
  if head.bad != 0 || got.any fun p => p.2.bad != 0 then
    s.addFault (dieOf c) { ref := tid, kind := 5, acc := 0xFF, ea := 0, pc := 0, idx := 0, core := c, ctx := k }
  else
    let rd := fun o n => match got.find? fun p => p.1.1 ≤ o && o + n ≤ p.1.1 + p.1.2 with
      | some p => leNat ((p.2.bytes.drop (o - p.1.1)).take n)
      | none => 0
    let s := s.startTask c k 256 { r := r, gang := none, handler := false, step := none, tid := tid } [] none
    let s := s.modCtx c k fun x => x.loadSpill live rd
    let s := s.modCore c fun x => x.loadViews k live rd
    match r.got, r.fault with
    | some (d, v), _ => s.modCore c fun x => x.wake k d v
    | none, some (cause, info) => s.enterTrap c k cause info (if cause = 0x0E then s.missPc c k info else (s.ctx c k).pc)
    | none, none => s

/-- A record that a context has received (R215). -/
def State.startRec (s : State) (c k : Nat) (r : Rec) : State :=
  match r.resume && r.fieldsOk, r.tid with
  | true, some tid => s.resumeTask c k r tid
  | _, _ =>
    let (n, s) := s.newTid
    s.startTask c k 256 { r := r, gang := none, handler := false, step := none, tid := n } [] r.views

/-! ## Offered steps (R220, R221) -/

/-- Indices of a step, level 0 first, from its chain's number and its place in the chain; the last level varies fastest. -/
def stepIdx (ls : List Level) (chain t : Nat) : List Nat × Nat × Nat :=
  ls.foldr (fun l p =>
    if l.kind = 0 then (p.2.2 % l.count :: p.1, p.2.1, p.2.2 / l.count) else (p.2.1 % l.count :: p.1, p.2.1 / l.count, p.2.2)) ([], chain, t)

/-- R167: the home core of a chain. -/
def OpBlock.homeOf (o : OpBlock) (idx : List Nat) : Nat :=
  o.home + ((List.zip o.lev idx).map fun p => if p.1.kind = 0 then 0 else p.2 * p.1.cstride).sum
/-- Eligible cores of a chain, k rising. -/
def OpBlock.eligible (o : OpBlock) (chain : Nat) : List Nat :=
  (List.range o.repl).map fun k => o.homeOf (stepIdx o.lev chain 0).1 + k * o.roff

/-- R221: a core in lasting fault, or with a faulty tile that the block uses, is excluded. -/
def State.excluded (s : State) (o : OpBlock) (c : Nat) : Bool :=
  (s.core c).retired || (List.range 4).any fun t => o.tiles / 2 ^ t % 2 == 1 && ((s.core c).tile t).lf

/-- The core a chain is bound to; one that has been excluded since binds no more (R222, log 78). -/
def State.boundTo (s : State) (b : WalkBlk) (n : Nat) : Option Nat := (Tab.get (fun _ => Chain.init) b.chains n).core.filter fun c => !s.excluded b.op c

/-- The next step of a chain waits, and a core may run it. -/
def State.chainOn (s : State) (b : WalkBlk) (n c : Nat) : Bool :=
  let ch := Tab.get (fun _ => Chain.init) b.chains n
  !ch.running && !ch.stopped && ch.next < b.op.chainLen && (b.op.eligible n).contains c && !s.excluded b.op c &&
  (match s.boundTo b n with | none => true | some d => c == d)

/-- The next step of a chain may start on a core: among eligible cores of the same grotto that ask, the lowest k takes it. -/
def State.chainFor (s : State) (b : WalkBlk) (c n : Nat) : Bool :=
  s.chainOn b n c &&
  ((s.boundTo b n).isSome || ((b.op.eligible n).takeWhile (· != c)).all fun d =>
    grottoOf d != grottoOf c || (s.core d).freeCtxs.isEmpty || s.excluded b.op d)

/-- R221: the next step of a chain is one that the head of grotto `h` may hold. -/
def State.offerable (s : State) (h : Nat) (b : WalkBlk) (n : Nat) : Bool := (b.op.eligible n).any fun c => grottoOf c == h && s.chainOn b n c

/-- Numbers from `i` on, at most `n` of them, with a property: the first `room`. -/
def firstFrom (p : Nat → Bool) (i room : Nat) : Nat → List Nat
  | 0 => []
  | n + 1 => if room = 0 then [] else if p i then i :: firstFrom p (i + 1) (room - 1) n else firstFrom p (i + 1) room n

/-- Chains by the indices of their next steps, lexicographically (R220). -/
def idxLe : List Nat → List Nat → Bool
  | a :: s, b :: t => decide (a < b) || (a == b && idxLe s t)
  | _, _ => true
def insertChain (key : Nat → List Nat) (n : Nat) : List Nat → List Nat
  | [] => [n]
  | m :: t => if idxLe (key n) (key m) then n :: m :: t else m :: insertChain key n t

/-- The first `room` chains of a block that have a property, in the order of their next steps. Chains of which nothing has started stand at
their first steps, which rise with their numbers. -/
def WalkBlk.firstSteps (b : WalkBlk) (p : Nat → Bool) (room : Nat) : List Nat :=
  let seen := b.chains.map (·.1)
  let fresh := firstFrom (fun n => !seen.contains n && p n) 0 room b.op.chainCount
  ((seen.filter p ++ fresh).foldr (insertChain fun n => (stepIdx b.op.lev n (Tab.get (fun _ => Chain.init) b.chains n).next).1) []).take room

/-- R221: a head gives up the offers that have been taken or are void, and takes new ones while it holds fewer than 64:
of each block in the order of R220, of several blocks in the order of their walkers and of their WALKs (log 50). -/
def State.offerTo (s : State) (h : Nat) : State :=
  let x := s.grotto h
  let kept := x.offers.filter fun o => match s.blk o.1 o.2.1 with | some b => s.offerable h b o.2.2 | none => false
  let l := s.grottos.foldl (fun l p => p.2.blocks.foldl (fun l b =>
    l ++ (b.firstSteps (fun n => s.offerable h b n && !l.contains (p.1, b.id, n)) (64 - l.length)).map fun n => (p.1, b.id, n)) l) kept
  if l == x.offers then s else s.setGrotto h { x with offers := l }

/-- Every walker offers what it can. -/
def State.offer (s : State) : State :=
  if s.grottos.all fun p => p.2.blocks.isEmpty && p.2.offers.isEmpty then s
  else s.grottos.foldl (fun s p => if p.2.started then s.offerTo p.1 else s) s

/-- The step a level offers to a core: grotto, block, chain. -/
def State.stepFor (s : State) (c l : Nat) : Option (Nat × Nat × Nat) :=
  (s.grotto (grottoOf c)).offers.find? fun o =>
    match s.blk o.1 o.2.1 with
    | some b => b.op.r.pri == l && s.chainFor b c o.2.2
    | none => false

/-! ## Pops (R213-R215) -/

/-- R213: place of the oldest eligible record among the 16 oldest of a level. -/
def Grotto.oldest (x : Grotto) (c l : Nat) : Option Nat := ((x.queue l).take 16).findIdx? fun r => !r.pin || r.coreNo == c

/-- What a level gives to a core: from the queue, an offered step, by turns where it has both (R221). -/
inductive Source where
  | queue (i : Nat)
  | step (g b n : Nat)
  deriving DecidableEq, Repr

/-- A record eligible for the core waits in the cache. -/
def State.recordWaits (s : State) (c : Nat) : Bool := [0, 1, 2, 3].any fun l => ((s.grotto (grottoOf c)).oldest c l).isSome
/-- R215: after four handler starts while a record waited, the next free context is for a pop. -/
def State.popFirst (s : State) (c : Nat) : Bool := 4 ≤ (s.core c).handlerRun && s.recordWaits c

/-- A level's source for a core. The spec does not say whether a level that holds only offered steps counts as non-empty where R214 chooses a
level and R216 finds a core with nothing: here it does (log 50). -/
def State.source (s : State) (c l : Nat) : Option Source :=
  let x := s.grotto (grottoOf c)
  match x.oldest c l, if s.popFirst c then none else s.stepFor c l with
  | some i, some (g, b, n) => some (if Tab.get (fun _ => false) x.alt l then .step g b n else .queue i)
  | some i, none => some (.queue i)
  | none, some (g, b, n) => some (.step g b n)
  | none, none => none

/-- R214: the level a pop takes, and the counters after it. -/
def pickLevel (n : Tab Nat) : List Nat → Option (Nat × Tab Nat)
  | [] => none
  | [l] => some (l, Tab.set (fun _ => 0) n l (Tab.get (fun _ => 0) n l + 1))
  | l :: t =>
    let v := Tab.get (fun _ => 0) n l
    if v < 16 then some (l, Tab.set (fun _ => 0) n l (v + 1)) else pickLevel (Tab.set (fun _ => 0) n l 0) t

/-- Level, counters after, and source of the next start on a core: a level of offered steps alone is one of R214's non-empty levels (log
50). -/
def State.nextSource (s : State) (c : Nat) : Option (Nat × Tab Nat × Source) :=
  match pickLevel (s.grotto (grottoOf c)).n ([0, 1, 2, 3].filter fun l => (s.source c l).isSome) with
  | none => none
  | some (l, n) => (s.source c l).map fun q => (l, n, q)

/-- R215: handler starts come before pops, but for one pop after four of them while a record waited. -/
def State.handlerFirst (s : State) (c : Nat) : Bool := !(s.core c).handlers.isEmpty && !s.popFirst c

/-- Cores in the order in which the head serves them. -/
def Grotto.serveOrder (x : Grotto) (g : Nat) : List Nat := (List.range 32).map fun i => 32 * g + (x.served + 1 + i) % 32

/-- Take a record out of a queue. -/
def Grotto.takeRec (x : Grotto) (l i : Nat) : Grotto :=
  { x.setQueue l ((x.queue l).eraseIdx i) with popped := Tab.set (fun _ => 0) x.popped l (Tab.get (fun _ => 0) x.popped l + 1) }

/-- The core a pop of grotto `g` serves, with its level and place. -/
def State.popFor (s : State) (g : Nat) : Option (Nat × Nat × Nat × Tab Nat × Nat) :=
  ((s.grotto g).serveOrder g).findSome? fun c =>
    match (s.core c).freeCtxs with
    | [] => none
    | k :: _ =>
      if s.handlerFirst c then none
      else match s.nextSource c with
      | some (l, n, .queue i) => some (c, k, l, n, i)
      | _ => none

/-- GROTTO_POP (R215). -/
def execGrottoPop (g : Nat) (s : State) : Out :=
  .next <|
    match s.popFor g with
    | none => s
    | some (c, k, l, n, i) =>
      match ((s.grotto g).queue l)[i]? with
      | none => s
      | some r =>
        -- a resume whose spill area is in transit waits (R309)
        if r.resume && r.tid.isSome && s.spillTransit r then s
        else
        let x := (s.grotto g).takeRec l i
        let s := s.setGrotto g { x with n := n, served := c % 32, alt := Tab.set (fun _ => false) x.alt l true }
        (s.modCore c fun y => { y with handlerRun := 0 }).startRec c k r

/-! ## Steals (R216) -/

/-- A record the head could give away. -/
def Rec.free (r : Rec) : Bool := !r.pin && !r.resume
def Grotto.spare (x : Grotto) (l : Nat) : Option Nat := ((x.queue l).take 16).findIdx? Rec.free
def Grotto.spareLevel (x : Grotto) : Option Nat := [0, 1, 2, 3].find? fun l => (x.spare l).isSome

/-- R216: the surplus bit as it stands. -/
def State.surplusNow (s : State) (g : Nat) : Bool :=
  (s.grotto g).started && (s.grotto g).spareLevel.isSome && (coresOf g).all fun c => (s.core c).freeCtxs.isEmpty

/-- A core of the grotto with a free context and nothing for it. -/
def State.idleCore (s : State) (g : Nat) : Option (Nat × Nat) :=
  ((s.grotto g).serveOrder g).findSome? fun c =>
    match (s.core c).freeCtxs with
    | [] => none
    | k :: _ => if (s.nextSource c).isNone && (s.core c).handlers.isEmpty then some (c, k) else none

/-- A head that has a core to steal for is to make one more attempt. -/
def State.wantMore (s : State) (g : Nat) : State :=
  if (s.grotto g).started && (s.idleCore g).isSome then s.setGrotto g { s.grotto g with want := (s.grotto g).want + 1 } else s

/-- R216: every surplus bit is announced, and a rise lets each other grotto of the die try once, as does the emptying of its own last
level, whatever took the record. -/
def State.announce (s : State) : State :=
  s.grottos.foldl (fun s p =>
    let x := s.grotto p.1
    let now := s.surplusNow p.1
    let stocked := x.queues.any fun q => !q.2.isEmpty
    if now == x.surplus && stocked == x.stocked then s
    else
      let s := s.setGrotto p.1 { x with surplus := now, stocked := stocked }
      let s := if x.stocked && !stocked then s.wantMore p.1 else s
      if now && !x.surplus then s.grottos.foldl (fun s q => if q.1 / 8 == p.1 / 8 && q.1 != p.1 then s.wantMore q.1 else s) s else s) s

/-- STEAL (R216): one attempt, for a core that still has nothing; where none has, it lapses. -/
def execSteal (g : Nat) (s : State) : Out :=
  .next <|
    if (s.grotto g).want = 0 || !(s.grotto g).started then s
    else
    let s := s.setGrotto g { s.grotto g with want := (s.grotto g).want - 1 }
    match s.idleCore g with
    | some (c, k) =>
      match ((List.range 7).map fun i => g / 8 * 8 + (g + 1 + i) % 8).find? fun v => (s.grotto v).surplus with
      | none => s
      | some v =>
        match (s.grotto v).spareLevel with
        | none => s
        | some l =>
          match (s.grotto v).spare l with
          | none => s
          | some i =>
            match ((s.grotto v).queue l)[i]? with
            | none => s
            | some r => (s.setGrotto v ((s.grotto v).takeRec l i)).startRec c k r
    | none => s

/-! ## Handlers (R157) -/

/-- HANDLER_START. -/
def execHandlerStart (c : Nat) (s : State) : Out :=
  .next <|
    match (s.core c).freeCtxs, (s.core c).handlers with
    | k :: _, h :: t =>
      if !s.handlerFirst c then s
      else
        let waits := s.recordWaits c
        let s := s.modCore c fun x => { x with handlers := t, handlerRun := if waits then x.handlerRun + 1 else 0 }
        let (n, s) := s.newTid
        let r : Rec := { code := h.code, frame := 0, joina := 0, live := 0, pf := 0, space := h.space, lid := h.lid, far := false,
                         tid := none, got := none, views := none, fault := none, recorded := [] }
        s.startTask c k 0 { r := r, gang := none, handler := true, step := none, tid := n }
          [(1, h.dst), (2, BitVec.ofNat 64 h.len), (3, BitVec.ofNat 64 h.sender)] none
    | _, _ => s

/-! ## Spills (R159, R217) -/

/-- A waiting or parked context that may be spilled now; one that a pre-emption has stopped is saved from where it is (R288), and one whose
window store has been answered keeps the answer (R368). -/
def State.mayStop (s : State) (c k : Nat) : Bool :=
  let x := s.ctx c k
  (match x.run with | .waiting _ | .parked _ _ => true | _ => false) && x.level == 0 && x.delay.isNone && !x.preempt && !x.answered &&
  (match x.task with | some t => t.spillable | none => false)

/-- Drained, its store buffer empty (R130). -/
def State.settled (s : State) (c k : Nat) : Bool := (s.core c).drained k && (s.ctx c k).acc.isEmpty

/-- SPILL (R159): the earliest stopped context gives way to a ready record of the grotto queue; an abandoned spill changes nothing (R286). -/
def execSpill (c k : Nat) (s : State) : Out :=
  .next <|
    let g := grottoOf c
    let x := s.ctx c k
    let first := [0, 1, 2, 3].all fun j => !(s.mayStop c j && (s.ctx c j).since < x.since)
    if !(s.mayStop c k && s.settled c k && first && (s.core c).started && (s.core c).freeCtxs.isEmpty && s.recordWaits c &&
        (s.grotto g).waits.length < 256) then s
    else match x.task with
    | none => s
    | some t =>
      match s.spillState c k t with
      | none => s
      | some u =>
        let w := match x.run with | .waiting w => some w | _ => none
        let u := u.setGrotto g { u.grotto g with waits := (u.grotto g).waits ++ [⟨w, t.r.asResume c t.tid, c⟩] }
        u.freeCtx c k

/-- What a spilled wait has found: the result to write, or that the instruction is to issue again. -/
inductive Found where
  | result (d : Nat) (v : Word)
  | again
  /-- a trap that its resume enters (R164) -/
  | trap (cause : Nat) (info : Word)
  | not
  deriving DecidableEq, Repr

def State.waitNow (s : State) (w : WaitEntry) : Found :=
  match w.r.got with
  | some (d, v) => .result d v
  | none =>
    match w.wait with
    | some (.future d a) =>
      match s.readAgain w.core w.r.space a 8 with
      | .here pa => if futureFull (s.seenWord pa) then .result d (s.seenWord pa) else .not
      | .lost => .again
      | .notYet => .not
    | some (.pipe d wr n) =>
      match s.pipeNow w.core w.r.space n with
      | .here pa =>
        let p := s.pipeAt pa
        if !p.ok then .trap 0x13 (BitVec.ofNat 64 n) else if p.blocked wr then .not else .result d (p.slot wr)
      | .lost => .again
      | .notYet => .not
    | _ => .not

/-- WAIT_RESUME (R159): the i-th wait entry of a grotto. A get that fails gives up its end (R164). -/
def execWaitResume (g i : Nat) (s : State) : Out :=
  .next <|
    match (s.grotto g).waits[i]? with
    | none => s
    | some w =>
      let push := fun (u : State) (r : Rec) =>
        match (u.setGrotto g { u.grotto g with waits := (u.grotto g).waits.eraseIdx i }).pushRec g r 0 with
        | some t => t
        | none => s
      let dropped := match w.wait with
        | some (.pipe _ wr n) => s.modLaunch w.r.space fun l => l.drop n wr
        | _ => s
      match s.waitNow w with
      | .not => s
      | .result d v => push s { w.r with got := some (d, v) }
      | .trap cause info => push dropped { w.r with fault := some (cause, info) }
      | .again => push dropped w.r

/-! ## Walker steps (R220-R223) -/

/-- STEP_TAKE (R221). -/
def execStepTake (c : Nat) (s : State) : Out :=
  .next <|
    match (s.core c).freeCtxs, s.nextSource c with
    | k :: _, some (l, _, .step g b n) =>
      if s.handlerFirst c then s
      else match s.blk g b with
      | none => s
      | some w =>
        let ch := Tab.get (fun _ => Chain.init) w.chains n
        let idx := (stepIdx w.op.lev n ch.next).1
        let s := s.modBlk g b fun w => w.modChain n fun ch => { ch with running := true, core := some c }
        let x := s.grotto (grottoOf c)
        let s := s.setGrotto (grottoOf c) { x with alt := Tab.set (fun _ => false) x.alt l false }
        let (m, s) := s.newTid
        let r := { w.op.r with joina := 0, pf := w.op.r.pf ||| 4 }
        (s.modCore c fun x => { x with handlerRun := 0 }).startTask c k 256
          { r := r, gang := none, handler := false, step := some ⟨g, b, n, idx⟩, tid := m }
          (idx.mapIdx fun i v => (i + 1, BitVec.ofNat 64 v)) none
    | _, _ => s

/-- WALK_COMPLETE (R223): the i-th block of a walker. A refused join block, and one on a page with A (R341), is not decremented.
Where JOINA has no translation the walker tries again, and no record is placed: the spec names none for a walker (log 87). -/
def execWalkComplete (g i : Nat) (s : State) : Out :=
  .next <|
    match (s.grotto g).blocks[i]? with
    | none => s
    | some b =>
      if b.finished != b.op.steps || b.copies != 0 then s
      else
        let gone := s.setGrotto g { s.grotto g with blocks := (s.grotto g).blocks.eraseIdx i }
        let a := b.op.r.joina
        if a = 0 then gone
        else if !eaPlain a then gone
        else match s.reach b.op.r.space a.toNat true with
        | .miss | .wait => s
        | .refused => gone
        | .ok pa t h => if t.a || !t.r then gone else match gone.decrement none g b.op.r.space b.op.r.lid pa h with
          | some (t, _) => t
          | none => s

end Sys2Proof.Machine
end

