-- ==== Sys2Proof/Machine/Matrix.lean ====
section
/-! DEFINITION. When queued commands may start, the power allowances and hints, stationary regions and the matrix commands
(spec/11 R185-R186, spec/12 R196, spec/15 R245-R256, spec/17 R268-R277, spec/08 R144-R145, spec/32 R420). -/

namespace Sys2Proof.Machine

/-! ## Starting (R186, R95, R196) -/

/-- Parts of the register space that results in flight will write. -/
def Landing.hitsPart (l : Landing) (p : Part) : Bool :=
  p.rows && l.effs.any fun e => match e with
    | .gran g _ _ _ => accGran p.lo ≤ g && g < accGran (p.hi + 1)
    | .sideSet r _ | .sideOr r _ | .sideTag r _ => p.lo ≤ r && r ≤ p.hi
    | _ => false

/-- Bytes of the own slice that a pending access touches, as parts. -/
def State.accParts (s : State) (c : Nat) (a : Access) : List Part :=
  a.bits.filterMap fun b =>
    if s.ownSlice c (b / 8) then some ⟨false, sliceOff (b / 8), sliceOff (b / 8) + max 1 (a.ew / 8) - 1, a.kind.isStore⟩ else none

/-- No earlier command of any engine, no result in flight and no earlier pending access conflicts with the command. -/
def State.partsClear (s : State) (c : Nat) (m : Cmd) : Bool :=
  let x := s.core c
  (x.cmds.all fun o => !(o.id < m.id && o.parts.any fun q => m.parts.any q.hits)) &&
  (x.landings.all fun l => m.parts.all fun p => !l.hitsPart p) &&
  [0, 1, 2, 3].all fun k => (x.ctx k).acc.all fun a =>
    !(a.mark ≤ m.id) || (s.accParts c a).all fun q => m.parts.all fun p => !q.hits p

/-- R186, R227, R315: the commands of its engine that must come first have, and none holds it. -/
def Core.turnOf (x : Core) (m : Cmd) : Bool :=
  !x.held m && x.cmds.all fun o => !(o.id < m.id && o.engine == m.engine) ||
    (match m.engine with
    | .tile _ => false
    | .unit => true
    | _ => o.st.started)

/-- What a command needs of an earlier one before it may end, or, unless it must itself `ends`, before it may start: that it ends
(`some true`: R186, R196, R315) or that it starts (`some false`: R186, the order within an engine). -/
def Cmd.needs (o m : Cmd) (ends : Bool) : Option Bool :=
  if (ends && o.rl && o.ctx == m.ctx) || (o.engine == m.engine && m.engine.isTile) || (o.parts.any fun q => m.parts.any q.hits) then some true
  else if o.engine == m.engine && m.engine != .unit && !m.st.started then some false
  else none

/-- R289: what must run before a save can be answered: every command that a buffered release of a stopped context waits for (step 2), the
copies and collectives of the stopped members (step 5), and, from the last command back, every earlier one that one of these needs
(log 83). -/
def Core.awaited (x : Core) : List Nat :=
  (x.cmds.foldr (fun m l =>
    let t := x.ctx m.ctx
    let moves := t.preempt && !t.inStep && m.tid == t.tid && m.retire.isNone && m.engine != .matrix && !m.engine.isTile
    let released := t.preempt && t.acc.any fun b => b.rl && decide (m.id < b.mark)
    let asked := l.filterMap fun o => o.1.needs m o.2
    if moves || released || asked.contains true then (m, true) :: l
    else if asked.contains false then (m, false) :: l else l) ([] : List (Cmd × Bool))).map (·.1.id)

/-- R272: the core with one of its commands not started. -/
def Core.unstarted (x : Core) (m : Cmd) : Core := { x with cmds := x.cmds.map fun o => if o.id == m.id then { m with st := .queued } else o }

/-- R196: with AQ, every earlier load of the context has performed. -/
def Core.acquired (x : Core) (m : Cmd) : Bool := !m.aq || (x.ctx m.ctx).loads.all fun a => m.id < a.mark

/-- A queued command may start. -/
def State.mayStart (s : State) (c : Nat) (m : Cmd) : Bool :=
  m.st == .queued && (s.core c).turnOf m && (match m.engine with | .tile t => ((s.core c).tile t).sweep.isNone | _ => true) && (m.fail.isSome || (s.partsClear c m && (s.core c).acquired m))

/-! ## Allowances (R274-R276, R420) -/

/-- Lead-in and tail, interval of rises and falls, for each allowance. -/
def allowLead : AllowKind → Nat
  | .macros => 32
  | .tiles => 64
def allowStep : AllowKind → Nat
  | .macros => 16
  | .tiles => 64
def allowTop : AllowKind → Nat
  | .macros => 8
  | .tiles => 4

def Core.allow (x : Core) : AllowKind → Allow
  | .macros => x.allowM
  | .tiles => x.allowX
def Core.setAllow (x : Core) (u : AllowKind) (a : Allow) : Core :=
  match u with
  | .macros => { x with allowM := a }
  | .tiles => { x with allowX := a }

/-- R420: the cap that binds an allowance. -/
def State.cap (s : State) : AllowKind → Nat
  | .macros => s.koyth.capM
  | .tiles => s.koyth.capX

/-- Products of the crossbar (R274). -/
def isProduct (i : Instr) : Bool := match i with | .xmv _ | .xmvt _ => true | _ => false
def isMms (i : Instr) : Bool := match i with | .mms _ => true | _ => false
def isMldw (i : Instr) : Bool := match i with | .mldw _ => true | _ => false

/-- R274: macros with work ready or running: those of running commands whose next item may start; a group of an MLDW once its source
bytes have arrived (R269). -/
def Cmd.nextItem (m : Cmd) (rs : List Region) (mac : Nat) : Option (Nat × Nat) :=
  match Instr.ef m.ins, rs.find? fun r => r.id == m.reg with
  | some f, some r =>
    if !(isMms m.ins || isMldw m.ins) || mac < r.m0 || r.m0 + r.nm ≤ mac then none
    else
      let g0 := (f.eng.extractLsb' 24 10).toNat
      let (ng, nv) := if isMms m.ins then ((f.eng.extractLsb' 19 5).toNat, (f.eng.extractLsb' 8 11).toNat) else ((f.eng.extractLsb' 14 10).toNat, 1)
      let lo := g0 + m.skip
      -- the first group of the macro at or above `lo`
      let first := lo + (mac - r.m0 + r.nm - lo % r.nm) % r.nm
      let i := Tab.get (fun _ => 0) m.mac mac
      let g := first + r.nm * (i / nv)
      if g0 + ng ≤ g || (isMldw m.ins && g0 + m.arrived ≤ g) then none
      else match m.stopAt with
        | some h => if h < g then none else some (g, i % nv)
        | none => some (g, i % nv)
  | _, _ => none

/-- The macro works now. -/
def Core.macBusy (x : Core) (mac : Nat) : Bool := x.macs.any fun i => i.mac == mac
/-- The oldest running matrix command with an item for a macro. -/
def Core.macNext (x : Core) (mac : Nat) : Option (Cmd × Nat × Nat) :=
  x.cmds.findSome? fun m =>
    if m.engine == .matrix && m.st.running? then (m.nextItem x.regions mac).map fun p => (m, p.1, p.2) else none

def Core.demandM (x : Core) : Nat := ((List.range 64).filter fun n => x.macBusy n || (x.macNext n).isSome).length
/-- Tiles that a product holds, one that waits for a translation among them, or whose next command is a product that may start. -/
def State.demandX (s : State) (c : Nat) : Nat :=
  ((s.core c).cmds.filter fun m => isProduct m.ins && m.engine.isTile && (m.underway || s.mayStart c m)).length
def State.demand (s : State) (c : Nat) : AllowKind → Nat
  | .macros => (s.core c).demandM
  | .tiles => s.demandX c

/-- R276: the width that hints declare in a cycle. -/
def Allow.hint (a : Allow) (t : Nat) : Nat :=
  (a.hints.filter fun h => h.2.1 ≤ t && t ≤ h.2.2).foldl (fun n h => max n h.1) 0

/-- What an allowance is being timed for: a rise, a fall, or nothing. -/
def State.trend (s : State) (c : Nat) (u : AllowKind) : Option Bool :=
  let x := s.core c
  let a := x.allow u
  let d := s.demand c u
  if a.phase != .active then none
  else if s.cap u < a.a then some false
  else if (a.a < d || a.a < a.hint x.clock) && a.a < s.cap u then some true
  else if d < a.a && a.hint x.clock < a.a then some false
  else none

/-- Begin a lead-in (R275). -/
def Core.beginLead (x : Core) (u : AllowKind) : Core :=
  x.setAllow u { x.allow u with phase := .leadIn, mark := x.clock + allowLead u }

/-- What the end of a cycle does to an allowance: past hints go, a burst declared for the next cycle opens, the interval of a rise or
a fall is timed. -/
def State.trackAllow (s : State) (c : Nat) (u : AllowKind) : State :=
  let x := s.core c
  let a := x.allow u
  let t := x.clock + 1
  let a' : Allow := match s.trend c u with
    | none => if a.phase == .active then { a with mark := t } else a
    | some up => if a.up == up then a else { a with up := up, mark := x.clock }
  let a' := { a' with hints := a'.hints.filter fun h => t ≤ h.2.2 }
  let a' := if a'.phase == .rest && 0 < a'.hint t then { a' with phase := .leadIn, mark := t + allowLead u } else a'
  if a' == a then s else s.setCore c (x.setAllow u a')

/-! ## Places (R268-R271) -/

def Core.regionId (x : Core) (id : Nat) : Option Region := x.regions.find? fun r => r.id == id
def macroParts (m0 nm : Nat) (write : Bool) : List Part := [⟨false, 65536 * m0, 65536 * (m0 + nm) - 1, write⟩]
def EF.mmsNg (f : EF) : Nat := (f.eng.extractLsb' 19 5).toNat
def EF.mmsNv (f : EF) : Nat := (f.eng.extractLsb' 8 11).toNat
/-- Items a matrix command runs in all. -/
def Cmd.itemCount (m : Cmd) (f : EF) : Nat :=
  if isMms m.ins then (Machine.EF.mmsNg f - m.skip) * Machine.EF.mmsNv f else (f.eng.extractLsb' 14 10).toNat

/-- Places in use. -/
def Core.places (x : Core) : Nat := x.macs.length

/-- Weight bytes of a group (R245): macro and offset. -/
def groupAt (r : Region) (g : Nat) : Nat := 65536 * (r.m0 + g % r.nm) + 3072 * (g / r.nm)

/-- Bits `lo` to `lo + n` of logical row `b` of an operand, plain or under a layout, as elements of `w` bits; status; A. -/
def State.rowPiece (s : State) (c : Nat) (m : Cmd) (lay : Bool) (b lo n w : Nat) : List Nat × Nat × Bool :=
  if lay then
    let l := layOf m.lsrc
    let g := s.layElems c m.space m.va.toNat l b (l.holds lo n)
    ((List.range (n / w)).map fun i => (g.1.toNat / 2 ^ (lo + w * i)) % 2 ^ w, g.2.bad, g.2.a)
  else
    let g := s.engRead c m.space (m.va.toNat + 768 * b + lo / 8) (n / 8)
    ((List.range (n / w)).map fun i => leNat ((g.bytes.drop (i * (w / 8))).take (w / 8)), g.bad, g.a)

/-- Type of the activations of an MMS. -/
def EF.act (f : EF) : Nat := f.r.ty.toNat
/-- Cycles of a pair (R252) and of a group load (R269). -/
def itemCycles (i : Instr) (f : EF) : Nat := if isMms i && Machine.EF.act f != 9 then 12 else 24

/-- The item a macro starts: what it reads it reads now (R269, R270). -/
def State.newItem (s : State) (c : Nat) (m : Cmd) (f : EF) (mac g b : Nat) : MacItem :=
  let g0 := (f.eng.extractLsb' 24 10).toNat
  let due := (s.core c).clock + itemCycles m.ins f
  if isMms m.ins then
    let w := tyWidth (Machine.EF.act f)
    let p := s.rowPiece c m (f.r.b != 0) b (32 * (g - g0) * w) (32 * w) w
    ⟨mac, m.id, g, b, due, p.1, p.2.1, p.2.2⟩
  else
    let p := s.engReads c m.space (m.va.toNat + 3072 * (g - g0)) 96
    ⟨mac, m.id, g, b, due, p.bytes.map (·.toNat), p.bad, p.a⟩

/-- Ranges an item reads, to find missing translations (R269, R270). -/
def Cmd.itemTouch (m : Cmd) (f : EF) (g b : Nat) : List (Nat × Nat × Bool) :=
  let g0 := (f.eng.extractLsb' 24 10).toNat
  if isMms m.ins then
    let w := tyWidth (Machine.EF.act f)
    let lo := 32 * (g - g0) * w
    if f.r.b != 0 then
      let l := layOf m.lsrc
      (List.range l.n).filterMap fun k => if l.holds lo (32 * w) k then some (m.va.toNat + l.at b k / 8, max 1 (l.e / 8), false) else none
    else [(m.va.toNat + 768 * b + lo / 8, 4 * w, false)]
  else [(m.va.toNat + 3072 * (g - g0), 3072, false)]

/-- Items started so far. -/
def Cmd.begun (m : Cmd) : Nat := (m.mac.map (·.2)).sum

/-- R185: once its last item has started a matrix command reads its operand no more. -/
def Cmd.readLast (m : Cmd) (r : Region) (items : Nat) : Cmd :=
  if m.begun = items then { m with parts := m.parts.filter fun p => p.write || p.rows || (macroParts r.m0 r.nm false).contains p } else m

/-- The operand of an MMS or an MLDW. -/
def Cmd.operand (m : Cmd) (f : EF) : List (Nat × Nat × Bool) :=
  if isMms m.ins then [if f.r.b != 0 then layTouch m.va.toNat (layOf m.lsrc) (Machine.EF.mmsNv f) false else (m.va.toNat, 768 * Machine.EF.mmsNv f, false)]
  else [(m.va.toNat, 3072 * m.itemCount f, false)]

/-- One macro starts its next item, where there is a place for it. -/
def State.startMac (s : State) (c mac : Nat) (m : Cmd) (g b : Nat) : State :=
  match Instr.ef m.ins with
  | none => s
  | some f =>
    let v := s.through m
    if !s.partsClear c m then s
    else match v.firstMiss m.space (m.itemTouch f g b) with
    | .at va w => s.missCmd c m va w
    | .transit => s
    | .refused | .none =>
      let it := v.newItem c m f mac g b
      let s := s.keepStream c m (m.itemTouch f g b) (m.operand f)
      s.modCore c fun x =>
        { (x.modCmd m.id fun m =>
            let m := { m with mac := Tab.set (fun _ => 0) m.mac mac (Tab.get (fun _ => 0) m.mac mac + 1) }
            match x.regionId m.reg with | some r => m.readLast r (m.itemCount f) | none => m) with macs := x.macs ++ [it] }

/-- R271: idle macros with an item, oldest command first, then lowest macro. -/
def Core.waitingMacs (x : Core) : List (Nat × Cmd × Nat × Nat) :=
  let l := ((List.range 64).filter fun n => !x.macBusy n).filterMap fun n => (x.macNext n).map fun p => (n, p)
  x.cmds.flatMap fun m => l.filter fun p => p.2.1.id == m.id

/-- Fill the free places within the allowance. -/
def State.fillPlaces (s : State) (c : Nat) : State :=
  let x := s.core c
  let free := min x.allowM.a (s.cap .macros) - x.places
  (x.waitingMacs.take free).foldl (fun s p => s.startMac c p.1 p.2.1 p.2.2.1 p.2.2.2) s

/-- Open a burst where work is ready and none is open; a command that an event did not start holds its context through the lead-in,
and through a tail in which none opens (R275). -/
def State.openBurst (s : State) (c : Nat) (u : AllowKind) (m : Cmd) : State :=
  let a := (s.core c).allow u
  let hold := fun (s : State) (t : Nat) =>
    if (match Instr.ef m.ins with | some f => f.ev | none => false) then s else s.modCtx c m.ctx fun x => { x with stall := max x.stall t }
  match a.phase with
  | .rest => hold (s.modCore c fun x => x.beginLead u) ((s.core c).clock + allowLead u)
  | .tail => hold s a.mark
  | _ => s

/-! ## Allowance events -/

/-- ALLOWANCE_RISE (R274). -/
def execAllowanceRise (c : Nat) (u : AllowKind) (s : State) : Out :=
  .next <|
    let x := s.core c
    let a := x.allow u
    if s.trend c u == some true && a.up && a.mark + allowStep u ≤ x.clock then
      (s.setCore c (x.setAllow u { a with a := a.a + 1, mark := x.clock })).fillPlaces c
    else s

/-- ALLOWANCE_FALL (R274). -/
def execAllowanceFall (c : Nat) (u : AllowKind) (s : State) : Out :=
  .next <|
    let x := s.core c
    let a := x.allow u
    if s.trend c u == some false && !a.up && a.mark + allowStep u ≤ x.clock then
      let n := if s.cap u < a.a then s.cap u else a.a - 1
      s.setCore c (x.setAllow u (if n = 0 then { a with a := 0, phase := .tail, mark := x.clock + allowLead u } else { a with a := n, mark := x.clock }))
    else s

/-- LEAD_IN_END (R274, R275): the first rise from 0, where work is ready or a hint asks for a place. -/
def execLeadInEnd (c : Nat) (u : AllowKind) (s : State) : Out :=
  .next <|
    let x := s.core c
    let a := x.allow u
    if a.phase == .leadIn && a.mark ≤ x.clock then
      if s.demand c u = 0 && a.hint x.clock = 0 then s.setCore c (x.setAllow u { a with phase := .rest })
      else (s.setCore c (x.setAllow u { a with a := 1, phase := .active, up := true, mark := x.clock })).fillPlaces c
    else s

/-- The oldest command whose work waits for an allowance. -/
def State.waitingFor (s : State) (c : Nat) (u : AllowKind) : Option Cmd :=
  (s.core c).cmds.find? fun m =>
    match u with
    | .macros => m.engine == .matrix && m.st.running? && (List.range 64).any fun n => (m.nextItem (s.core c).regions n).isSome
    | .tiles => isProduct m.ins && s.mayStart c m

/-- TAIL_END (R274): work that waited, or a hint, opens the next burst. -/
def execTailEnd (c : Nat) (u : AllowKind) (s : State) : Out :=
  .next <|
    let x := s.core c
    let a := x.allow u
    if a.phase == .tail && a.mark ≤ x.clock then
      let s := s.setCore c (x.setAllow u { a with phase := .rest })
      if 0 < a.hint x.clock then s.modCore c fun x => x.beginLead u
      else match s.waitingFor c u with
        | some m => s.openBurst c u m
        | none => s
    else s

/-! ## MHINT (R255, R276) -/

/-- A hint of `top` at most. -/
def State.hint (s : State) (i : Instr) (f : EF) (u : AllowKind) : Out :=
  s.issueEngine i f 0 [] fun s =>
    let nm := (f.eng.extractLsb' 36 4).toNat
    let lead := (f.eng.extractLsb' 24 12).toNat
    let len := (f.eng.extractLsb' 8 16).toNat
    if nm = 0 || allowTop u < nm || len = 0 || f.eng.extractLsb' 0 8 != 0 then .trap 0x0D (EF.word i)
    else
      let t := s.now + lead
      let b := max s.now (t - (allowLead u + allowStep u * (nm - 1)))
      .done (s.modMy fun x =>
        let a := x.allow u
        let x := x.setAllow u { a with hints := a.hints ++ [(nm, b, t + len - 1)] }
        if b = x.clock && a.phase == .rest then x.beginLead u else x)

/-- MHINT SUB 0. -/
def execMhintMms (f : EF) (s : State) : Out := s.hint (.mhintMms f) f .macros
/-- MHINT SUB 1. -/
def execMhintXmv (f : EF) (s : State) : Out := s.hint (.mhintXmv f) f .tiles

/-! ## Regions (R245, R247, R248) -/

def Core.region (x : Core) (m0 : Nat) : Option Region := x.regions.find? fun r => r.m0 == m0 && !r.gone
def Core.markedMacros (x : Core) : Nat := ((x.regions.filter fun r => !r.gone).map (·.nm)).sum
/-- A run of macros meets a marked one. -/
def Core.runMarked (x : Core) (m0 nm : Nat) : Bool := x.regions.any fun r => !r.gone && r.m0 < m0 + nm && m0 < r.m0 + r.nm

def EF.m0 (f : EF) : Nat := (f.eng.extractLsb' 34 6).toNat

/-- A matrix command enters its queue (R246). -/
def State.enterMatrix (s : State) (f : EF) (m : Cmd) (then' : Core → Core) : Issue :=
  s.evCheck f <| s.checkDiscard f.rl <|
    if 32 ≤ (s.myCore.cmds.filter fun m => m.engine == .matrix).length then .wait s
    else .done ((s.modMy fun x => then' (x.enqueue m)).noteStore)

/-- Zero bytes of a slice, as an engine writes them. -/
def State.zeroSlice (s : State) (c off n : Nat) : State :=
  let a := s.sliceBase c + off
  let s := { s with mem := s.mem.filter fun p => !(a ≤ p.1 && p.1 < a + n)
                    poison := s.poison.filter fun l => !(a ≤ 64 * l && 64 * l + 64 ≤ a + n) }
  let s := s.clearResv none a n
  if (s.core c).ltags.any fun p => off / 64 ≤ p.1 && p.1 < (off + n) / 64 then
    s.modCore c fun x => { x with ltags := x.ltags.filter fun p => !(off / 64 ≤ p.1 && p.1 < (off + n) / 64) }
  else s

/-- R424: a macro of a run is retired. -/
def State.macroRetired (s : State) (c m0 nm : Nat) : Bool := (List.range nm).any fun i => s.koyth.retired.contains (0x3000000 + c * 256 + m0 + i)

/-- MSTN (R247). -/
def execMstn (f : EF) (s : State) : Out :=
  s.issueEngine (.mstn f) f 0 [] fun s =>
    let m0 := Machine.EF.m0 f
    let nm := (f.eng.extractLsb' 28 6).toNat
    let ng := (f.eng.extractLsb' 18 10).toNat
    let lsg := (f.eng.extractLsb' 15 3).toNat
    if !(1 ≤ nm && nm ≤ 32 && m0 + nm ≤ 64 && 1 ≤ ng && ng ≤ 21 * nm && lsg ≤ 5 && ng % 2 ^ lsg == 0 && f.eng.extractLsb' 0 15 == 0) ||
        s.myCore.runMarked m0 nm || s.macroRetired s.curCore m0 nm || 32 < s.myCore.markedMacros + nm then .trap 0x0D (EF.word (.mstn f))
    else if s.me.inStep then .trap 0x15 0
    else
      let id := s.myCore.nextCmd
      let r : Region := { id := id, gone := false, owner := s.me.tid, m0 := m0, nm := nm, ng := ng, lsg := lsg, ty := f.r.ty.toNat, bad := [] }
      s.enterMatrix f { s.newCmd (.mstn f) f .matrix (macroParts m0 nm true) with reg := id } fun x => { x with regions := x.regions ++ [r] }

/-- What a running MSTN does. -/
def State.runMstn (s : State) (c : Nat) (m : Cmd) : State :=
  match (s.core c).regionId m.reg with
  | none => s
  | some r =>
    let s := (List.range r.ng).foldl (fun s g => s.zeroSlice c (groupAt r g) 3072) s
    s.modCore c fun x => { x with regions := x.regions.map fun q => if q.id == r.id then { q with bad := [] } else q }

/-- MRLS (R248): the region is gone at issue; its macros read zero once the command has run. -/
def execMrls (f : EF) (s : State) : Out :=
  s.issueEngine (.mrls f) f 0 [] fun s =>
    match (if f.eng.extractLsb' 0 34 == 0 then s.myCore.region (Machine.EF.m0 f) else none) with
    | none => .trap 0x0D (EF.word (.mrls f))
    | some r =>
      if s.me.inStep then .trap 0x15 0
      else s.enterMatrix f { s.newCmd (.mrls f) f .matrix (macroParts r.m0 r.nm true) with reg := r.id } fun x =>
        { x with regions := x.regions.map fun q => if q.id == r.id then { q with gone := true } else q }

/-- What a running MRLS does. -/
def State.runMrls (s : State) (c : Nat) (m : Cmd) : State :=
  match (s.core c).regionId m.reg with
  | none => s
  | some r => (s.zeroSlice c (65536 * r.m0) (65536 * r.nm)).modCore c fun x => { x with regions := x.regions.filter fun q => q.id != r.id }

/-! ## Operands in the own slice (R250, R254, R315) -/

/-- Bytes of an operand, given by virtual bit addresses: where `mark` gives a detail, outside marked macros, else trap 0x0D; in the own
slice, else trap 0x0E with the first byte outside (R30: check 10 before the instruction's own causes). -/
def State.ownOperand (s : State) (base : Word) (mark : Option Word) (vbits : List Nat) (body : Issue) : Issue :=
  if !eaPlain base then .trap 0x0E base
  else
    let pages := pagesOf vbits
    match s.lookAll s.curCore s.curCtx (pages.map (BitVec.ofNat 64)) with
    | .wait a => .wait (s.modMe (·.ask a))
    | .miss a => .park 6 a
    | .malformed a => .trap 0x0E a
    | .ok trs =>
      let tr := List.zip pages (trs.map (·.1))
      let at' := fun b => mapBit tr b / 8
      let go := match vbits.find? fun b => 2 ^ 52 ≤ b / 8 || !s.ownSlice s.curCore (at' b) with
        | some b => .trap 0x0E (BitVec.ofNat 64 (b / 8))
        | none => body
      match mark with
      | some info => if vbits.any fun b => s.markedByte (at' b) then .trap 0x0D info else go
      | none => go

/-- Virtual bit addresses of `n` contiguous bytes, one per 64-byte line. -/
def lineBits (a : Word) (n : Nat) : List Nat := (List.range ((n + 63) / 64)).map fun i => 8 * (a.toNat + 64 * i)

/-! ## MLDW (R249) -/

/-- MLDW. -/
def execMldw (f : EF) (s : State) : Out :=
  s.issueEngine (.mldw f) f 0 [f.r.a.toNat] fun s =>
    let a := s.getS f.r.a
    let g0 := (f.eng.extractLsb' 24 10).toNat
    let ng := (f.eng.extractLsb' 14 10).toNat
    if !eaAligned a then .trap 0x08 a
    else match (if f.eng.extractLsb' 0 14 == 0 then s.myCore.region (Machine.EF.m0 f) else none) with
    | none => .trap 0x0D (EF.word (.mldw f))
    | some r =>
      if ng = 0 || r.ng < g0 + ng || f.r.ty.toNat != r.ty then .trap 0x0D (EF.word (.mldw f))
      else if eaPlain a && (pagesIn a.toNat (3072 * ng)).any fun v => match s.reach s.me.space v false with
          | .ok _ _ _ => false
          | _ => (match s.homeAnswer s.me.space v with | .hit e => s.markedByte (e.pa v) | _ => false) then .trap 0x0D (EF.word (.mldw f))
      else if s.me.inStep then .trap 0x15 0
      else if !eaPlain a then .trap 0x0E a
      else s.enterMatrix f { s.newCmd (.mldw f) f .matrix
        (s.rangeParts s.curCore s.me.space (eaVa a) (3072 * ng) false ++ macroParts r.m0 r.nm true) with reg := r.id } id

/-- MERR of the context that issued a matrix command (R253); the command's completion then counts as a fault (R243). -/
def State.matrixFault (s : State) (c : Nat) (m : Cmd) (code : Nat) : State :=
  (s.modCore c fun x => x.modCmd m.id fun m => { m with poison := true }).modCtx c m.ctx fun x => { x with engStatus := (x.engStatus &&& 0xFF00FFFFFFFFFFFF) ||| (BitVec.ofNat 64 code <<< 48) }

/-- The multiplier of a nibble, as the macro stores it (R269). -/
def multiplier (ty n : Nat) : Nat :=
  let v := sInt 4 n
  wrapInt 4 (if ty = 14 then max (-4) (min 3 v) else v)

/-- A group's poison mark. -/
def State.markGroup (s : State) (c id g : Nat) (bad : Bool) : State :=
  s.modCore c fun x => { x with regions := x.regions.map fun q =>
    if q.id == id then { q with bad := if bad then g :: q.bad.filter (· != g) else q.bad.filter (· != g) } else q }

/-- The end of a group load. -/
def State.groupLoaded (s : State) (c : Nat) (m : Cmd) (r : Region) (i : MacItem) : State :=
  if i.bad == 3 then (s.matrixFault c m 3).markGroup c r.id i.g true
  else if i.bad != 0 || i.a then s.matrixFault c m 2
  else
    let bs := i.data.map fun n => BitVec.ofNat 8 (multiplier r.ty (n % 16) + 16 * multiplier r.ty (n / 16))
    (s.storeAt none (s.sliceBase c + groupAt r i.g) bs none).markGroup c r.id i.g false

/-- WEIGHT_GROUP_LOAD_COMPLETE (R269): the load that a macro runs ends. -/
def execWeightGroupLoadComplete (c m : Nat) (s : State) : Out :=
  .next <|
    let x := s.core c
    match x.macs.find? fun i => i.mac == m with
    | none => s
    | some i =>
      match x.findCmd i.cmd with
      | none => s
      | some q =>
        if !(isMldw q.ins && i.due ≤ x.clock) then s
        else
          let s := s.modCore c fun x =>
            { (x.modCmd q.id fun q => { q with prog := q.prog + 1 }) with macs := x.macs.filter fun j => j.mac != m }
          let s := match x.regionId q.reg with | some r => s.groupLoaded c q r i | none => s
          s.fillPlaces c

/-! ## MMS (R250-R252) -/

def EF.g0 (f : EF) : Nat := (f.eng.extractLsb' 24 10).toNat

/-- MMS. -/
def execMms (f : EF) (s : State) : Out :=
  s.issueEngine (.mms f) f 0 [f.r.d.toNat, f.r.a.toNat, f.r.b.toNat] fun s =>
    let info := EF.word (.mms f)
    let a := s.getS f.r.a
    let d := (s.getS f.r.d).toNat
    let w := s.getS f.r.b
    let ng := Machine.EF.mmsNg f
    let nv := Machine.EF.mmsNv f
    let g0 := Machine.EF.g0 f
    let reg := s.myCore.region (Machine.EF.m0 f)
    let sg := match reg with | some r => 2 ^ r.lsg | none => 1
    let rows := nv * (ng / sg)
    match s.me.rowsBad d rows with
    | some (k, i) => .trap k i
    | none =>
    if !eaAligned a then .trap 0x08 a
    else match reg with
    | none => .trap 0x0D info
    | some r =>
      if !(f.eng.extractLsb' 0 8 == 0 && g0 % sg == 0 && ng % sg == 0 && 1 ≤ ng && ng ≤ (if Machine.EF.act f = 9 then 12 else 24) && g0 + ng ≤ r.ng && 1 ≤ nv && nv ≤ 1024) then
        .trap 0x0D info
      else if f.r.b != 0 && !layoutOk w then .trap 0x0D w
      else
        let vb := if f.r.b != 0 then rowBitsLay a (layOf w) 0 nv else lineBits a (768 * nv)
        s.ownOperand a (some info) vb <|
          let act := if f.r.b != 0 then s.layParts s.curCore s.me.space a.toNat (layOf w) nv false
            else s.rangeParts s.curCore s.me.space a.toNat (768 * nv) false
          s.enterMatrix f { s.newCmd (.mms f) f .matrix
            (act ++ macroParts r.m0 r.nm false ++ [rowPart (grantBase s.me.grant + d) rows true]) with reg := r.id, lsrc := w } id

/-- R144: the group sum entered into a lane. -/
def groupSum (ty : Nat) (xs : List Fv) (ws : List Int) (acc : Nat) : Nat :=
  if ty = 9 then
    let ps := (List.zip xs ws).map fun p => fmtF32.round 0 (Fv.mul p.1 (.fin (p.2 < 0) |(p.2 : Rat)|)) 0
    let half := fun (l : List Nat) => (List.range (l.length / 2)).map fun i => rneAdd (l.getD (2 * i) 0) (l.getD (2 * i + 1) 0)
    rneAdd acc ((half (half (half (half (half ps))))).headD 0)
  else if xs.any Fv.isNan then fmtF32.canonNan
  else fmtF32.round 0 (Fv.add 0 (fmtF32.value acc) (Fv.ofSum 0 ((List.zip xs ws).map fun p => p.1.rat * (p.2 : Rat)).sum)) 0

/-- Weight of row `i` and column `j` of a group. -/
def State.weight (s : State) (c : Nat) (r : Region) (g i j : Nat) : Int :=
  let b := (s.byte (s.sliceBase c + groupAt r g + 96 * i + j / 2)).toNat
  sInt 4 (if j % 2 = 0 then b % 16 else b / 16)

/-- Absolute row that a pair adds into. -/
def Cmd.mmsRow (m : Cmd) (f : EF) (sg g b : Nat) : Nat :=
  m.gbase + m.vd.toNat + b * (Machine.EF.mmsNg f / sg) + (g - Machine.EF.g0 f) / sg

/-- A pair's sum enters its row (R251). -/
def State.enterPair (s : State) (c : Nat) (m : Cmd) (f : EF) (r : Region) (i : MacItem) : State :=
  let row := m.mmsRow f (2 ^ r.lsg) i.g i.b
  let x := s.core c
  let side := x.side row
  if sidePoison side then s.matrixFault c m 3
  else if i.bad != 0 || r.bad.contains i.g || s.macroRetired c r.m0 r.nm then
    (s.matrixFault c m (if i.bad = 2 then 2 else 3)).modCore c fun x => x.setSide row (mkSide (sideTag side) true)
  else
    let old := x.row (accGran row)
    let xs := i.data.map fun n => match fmtOf (Machine.EF.act f) with | some fm => fm.value n | none => .nan false
    let new := mapElems 32 allLanes fun j => groupSum (Machine.EF.act f) xs ((List.range 32).map fun k => s.weight c r i.g k j) (elem 32 old j)
    s.modCore c fun x => x.putAcc row new (if i.a then mkSide .unknown false else side)

/-- Position of a group within its row, and the position the row takes next (R252). -/
def Cmd.rowKey (_m : Cmd) (f : EF) (sg g b : Nat) : Nat := b * (Machine.EF.mmsNg f / sg) + (g - Machine.EF.g0 f) / sg
def Cmd.rowNext (m : Cmd) (f : EF) (sg g b : Nat) : Nat :=
  min sg (m.skip - sg * ((g - Machine.EF.g0 f) / sg)) + Tab.get (fun _ => 0) m.rows (m.rowKey f sg g b)

/-- Enter every finished pair whose turn in its row has come; `n` bounds how many. -/
def State.enterDue (s : State) (c q : Nat) (f : EF) (r : Region) : Nat → State
  | 0 => s
  | n + 1 =>
    match (s.core c).findCmd q with
    | none => s
    | some m =>
      match m.late.find? fun i => (i.g - Machine.EF.g0 f) % 2 ^ r.lsg == m.rowNext f (2 ^ r.lsg) i.g i.b with
      | none => s
      | some i =>
        let k := m.rowKey f (2 ^ r.lsg) i.g i.b
        let s := (s.enterPair c m f r i).modCore c fun x => x.modCmd q fun m =>
          { m with prog := m.prog + 1, late := m.late.erase i, rows := Tab.set (fun _ => 0) m.rows k (Tab.get (fun _ => 0) m.rows k + 1) }
        s.enterDue c q f r n

/-- MMS_PAIR_COMPLETE (R271, R252): the pair that a macro runs ends; sums enter their rows in ascending g. -/
def execMmsPairComplete (c m : Nat) (s : State) : Out :=
  .next <|
    let x := s.core c
    match x.macs.find? fun i => i.mac == m with
    | none => s
    | some i =>
      match x.findCmd i.cmd with
      | none => s
      | some q =>
        match Instr.ef q.ins, x.regionId q.reg with
        | some f, some r =>
          if !(isMms q.ins && i.due ≤ x.clock) then s
          else
            let s := s.modCore c fun x =>
              { (x.modCmd q.id fun q => { q with late := q.late ++ [i] }) with macs := x.macs.filter fun j => j.mac != m }
            (s.enterDue c q.id f r (q.late.length + 1)).fillPlaces c
        | _, _ => s

/-! ## SCACC (R254, R277) -/

def EF.scNv (f : EF) : Nat := (f.eng.extractLsb' 29 11).toNat
def EF.scNb (f : EF) : Nat := (f.eng.extractLsb' 24 5).toNat

/-- SCACC. -/
def execScacc (f : EF) (s : State) : Out :=
  s.issueEngine (.scacc f) f 0 [f.r.d.toNat, f.r.a.toNat, f.r.b.toNat] fun s =>
    let info := EF.word (.scacc f)
    let d := (s.getS f.r.d).toNat
    let p := (s.getS f.r.a).toNat
    let b := s.getS f.r.b
    let nv := Machine.EF.scNv f
    let nb := Machine.EF.scNb f
    match (s.me.rowsBad d nv).or (s.me.rowsBad p (nv * nb)) with
    | some (k, i) => .trap k i
    | none =>
    if !eaAligned b then .trap 0x08 b
    else if !(1 ≤ nv && nv ≤ 1024 && 1 ≤ nb && nb ≤ 24 && f.eng.extractLsb' 0 24 == 0) || (d < p + nv * nb && p < d + nv) then .trap 0x0D info
    else s.ownOperand b (some info) (lineBits b (384 * nb)) <|
      let g := grantBase s.me.grant
      s.enterMatrix f (s.newCmd (.scacc f) f .matrix
        (rowPart (g + p) (nv * nb) false :: rowPart (g + d) nv true :: s.rangeParts s.curCore s.me.space b.toNat (384 * nb) false)) id

/-- One step (b, s) of SCACC. -/
def State.scaccStep (s : State) (c : Nat) (m : Cmd) (f : EF) (b t : Nat) : State :=
  let x := s.core c
  let dr := m.gbase + m.vd.toNat + b
  let pr := m.gbase + m.va.toNat + b * Machine.EF.scNb f + t
  let g := (s.through m).engReads c m.space (m.vb.toNat + 384 * t) 12
  let ds := x.side dr
  let ps := x.side pr
  if g.bad != 0 || sidePoison ds || sidePoison ps then
    (s.matrixFault c m (if g.bad = 2 then 2 else 3)).modCore c fun x => x.setSide dr (mkSide (sideTag ds) true)
  else
    let sc := elemsOf 16 g.bytes
    let rm := f.r.rm.toNat
    let old := x.row (accGran dr)
    let part := x.row (accGran pr)
    let new := mapElems 32 allLanes fun j =>
      let q := fmtF32.round rm (Fv.mul (fmtF32.value (elem 32 part j)) (fmtBf16.value (sc.getD j 0))) 0
      fmtF32.round rm (Fv.add rm (fmtF32.value q) (fmtF32.value (elem 32 old j))) 0
    let dt := sideTag ds
    let pt := sideTag ps
    let bd := if g.a then none else optAdd (optMul (maxMag (sc.map fmtBf16.value)) pt.val) dt.val
    let tag := if g.a || dt.b || pt.b then ⟨true, boundOf bd⟩ else Tag.exact
    s.modCore c fun x => x.putAcc dr new (mkSide tag false)

/-- Steps of a SCACC in all. -/
def EF.scSteps (f : EF) : Nat := Machine.EF.scNv f * Machine.EF.scNb f

/-- R277: the step of a running SCACC that ends now; the next one ends 4 cycles later, as it does after a wait. -/
def State.runScacc (s : State) (c : Nat) (m : Cmd) (f : EF) : State :=
  (s.scaccStep c m f (m.prog / Machine.EF.scNb f) (m.prog % Machine.EF.scNb f)).modCore c fun x => x.modCmd m.id fun m =>
    { m with prog := m.prog + 1, due := m.due.map fun d => max d (s.core c).clock + 4 }

end Sys2Proof.Machine
end

