-- ==== Sys2Proof/Machine/Devices.lean ====
section
/-! DEFINITION. The analog devices of a crossbar: conductances and their pulses, reference columns, converters, measurements (spec/20
R310, R319, R346, spec/22 R332-R337, spec/23 R344, R345). The constants of a device, and what devices and converters do within their stated
limits, are free values (log 21). -/

namespace Sys2Proof.Machine

def clampRat (lo hi x : Rat) : Rat := if x < lo then lo else if hi < x then hi else x
/-- A free value within limits. -/
def analogIn (n place : Nat) (lo hi : Rat) : Rat := clampRat lo hi (Config.analog n place)

/-- bf16 of a rational, to nearest. -/
def bf16Of (x : Rat) : BitVec 16 := BitVec.ofNat 16 (fmtBf16.round 0 (Fv.ofSum 0 x) 0)
def f32OfRat (x : Rat) : Nat := fmtF32.round 0 (Fv.ofSum 0 x) 0
def maxRat (xs : List Rat) : Rat := xs.foldl (fun a b => if a < b then b else a) 0

/-! ## Gains and conductances (R310, R312) -/

def Tile.thr (u : Tile) : BitVec 16 := u.gain.extractLsb' 48 16
def Tile.wmax (u : Tile) : Rat := (fmtBf16.value (u.gain.extractLsb' 32 16).toNat).rat
def Tile.gs (u : Tile) : Rat := (fmtBf16.value (u.gain.extractLsb' 16 16).toNat).rat
def Tile.gd (u : Tile) : Rat := (fmtBf16.value (u.gain.extractLsb' 0 16).toNat).rat

def Tile.dripAt (u : Tile) (i j : Nat) : Rat := Tab.get (fun _ => 0) u.drip (1024 * i + j)
def Tile.stoneAt (u : Tile) (i j : Nat) : Rat := Tab.get (fun _ => 0) u.stone (1024 * i + j)
def Tile.setDrip (u : Tile) (i j : Nat) (v : Rat) : Tile := { u with drip := Tab.set (fun _ => 0) u.drip (1024 * i + j) v }
def Tile.setStone (u : Tile) (i j : Nat) (v : Rat) : Tile := { u with stone := Tab.set (fun _ => 0) u.stone (1024 * i + j) v }
def Tile.symVal (u : Tile) (j : Nat) : Rat := (fmtBf16.value (u.sym j).toNat).rat
/-- R310: the effective weight. -/
def Tile.weight (u : Tile) (i j : Nat) : Rat := u.gs * u.stoneAt i j + u.gd * (u.dripAt i j - u.symVal j)

/-! ## Devices (R344, R345): `id` is 4 × core + tile -/

/-- A constant of a device of a tile, within its range. -/
def deviceIn (id kind i j : Nat) (lo hi : Rat) : Rat := clampRat lo hi (Config.device (4 * id + kind) (1024 * i + j))
/-- a⁺ and a⁻ of a drip device, their ratio between 1/3 and 3. -/
def dripUp (id i j : Nat) : Rat := deviceIn id 0 i j (1 / 256) (1 / 64)
def dripDown (id i j : Nat) : Rat := deviceIn id 1 i j (max (1 / 256) (dripUp id i j / 3)) (min (1 / 64) (3 * dripUp id i j))
/-- b of a stone device, up and down, which differ by at most 10 %. -/
def stoneUp (id i j : Nat) : Rat := deviceIn id 2 i j (1 / 1024) (1 / 256)
def stoneDown (id i j : Nat) : Rat :=
  deviceIn id 3 i j (max (1 / 1024) (9 / 10 * stoneUp id i j)) (min (1 / 256) (10 / 9 * stoneUp id i j))

/-- R346: the tile's mean stone step, over the devices of its columns and of its reference columns. -/
def stoneStep (id : Nat) : Rat :=
  ((List.range 1032).map fun j => ((List.range 1024).map fun i => (stoneUp id i j + stoneDown id i j) / 2).sum).sum / (1024 * 1032)

/-- R345: the symmetry point of a drip device, and the mean step there. -/
def dripPoint (id i j : Nat) : Rat := (dripUp id i j - dripDown id i j) / (dripUp id i j + dripDown id i j)
def dripStep (id i j : Nat) : Rat := 2 * dripUp id i j * dripDown id i j / (dripUp id i j + dripDown id i j)

/-- The mean step of a pulse at a level. -/
def dripMean (id i j : Nat) (up : Bool) (v : Rat) : Rat := if up then dripUp id i j * (1 - v) else dripDown id i j * (1 + v)
def stoneMean (id i j : Nat) (up : Bool) : Rat := if up then stoneUp id i j else stoneDown id i j

/-- One step: 0.3 of its mean to every unit of a free value, never backwards. -/
def stepOf (mean : Rat) (n place : Nat) : Rat := max 0 (mean * (1 + 3 / 10 * Config.analog n place))
/-- A pulse moves a device by a step, within its range. -/
def moved (up : Bool) (step v : Rat) : Rat := clampRat (-1) 1 (if up then v + step else v - step)
def dripPulse (id i j n place : Nat) (up : Bool) (v : Rat) : Rat := moved up (stepOf (dripMean id i j up v) n place) v
def stonePulse (id i j n place : Nat) (up : Bool) (v : Rat) : Rat := moved up (stepOf (stoneMean id i j up) n place) v

/-! ## Reference columns and measurements (R319, R334-R336) -/

/-- R335: the level of a reference column, in stone units. -/
def refLevel (m : Nat) : Rat := refLevels.getD m 0

/-- What the offset of a column's converter leaves, as a fraction of WMAX per driven unit; columns 1,024 and up are the references. -/
def Tile.offset (u : Tile) (k : Nat) : Rat := u.offsets.getD k 0
/-- The reading of a reference column under the probe. -/
def Tile.reading (u : Tile) (m : Nat) : Rat := 1024 * (u.gs * u.refs.getD m 0 + u.wmax * u.offset (1024 + m))
/-- drift_m; the spec states none where WMAX is 0. -/
def Tile.driftOf (u : Tile) (n m : Nat) : Rat :=
  if u.wmax = 0 then |Config.analog n (16 + m)| else |u.reading m - u.expects.getD m 0| / (1024 * u.wmax)
/-- The true drift of the tile (R332). -/
def Tile.skew (u : Tile) (n : Nat) : Rat := maxRat ((List.range 8).map (u.driftOf n))

/-- One tile failure (R336). -/
def Tile.failure (u : Tile) : Tile := { u with winErr := u.winErr + 1 }

/-- A measurement: the references have moved by at most 2⁻⁹ since the last one (R333). -/
def Tile.read (u : Tile) (n now : Nat) : Tile :=
  let u := { u with refs := (List.range 8).map fun m => clampRat (-1) 1 (u.refs.getD m 0 + analogIn n m (-1 / 512) (1 / 512)) }
  { u with driftm := (List.range 8).map fun m => boundOf (some (u.driftOf n m)), drift := boundOf (some (u.skew n)), lastMeas := now }
/-- DRIFT is past THR (R319). -/
def Tile.drifted (u : Tile) : Bool := (u.thr.extractLsb' 0 15).toNat < u.drift.toNat
/-- DRIFT is gross (R336). -/
def Tile.gross (u : Tile) : Bool := 0x3D80 ≤ u.drift.toNat
/-- The end of a measuring command or sweep: RCAL (R319), and a gross drift is a failure (R336). -/
def Tile.judge (u : Tile) (drifted gross : Bool) : Tile :=
  let u := { u with rcal := u.rcal || drifted }
  if gross then u.failure else u
/-- A measurement and its end in one. -/
def Tile.measure (u : Tile) (n now : Nat) : Tile := (u.read n now).judge (u.read n now).drifted (u.read n now).gross

/-! ## Analog reads (R332, R333) -/

/-- The errors that R332 allows one element, as a fraction of WMAX × Σ|x̂|. -/
def Tile.errLim (u : Tile) (n : Nat) : Rat := 1 / 1024 + 1 / 512 + u.skew n / 2

/-- The error of output element k: offset, read noise and the drift that the references do not cancel, together within the promise of
R333 where the product started in calibration; else anything. -/
def Tile.outErr (u : Tile) (q : Product) (s : Rat) (n k : Nat) : Rat :=
  if q.rcal || !q.calv then Config.analog n (32 + 4 * k)
  else clampRat (-s / 128) (s / 128) (s * u.offset k + analogIn n (32 + 4 * k) (-s / 512) (s / 512) +
    analogIn n (33 + 4 * k) (-s * u.skew n / 2) (s * u.skew n / 2))

/-- The largest error of one read of a drip device, in drip units (R332 for one driven row); `none` where nothing is promised. -/
def Tile.dripLim (u : Tile) (q : Product) (n : Nat) : Option Rat :=
  if q.rcal || !q.calv then none else some (u.errLim n * u.wmax / u.gd)

/-- A read of a drip device. -/
def Tile.readDrip (u : Tile) (lim : Option Rat) (n place i j : Nat) : Rat :=
  u.dripAt i j + match lim with | none => Config.analog n place | some e => analogIn n place (-e) e

end Sys2Proof.Machine
end

