-- ==== Sys2Proof/Machine/Crossbar.lean ====
section
/-! DEFINITION. The analog crossbars: commands at issue, products and their bounds, idle sweeps, pulse updates, deposits, calibration,
symmetry points, the lantern, programming and status (spec/20 R310-R328, spec/22 R332-R343, spec/23 R347-R353, spec/18 R296). What
devices and converters do within their stated limits is a free value (Devices, log 21). -/

namespace Sys2Proof.Machine

/-! ## Fields -/

def EF.tileNo (f : EF) : Nat := (f.eng.extractLsb' 38 2).toNat
/-- XMV, XMVT: drive, add, vectors. -/
def EF.d4 (f : EF) : Bool := f.eng.getLsbD 37
def EF.add (f : EF) : Bool := f.eng.getLsbD 36
def EF.nv (f : EF) : Nat := (f.eng.extractLsb' 27 9).toNat
/-- First column or row, and how many (XDEP, XSYM, XRD, XPGM). -/
def EF.first (f : EF) : Nat := (f.eng.extractLsb' 28 10).toNat
def EF.many (f : EF) : Nat := (f.eng.extractLsb' 17 11).toNat
def EF.bl (f : EF) : Nat := (f.eng.extractLsb' 30 8).toNat
def EF.rate (f : EF) : Nat := (f.eng.extractLsb' 9 8).toNat
def EF.lrep (f : EF) : Nat := (f.eng.extractLsb' 14 3).toNat
def EF.nit (f : EF) : Nat := (f.eng.extractLsb' 11 6).toNat
def EF.tol (f : EF) : Nat := (f.eng.extractLsb' 3 8).toNat

/-- R314: the limits of the ENG fields. -/
def xbLimit (i : Instr) (f : EF) : Bool :=
  let z := fun n => f.eng.extractLsb' 0 n == 0
  let span := 1 ≤ Machine.EF.many f && Machine.EF.first f + Machine.EF.many f ≤ 1024
  match i with
  | .xmv _ | .xmvt _ => 1 ≤ Machine.EF.nv f && Machine.EF.nv f ≤ 256 && z 27
  | .xupd _ => 1 ≤ Machine.EF.bl f && z 30
  | .xdep _ | .xdepRst _ => span && z 8
  | .xsym _ => span && 1 ≤ Machine.EF.rate f && z 9
  | .xrd _ => span && Machine.EF.lrep f ≤ 4 && z 14
  | .xpgm _ => span && 1 ≤ Machine.EF.nit f && 1 ≤ Machine.EF.tol f && z 3
  | _ => z 38

/-- Bytes of one input vector (R317). -/
def vecBytes (ty : Nat) : Nat := 1024 * tyWidth ty / 8

/-! ## Issue (R315) -/

/-- The operands of a command that must lie in the own slice: register value, bytes. -/
def xbOwn (i : Instr) (f : EF) (v : Vals) : List (Word × Nat) :=
  match i with
  | .xmv _ | .xmvt _ => [(v.a, Machine.EF.nv f * vecBytes f.r.ty.toNat)]
  | .xupd _ => [(v.a, vecBytes f.r.ty.toNat), (v.b, vecBytes f.r.ty.toNat)] ++ (if f.r.c = 0 then [] else [(v.c, 8192)])
  | .xdep _ | .xdepRst _ => if f.r.c = 0 then [] else [(v.c, 4 * Machine.EF.many f)]
  | .xsym _ => if f.r.a = 0 then [] else [(v.a, 2 * Machine.EF.many f)]
  | .xstatBlk _ => [(v.a, 64)]
  | _ => []

/-- Addresses that must be multiples of 64. -/
def xbAddrs (i : Instr) (f : EF) (v : Vals) : List Word :=
  match i with
  | .xrd _ | .xpgm _ => [v.a]
  | _ => (xbOwn i f v).map (·.1)

/-- Bytes an XRD writes, an XPGM reads. -/
def xbBlock (i : Instr) (f : EF) : Nat := match i with | .xrd _ => 2048 * Machine.EF.many f + 2048 | _ => 2048 * Machine.EF.many f

/-- Footprint (R328). -/
def State.xbParts (s : State) (i : Instr) (f : EF) (v : Vals) (d : Nat) : List Part :=
  let own := fun (a : Word) (n : Nat) (w : Bool) => s.rangeParts s.curCore s.me.space (eaVa a) n w
  match i with
  | .xmv _ | .xmvt _ => own v.a (Machine.EF.nv f * vecBytes f.r.ty.toNat) false ++
      [rowPart (grantBase s.me.grant + d) (6 * Machine.EF.nv f) true]
  | .xupd _ => own v.a (vecBytes f.r.ty.toNat) false ++ own v.b (vecBytes f.r.ty.toNat) false ++ (if f.r.c = 0 then [] else own v.c 8192 true)
  | .xdep _ | .xdepRst _ => if f.r.c = 0 then [] else own v.c (4 * Machine.EF.many f) true
  | .xsym _ => if f.r.a = 0 then [] else own v.a (2 * Machine.EF.many f) true
  | .xrd _ => own v.a (xbBlock i f) true
  | .xpgm _ => own v.a (xbBlock i f) false
  | .xstatBlk _ => own v.a 64 true
  | _ => []

/-- Checks 1 and 2 of R315: a tile in lasting fault, a tile out of calibration. -/
def State.xbReady (s : State) (t : Nat) (exempt : Bool) (body : Issue) : Issue :=
  let u := s.myCore.tile t
  if u.lf then .trap 0x06 (BitVec.ofNat 64 t)
  else if !exempt && (u.rcal || !u.calv) then .trap 0x05 (BitVec.ofNat 64 t)
  else body

/-- R167: the tiles a step may name. -/
def State.stepTiles (s : State) : Nat :=
  match s.me.task with
  | some t => (match t.step with
    | some sr => (match s.blk sr.grotto sr.block with | some b => b.op.tiles | none => 15)
    | none => 15)
  | none => 15

/-- A finite, non-negative f32 (R320). -/
def f32Plain (v : BitVec 32) : Bool := v.toNat < 0x7F800000 || v == 0x80000000

/-- Own checks of a description: the scalars of XUPD (R320). -/
def xbScalars (i : Instr) (d : Word) : Bool :=
  match i with
  | .xupd _ => f32Plain (d.extractLsb' 0 32) && f32Plain (d.extractLsb' 32 32)
  | _ => true

def isXcal (i : Instr) : Bool := match i with | .xcal _ => true | _ => false
def isStat (i : Instr) : Bool := match i with | .xstat _ | .xstatWait _ | .xstatBlk _ => true | _ => false
/-- R168: what a command writes in memory. -/
def xbWrites (i : Instr) (f : EF) (v : Vals) : List (Word × Nat) :=
  match i with
  | .xrd _ => [(v.a, xbBlock i f)]
  | .xupd _ => if f.r.c = 0 then [] else [(v.c, 8192)]
  | .xmv _ | .xmvt _ => []
  | _ => xbOwn i f v

/-- A crossbar command that enters its tile's queue. -/
def State.crossbar (s : State) (i : Instr) (f : EF) (lvl : Nat) (regs : List Nat) : Out :=
  s.issueEngine i f lvl regs fun s =>
    let v := s.vals f
    let d := s.getS f.r.d
    let t := Machine.EF.tileNo f
    let rows := if isProduct i then s.me.rowsBad d.toNat (6 * Machine.EF.nv f) else none
    orTrap (rows.or (((xbAddrs i f v).find? fun a => !eaAligned a).map fun a => (0x08, a))) <|
      if !xbLimit i f then .trap 0x0D (EF.word i)
      else s.xbReady t (isXcal i || isStat i) <|
        if s.stepTiles / 2 ^ t % 2 == 0 then .trap 0x15 0
        else s.stepWrites (xbWrites i f v) <|
          (xbOwn i f v).foldr (fun o go => s.ownOperand o.1 none (lineBits o.1 o.2) go) <|
            if !xbScalars i d then .trap 0x0D (EF.word i)
            else s.evCheck f <| s.checkDiscard f.rl <|
              if 8 ≤ s.myCore.tileQ t then .wait s
              else .done ((s.modMy fun x => x.enqueue (s.newCmd i f (.tile t) (s.xbParts i f v d.toNat))).noteStore)

/-- XMV (R317). -/
def execXmv (f : EF) (s : State) : Out := s.crossbar (.xmv f) f 0 [f.r.d.toNat, f.r.a.toNat]
/-- XMVT (R317). -/
def execXmvt (f : EF) (s : State) : Out := s.crossbar (.xmvt f) f 0 [f.r.d.toNat, f.r.a.toNat]
/-- XUPD (R320). -/
def execXupd (f : EF) (s : State) : Out := s.crossbar (.xupd f) f 0 [f.r.d.toNat, f.r.a.toNat, f.r.b.toNat, f.r.c.toNat]
/-- XDEP (R322). -/
def execXdep (f : EF) (s : State) : Out := s.crossbar (.xdep f) f 0 [f.r.c.toNat]
/-- XDEP with reset (R322). -/
def execXdepRst (f : EF) (s : State) : Out := s.crossbar (.xdepRst f) f 0 [f.r.c.toNat]
/-- XCAL (R323). -/
def execXcal (f : EF) (s : State) : Out := s.crossbar (.xcal f) f 1 []
/-- XSYM (R324). -/
def execXsym (f : EF) (s : State) : Out := s.crossbar (.xsym f) f 1 [f.r.a.toNat]
/-- XRD (R325). -/
def execXrd (f : EF) (s : State) : Out := s.crossbar (.xrd f) f 0 [f.r.a.toNat]
/-- XPGM (R326). -/
def execXpgm (f : EF) (s : State) : Out := s.crossbar (.xpgm f) f 1 [f.r.a.toNat]
/-- XSTAT SUB 2 (R327). -/
def execXstatBlk (f : EF) (s : State) : Out := s.crossbar (.xstatBlk f) f 0 [f.r.a.toNat]

/-- XSTAT at once, or once the queue is empty. -/
def State.xstat (s : State) (i : Instr) (f : EF) (wait : Bool) : Out :=
  s.issueEngine i f 0 [] fun s =>
    let t := Machine.EF.tileNo f
    if !xbLimit i f then .trap 0x0D (EF.word i)
    else s.xbReady t true <|
      if s.stepTiles / 2 ^ t % 2 == 0 then .trap 0x15 0
      else if wait && s.myCore.tileQ t != 0 then .wait s
      else .done (s.putS f.r.d.toNat (s.myCore.tileStatus t) 1)

/-- XSTAT SUB 0 (R327). -/
def execXstat (f : EF) (s : State) : Out := s.xstat (.xstat f) f false
/-- XSTAT SUB 1 (R327). -/
def execXstatWait (f : EF) (s : State) : Out := s.xstat (.xstatWait f) f true

/-! ## Measurements between commands (R334) -/

def State.modTile (s : State) (c t : Nat) (f : Tile → Tile) : State := s.modCore c fun x => x.setTile t (f (x.tile t))

/-- A command that measures while it runs: no idle sweep falls within it (R325, R334). -/
def measuring (i : Instr) : Bool := match i with | .xmv _ | .xmvt _ | .xrd _ | .xcal _ => true | _ => false

/-- IDLE_SWEEP (R334): due after 65,536 cycles without a measurement; inside a command that measures nothing while it runs, or that waits
for a translation, or holding an idle tile for 359 cycles. -/
def execIdleSweep (c t : Nat) (s : State) : Out :=
  .next <|
    let x := s.core c
    let u := x.tile t
    let running := x.cmds.find? fun m => m.engine == .tile t && m.underway
    if !(x.started && u.lastMeas + 65536 ≤ x.clock) then s
    else match u.sweep with
    | some e =>
      if e ≤ x.clock then
        let (n, s) := s.next
        s.modTile c t fun u => { u.measure n x.clock with sweep := none }
      else s
    | none =>
      match running with
      | some m =>
        if measuring m.ins && m.st.running? then s
        else
          let (n, s) := s.next
          s.modTile c t fun u => u.measure n x.clock
      | none => s.modTile c t fun u => { u with sweep := some (x.clock + 359) }

/-! ## Times (R316) -/

/-- One-hot reads of an XRD (R325). -/
def xrdReads (f : EF) : Nat := Machine.EF.many f * 4 ^ Machine.EF.lrep f

/-- Cycles of a command: of a product those of one vector, of an XRD those of one read, of an XPGM those of one pass. -/
def xbCycles (i : Instr) (f : EF) : Nat :=
  match i with
  | .xmv _ | .xmvt _ => if Machine.EF.d4 f then 359 else 717
  | .xupd _ => 56 + (28 * Machine.EF.bl f + 4) / 5
  | .xdep _ | .xdepRst _ => 56 + 45 * Machine.EF.many f
  | .xsym _ => 56 + Machine.EF.many f * (45 + 11 * Machine.EF.rate f)
  | .xcal _ => 65536
  | .xrd _ => 359
  | .xpgm _ => 1434
  | _ => 8

/-! ## Products (R317, R318) -/

/-- R317: quantised inputs. -/
def driven (xs : List Rat) (d4 : Bool) : List Rat :=
  let top := xs.foldl (fun m x => if m < |x| then |x| else m) 0
  if top = 0 then xs.map fun _ => 0
  else
    let e := log2Rat top + 1
    let q := pow2 (if d4 then e - 3 else e - 7)
    let m : Int := if d4 then 7 else 127
    xs.map fun x => q * ((max (-m) (min m (roundToInt 0 (x / q) 0 0)) : Int) : Rat)

def sumAbs (xs : List Rat) : Rat := (xs.map fun x => |x|).sum

/-- R317: the bound of a vector. -/
def Tile.vecBound (u : Tile) (xs hs : List Rat) : BitVec 16 :=
  boundOf (some (u.wmax * sumAbs hs / 128 + u.wmax * sumAbs (List.zipWith (· - ·) xs hs)))

/-- Output element k: the weights against the driven inputs, and the error of R332. -/
def Tile.output (u : Tile) (q : Product) (hs : List Rat) (transposed : Bool) (n k : Nat) : Nat :=
  f32OfRat ((hs.mapIdx fun l h => if h = 0 then 0 else h * (if transposed then u.weight k l else u.weight l k)).sum +
    u.outErr q (u.wmax * sumAbs hs) n k)

/-- The six rows of a vector as outputs 0 to 1,151, of which 1,024 and up are +0. -/
def rowOut (ys : List Nat) (r : Nat) : List Nat := (List.range 192).map fun l => ys.getD (192 * r + l) 0

/-- One row of a product lands. -/
def State.productRow (s : State) (c row : Nat) (add : Bool) (ys : List Nat) (bound : BitVec 16) : State × Bool :=
  let x := s.core c
  let side := x.side row
  if add && sidePoison side then (s, true)
  else
    let old := x.row (accGran row)
    let new := mapElems 32 allLanes fun l => if add then rneAdd (elem 32 old l) (ys.getD l 0) else ys.getD l 0
    let b := if add then boundOf (optAdd (sideTag side).val (boundVal bound)) else bound
    (s.modCore c fun x => x.putAcc row new (mkSide ⟨true, b⟩ false), false)

/-- One vector of a product; XERR it sets, 0 for none. -/
def State.productVec (s0 : State) (c : Nat) (m : Cmd) (f : EF) (t b : Nat) : State × Nat :=
  let (n, s) := s0.next
  let u := (s.core c).tile t
  let ty := f.r.ty.toNat
  let vb := vecBytes ty
  let g := (s.through m).engReads c m.space (m.va.toNat + b * vb) (vb / 32)
  let base := m.gbase + m.vd.toNat + 6 * b
  let transposed := match m.ins with | .xmvt _ => true | _ => false
  if g.bad = 2 then (s, 2)
  else if g.bad != 0 then
    ((List.range 6).foldl (fun s r => s.modCore c fun x => x.setSide (base + r) (mkSide (sideTag (x.side (base + r))) true)) s, 3)
  else
    let vs := (elemsOf (tyWidth ty) g.bytes).map (srcValue ty)
    let bad := vs.any fun v => !v.isFin
    let xs := vs.map Fv.rat
    let hs := driven xs (Machine.EF.d4 f)
    let ys := if bad then List.replicate 1024 0 else (List.range 1024).map (u.output m.product hs transposed n)
    let bound := if bad || g.a || m.product.rcal then boundUnknown else u.vecBound xs hs
    (List.range 6).foldl (fun p r =>
      let q := p.1.productRow c (base + r) (Machine.EF.add f) (rowOut ys r) bound
      (q.1, if q.2 then 3 else p.2)) (s, 0)

/-- The measurement of a running command (R319): the tile, and what the command keeps of it. -/
def State.measureIn (s : State) (c t : Nat) (q : Product) : State × Product :=
  let (n, s) := s.next
  let u := ((s.core c).tile t).read n (s.core c).clock
  (s.modTile c t fun _ => u, { q with drifted := q.drifted || u.drifted, gross := q.gross || u.gross })

/-- R333: what a product keeps of its tile as it starts, vector by vector (R317). -/
def Product.latch (q : Product) (u : Tile) : Product := { q with rcal := u.rcal, calv := u.calv }

/-- A vector or a read of a running command has ended and the next one starts. -/
def State.nextPart (s : State) (c : Nat) (m : Cmd) (f : EF) (q : Product) : State :=
  s.modCore c fun x => x.modCmd m.id fun m => { m with prog := m.prog + 1, due := some (x.clock + xbCycles m.ins f), product := q }

/-- The vector of a product that ends now (R317, R319, R336): its measurement, its rows, its access of the tile's window. After the last
one RCAL rises, whichever vector measured the drift. -/
def State.runVector (s : State) (c : Nat) (m : Cmd) (f : EF) (t : Nat) : State × Option Nat :=
  let p := s.measureIn c t m.product
  let v := p.1.productVec c m f t m.prog
  let s := v.1.modTile c t fun u => { u with winAcc := u.winAcc + 1 }
  let q := { p.2 with xerr := if v.2 = 0 then p.2.xerr else v.2 }
  if m.prog + 1 < Machine.EF.nv f then (s.nextPart c m f (q.latch ((s.core c).tile t)), none)
  else (s.modTile c t fun u => u.judge q.drifted q.gross, some q.xerr)

/-! ## XUPD (R320, R321) -/

/-- Firing threshold of an input. -/
def fireLimit (x : Fv) (k : Rat) : Nat :=
  if k = 0 then 0
  else match x with
  | .nan _ => 0
  | .inf _ => 65536
  | .fin _ v => min 65536 (|v| * k * 65536).floor.toNat

/-- Rows or columns that fire in a slot with generator word `g`. -/
def firing (g : BitVec 32) (k : BitVec 32) (hi : Bool) (ps : List Nat) : List Nat :=
  ((ps.mapIdx fun i p => (i, p)).filter fun q =>
    let w := rotl32 (g ^^^ (BitVec.ofNat 32 q.1 * k)) (q.1 % 32)
    (if hi then w.extractLsb' 16 16 else w.extractLsb' 0 16).toNat < q.2).map (·.1)

/-- Cycle of a slot, from the start (R320). -/
def slotCycle (n : Nat) : Nat := 56 + 28 * n / 5

/-- What an update leaves: the tile, firings of rows and columns, net steps. -/
structure Upd where
  u : Tile
  n : Tab Nat
  m : Tab Nat
  net : Tab Int
  deriving Repr

/-- One slot: every row that fires against every column that fires. -/
def Upd.slot (a : Upd) (id t n : Nat) (rs cs : List Nat) (down : Nat → Nat → Bool) : Upd :=
  let inc := fun (l : Tab Nat) i => Tab.set (fun _ => 0) l i (Tab.get (fun _ => 0) l i + 1)
  let a := { a with n := rs.foldl inc a.n, m := cs.foldl inc a.m }
  rs.foldl (fun a i => cs.foldl (fun a j =>
    let up := !down i j
    { a with u := a.u.setDrip i j (dripPulse id i j t ((n * 1024 + i) * 1024 + j) up (a.u.dripAt i j))
             net := Tab.set (fun _ => 0) a.net j (Tab.get (fun _ => 0) a.net j + (if up then 1 else -1)) }) a) a

/-- Bytes of the record. -/
def Upd.record (a : Upd) : List Byte :=
  ((List.range 1024).flatMap fun i => leBytes 2 (Tab.get (fun _ => 0) a.n i)) ++
  ((List.range 1024).flatMap fun j => leBytes 2 (Tab.get (fun _ => 0) a.m j)) ++
  ((List.range 1024).flatMap fun j => leBytes 4 (wrapInt 32 (Tab.get (fun _ => 0) a.net j)))

/-- Write bytes in pieces of 64 and stop at the first failure; a tile step's command writes in its own slice (R168). -/
def State.putRun (s : State) (c : Nat) (m : Cmd) (va : Nat) (bs : List Byte) (needA : Bool) : Prog :=
  (List.range ((bs.length + 63) / 64)).foldl (fun r i => r.put m.space (va + 64 * i) ((bs.drop (64 * i)).take 64) needA false) (Prog.start s (m.bound c))

/-- XERR for the status of a write (R327). -/
def xerrOf (st : Nat) : Nat := if st = 0 then 0 else if st = 5 then 5 else if st = 3 then 3 else 2

/-- Sources of an XUPD. -/
def updTouch (m : Cmd) (f : EF) : List (Nat × Nat × Bool) :=
  [(m.va.toNat, vecBytes f.r.ty.toNat, false), (m.vb.toNat, vecBytes f.r.ty.toNat, false)]

/-- R320: an XUPD reads both its sources at its start, and has then read them for the last time (R185); a failure ends it without a
pulse. -/
def State.readUpd (s : State) (c : Nat) (m : Cmd) (f : EF) : State :=
  let n := vecBytes f.r.ty.toNat / 32
  let g := (s.engReads c m.space m.va.toNat n).join (s.engReads c m.space m.vb.toNat n)
  s.modCore c fun x => x.modCmd m.id fun m =>
    { m with blk := g.bytes, parts := m.parts.filter (·.write), fail := if g.bad = 0 then none else some (if g.bad = 2 then 2 else 3) }

/-- XUPD; the words of its slots were drawn in their cycles. -/
def State.runXupd (s0 : State) (c : Nat) (m : Cmd) (f : EF) (t : Nat) : State × Nat :=
  let (n, s) := s0.next
  let ty := f.r.ty.toNat
  let vals := fun (l : List Byte) => (elemsOf (tyWidth ty) l).map (srcValue ty)
  let cx := (fmtF32.value (m.vd.extractLsb' 0 32).toNat).rat
  let cd := (fmtF32.value (m.vd.extractLsb' 32 32).toNat).rat
  let xs := vals (m.blk.take (vecBytes ty))
  let ds := vals (m.blk.drop (vecBytes ty))
  let ps := xs.map fun v => fireLimit v cx
  let qs := ds.map fun v => fireLimit v cd
  let down := fun i j => (xs.getD i (.fin false 0)).neg == (ds.getD j (.fin false 0)).neg
  let a := (List.range (Machine.EF.bl f)).foldl (fun (a : Upd) k =>
    let g := BitVec.ofNat 32 (Tab.get (fun _ => 0) m.mac k)
    a.slot (4 * c + t) n k (firing g 0x9E3779B9 false ps) (firing g 0x7F4A7C15 true qs) down) ⟨(s.core c).tile t, [], [], []⟩
  let s := s.modTile c t fun _ => { a.u with winAcc := a.u.winAcc + 1 }
  if f.r.c = 0 then (s, 0)
  else
    let r := s.putRun c m m.vc.toNat a.record false
    (r.s, xerrOf r.st)

/-! ## XDEP (R322) -/

/-- Where the reset of a deposit leaves a drip device: within one mean step of the column's symmetry level, where it stands if it is there
already (R322, R350). -/
def Tile.reset (u : Tile) (id n place i j : Nat) : Rat :=
  let y := u.symVal j
  let e := max (dripMean id i j true y) (dripMean id i j false y)
  if |u.dripAt i j - y| ≤ e then u.dripAt i j else clampRat (-1) 1 (y + analogIn n place (-e) e)

/-- One device of a deposit: the tile and its stone pulses. R350 lists what comes on top of ρ × GD × d, and an error of the read is not
among it: the read gives the level (log 21). -/
def Tile.deposit (u : Tile) (id n : Nat) (i j : Nat) (rho : Rat) (rst : Bool) : Tile × Int :=
  let place := 64 * (1024 * i + j)
  let d := u.dripAt i j - u.symVal j
  let k := max (-31) (min 31 (roundToInt 0 (32 * rho * d) 0 0))
  let u := u.setStone i j ((List.range k.natAbs).foldl (fun v p => stonePulse id i j n (place + 1 + p) (0 < k) v) (u.stoneAt i j))
  (if rst then u.setDrip i j (u.reset id n (place + 40) i j) else u, k)

/-- XDEP. -/
def State.runXdep (s0 : State) (c : Nat) (m : Cmd) (f : EF) (t : Nat) (rst : Bool) : State × Nat :=
  let (n, s) := s0.next
  let rho : Rat := ((Machine.EF.rate f + 1 : Nat) : Rat) / 256
  let a := (List.range (Machine.EF.many f)).foldl (fun (a : Tile × List Int) k =>
    let col := (List.range 1024).foldl (fun (p : Tile × Int) i =>
      let q := p.1.deposit (4 * c + t) n i (Machine.EF.first f + k) rho rst
      (q.1, p.2 + q.2)) (a.1, 0)
    (col.1, a.2 ++ [col.2])) ((s.core c).tile t, [])
  let s := s.modTile c t fun _ => a.1
  if f.r.c = 0 then (s, 0)
  else
    let r := s.putRun c m m.vc.toNat (a.2.flatMap fun v => leBytes 4 (wrapInt 32 v)) false
    (r.s, xerrOf r.st)

/-! ## XCAL (R323, R339, R346) and XSYM (R324) -/

/-- WMAX is a normal positive bf16 (R339, step 1). -/
def Tile.wmaxOk (u : Tile) : Bool := let w := (u.gain.extractLsb' 32 16).toNat; 0x0080 ≤ w && w < 0x7F80
/-- Step 2: no reference stands more than 2⁻³ from its level. -/
def Tile.refsOk (u : Tile) : Bool := (List.range 8).all fun m => |u.refs.getD m 0 - refLevel m| ≤ 1 / 8
/-- … and restored to within a step of it. -/
def Tile.restored (u : Tile) (n : Nat) : Tile :=
  { u with refs := (List.range 8).map fun m => clampRat (-1) 1 (refLevel m + analogIn n m (-1 / 256) (1 / 256)) }
/-- Step 3: ADC offsets, and the gains of R346 for the tile's mean stone step. -/
def Tile.regained (u : Tile) (id n : Nat) : Tile :=
  let wm := u.gain.extractLsb' 32 16
  { u with offsets := (List.range 1032).map fun k => analogIn n (64 + k) (-1 / 1024) (1 / 1024),
           gain := u.thr ++ wm ++ wm ++ bf16Of (32 * u.wmax * stoneStep id) }
def Tile.gainsOk (u : Tile) : Bool :=
  [0, 16].all fun b => 0 < (u.gain.extractLsb' b 16).toNat && (u.gain.extractLsb' b 16).toNat < 0x7F80
/-- Step 4: the readings become the expectations. -/
def Tile.expected (u : Tile) (now : Nat) : Tile :=
  { u with expects := (List.range 8).map u.reading, drift := 0, driftm := [], lastMeas := now, calv := true, rcal := false }

/-- XCAL: the tile, and whether it succeeded (R339); a failure after step 2 keeps the restored references. -/
def Tile.calibrate (u : Tile) (id n now : Nat) : Tile × Bool :=
  let lost := fun (u : Tile) => ({ u.failure with calv := false }, false)
  if !u.wmaxOk then lost u
  else
    let v := u.restored n
    let w := v.regained id n
    if u.refsOk && w.gainsOk then (w.expected now, true) else lost v

/-- XCAL. -/
def State.runXcal (s0 : State) (c t : Nat) : State × Nat :=
  let (n, s) := s0.next
  let p := ((s.core c).tile t).calibrate (4 * c + t) n (s.core c).clock
  (s.modTile c t fun _ => p.1, if p.2 then 0 else 6)

/-- XSYM on one column: pairs of an up and a down pulse on every drip device, then the mean level as it reads. -/
def Tile.symmetrise (u : Tile) (id n : Nat) (lim : Option Rat) (pairs j : Nat) : Tile :=
  let u := (List.range 1024).foldl (fun u i => u.setDrip i j
    ((List.range pairs).foldl (fun v k => let place := 1024 * (1024 * i + j) + 2 * k
      dripPulse id i j n (place + 1) false (dripPulse id i j n place true v)) (u.dripAt i j))) u
  let mean := ((List.range 1024).map fun i => u.readDrip lim n (1024 * (1024 * i + j) + 1023) i j).sum / 1024
  { u with dsym := Tab.set (fun _ => 0) u.dsym j (bf16Of (clampRat (-1) 1 mean)) }

/-- XSYM: the columns in ascending order; their points are recorded. -/
def State.runXsym (s0 : State) (c : Nat) (m : Cmd) (f : EF) (t : Nat) : State × Nat :=
  let (n, s) := s0.next
  let cols := (List.range (Machine.EF.many f)).map (· + Machine.EF.first f)
  let lim := ((s.core c).tile t).dripLim m.product n
  let s := s.modTile c t fun u => cols.foldl (fun u j => u.symmetrise (4 * c + t) n lim (Machine.EF.rate f) j) u
  if f.r.a = 0 then (s, 0)
  else
    let u := (s.core c).tile t
    let r := s.putRun c m m.va.toNat (cols.flatMap fun j => leBytes 2 (u.sym j).toNat) false
    (r.s, xerrOf r.st)

/-! ## XRD (R325, R343) and XPGM (R326) -/

/-- R325: the bound of a column, of its estimates. -/
def Tile.readBound (u : Tile) (lrep : Nat) (es : List (BitVec 16)) : BitVec 16 :=
  boundOf (optAdd (some (u.wmax / (128 * 2 ^ lrep))) (optMul (some (1 / 256)) (maxMag (es.map fun e => fmtBf16.value e.toNat))))

/-- The estimates of a column, free within the promise of R343, which holds for every row once it started in calibration. -/
def Tile.estimates (u : Tile) (q : Product) (n lrep j : Nat) (rows : List Nat) : List (BitVec 16) :=
  let es := rows.map fun i => bf16Of (u.weight i j + Config.analog n (1024 * i + j))
  let near := fun (e : BitVec 16) (w : Rat) =>
    let v := fmtBf16.value e.toNat
    match boundVal (u.readBound lrep es) with | some b => v.isFin && decide (|v.rat - w| ≤ b) | none => v.isFin
  if q.rcal || !q.calv || (List.zipWith near es (rows.map fun i => u.weight i j)).all id then es
  else rows.map fun i => bf16Of (u.weight i j)

/-- The estimates of an XRD, column by column: free values of the number that it drew with its first row. -/
def State.xrdCols (s : State) (c : Nat) (m : Cmd) (f : EF) (t : Nat) : List (List (BitVec 16)) :=
  (List.range 1024).map fun j =>
    ((s.core c).tile t).estimates m.product m.arrived (Machine.EF.lrep f) j ((List.range (Machine.EF.many f)).map (· + Machine.EF.first f))

/-- The row of estimates that an XRD writes after its last read of the row; after the last row the bounds (R325). -/
def State.xrdRow (s : State) (c : Nat) (m : Cmd) (f : EF) (t r : Nat) : List Byte :=
  let cols := s.xrdCols c m f t
  let row := if r < Machine.EF.many f then cols.map fun l => l.getD r 0
    else cols.map fun l => if m.product.rcal then boundUnknown else ((s.core c).tile t).readBound (Machine.EF.lrep f) l
  row.flatMap fun v => leBytes 2 v.toNat

/-- XRD: one read, a measurement (R334); the last read of a row is followed by the writing of its estimates, that of the last row by the
bounds too. A write that fails ends it. -/
def State.runXrd (s0 : State) (c : Nat) (m : Cmd) (f : EF) (t : Nat) : State × Option Nat :=
  let p := s0.measureIn c t m.product
  let per := 4 ^ Machine.EF.lrep f
  let k := m.prog + 1
  if k % per != 0 then (p.1.nextPart c m f p.2, none)
  else
    let (n, s) := if m.prog < per then p.1.next else (m.arrived, p.1)
    let m := { m with arrived := n }
    let write := fun (r : Prog) i => r.then fun r =>
      let q := r.s.putRun c m (m.va.toNat + 2048 * i) (s.xrdRow c m f t i) true
      { r with s := q.s, st := q.st }
    let r := write (Prog.start s) (k / per - 1)
    if k < xrdReads f && r.st = 0 then
      ((r.s.nextPart c m f p.2).modCore c fun x => x.modCmd m.id fun m => { m with arrived := n }, none)
    else
      let r := write r (Machine.EF.many f)
      (r.s.modTile c t fun u => u.judge p.2.drifted p.2.gross, some (xerrOf r.st))

/-- R326: a target, saturated. -/
def Tile.target (u : Tile) (v : Fv) : Rat :=
  match v with
  | .nan _ => 0
  | .inf n => if n then -u.wmax else u.wmax
  | .fin _ _ => clampRat (-u.wmax) u.wmax v.rat

/-- A weight of the row within the tolerance of its target (R326). -/
def Tile.near (u : Tile) (tol i j : Nat) (v : Rat) : Bool := |u.gs * u.stoneAt i j - v| ≤ (tol : Rat) * u.wmax / 1024

/-- One verify pass over a row: every device stands at its symmetry level, and each weight outside the tolerance is moved, the devices
decide how far; the tile, and the weights still outside. -/
def Tile.verify (u : Tile) (n i : Nat) (ts : List Rat) (tol : Nat) : Tile × Nat :=
  (ts.mapIdx fun j v => (j, v)).foldl (fun (p : Tile × Nat) q =>
    let u := p.1.setDrip i q.1 (p.1.symVal q.1)
    let u := if u.near tol i q.1 q.2 then u else u.setStone i q.1 (analogIn n q.1 (-1) 1)
    (u, if u.near tol i q.1 q.2 then p.2 else p.2 + 1)) (u, 0)

/-- The end of an XPGM that left `k` weights outside the tolerance (R326, R336). -/
def Tile.programmed (u : Tile) (k : Nat) : Tile :=
  let u := { u with nfail := BitVec.ofNat 16 (min 65535 k) }
  if 1024 ≤ k then u.failure else u

/-- XPGM, one verify pass: `prog` counts rows, `arrived` the passes of the row, whose targets `blk` holds, `reg` the weights outside; a row
that cannot be read is not programmed. -/
def State.runXpgm (s0 : State) (c : Nat) (m : Cmd) (f : EF) (t : Nat) : State × Option Nat :=
  let (n, s) := s0.next
  let u := (s.core c).tile t
  let g := if m.arrived = 0 then s.engReads c m.space (m.va.toNat + 2048 * m.prog) 64 else { Got.nil with bytes := m.blk }
  let p := u.verify n (Machine.EF.first f + m.prog) ((elemsOf 16 g.bytes).map fun v => u.target (fmtBf16.value v)) (Machine.EF.tol f)
  let p := if g.bad = 0 then p else (u, 0)
  let s := s.modTile c t fun _ => p.1
  let go := fun (m : Cmd) => { m with due := some ((s.core c).clock + xbCycles m.ins f) }
  if p.2 != 0 && m.arrived + 1 < Machine.EF.nit f then
    (s.modCore c fun x => x.modCmd m.id fun m => go { m with arrived := m.arrived + 1, blk := g.bytes }, none)
  else
    let e := if g.bad = 0 then m.product.xerr else if g.bad = 2 then 2 else 3
    if m.prog + 1 < Machine.EF.many f then
      (s.modCore c fun x => x.modCmd m.id fun m =>
        go { m with arrived := 0, blk := [], prog := m.prog + 1, reg := m.reg + p.2, product := { m.product with xerr := e } }, none)
    else (s.modTile c t fun u => u.programmed (m.reg + p.2), some e)

/-! ## XSTAT.blk (R327) -/

/-- The status block. -/
def State.runXstatBlk (s : State) (c : Nat) (m : Cmd) (t : Nat) : State × Nat :=
  let u := (s.core c).tile t
  let ds := if u.driftm.isEmpty then List.replicate 8 0 else u.driftm
  let bs := (ds.flatMap fun d => leBytes 2 d.toNat) ++ leBytes 8 ((s.core c).tileStatus t).toNat ++ leBytes 8 u.gain.toNat ++
    leBytes 4 u.winErr ++ leBytes 4 u.winAcc ++ leBytes 8 u.done ++ leBytes 16 0
  let r := s.putRun c m m.va.toNat bs false
  (r.s, xerrOf r.st)

/-! ## Completion (R315) -/

/-- Ranges a command touches. -/
def xbRanges (m : Cmd) (f : EF) : List (Nat × Nat × Bool) :=
  match m.ins with
  | .xmv _ | .xmvt _ => [(m.va.toNat, Machine.EF.nv f * vecBytes f.r.ty.toNat, false)]
  | .xupd _ => if f.r.c = 0 then [] else [(m.vc.toNat, 8192, true)]
  | .xdep _ | .xdepRst _ => if f.r.c = 0 then [] else [(m.vc.toNat, 4 * Machine.EF.many f, true)]
  | .xsym _ => if f.r.a = 0 then [] else [(m.va.toNat, 2 * Machine.EF.many f, true)]
  | .xrd _ => [(m.va.toNat, xbBlock m.ins f, true)]
  | .xpgm _ => [(m.va.toNat, xbBlock m.ins f, false)]
  | .xstatBlk _ => [(m.va.toNat, 64, true)]
  | _ => []

/-- … in the step that comes next: the vector of a product, the row that an XRD writes, the row of an XPGM. -/
def xbTouch (m : Cmd) (f : EF) : List (Nat × Nat × Bool) :=
  match m.ins with
  | .xmv _ | .xmvt _ => [(m.va.toNat + m.prog * vecBytes f.r.ty.toNat, vecBytes f.r.ty.toNat, false)]
  | .xrd _ =>
    let per := 4 ^ Machine.EF.lrep f
    if (m.prog + 1) % per != 0 then []
    else [(m.va.toNat + 2048 * ((m.prog + 1) / per - 1), if m.prog + 1 < xrdReads f then 2048 else 4096, true)]
  | .xpgm _ => if m.arrived = 0 then [(m.va.toNat + 2048 * m.prog, 2048, false)] else []
  | _ => xbRanges m f

/-- What a tile command does, and the XERR with which it ends; `none`: it goes on. -/
def State.runTile (s : State) (c : Nat) (m : Cmd) (f : EF) (t : Nat) : State × Option Nat :=
  let done := fun (p : State × Nat) => (p.1, some p.2)
  match m.ins with
  | .xmv _ | .xmvt _ => s.runVector c m f t
  | .xupd _ => done (s.runXupd c m f t)
  | .xdep _ => done (s.runXdep c m f t false)
  | .xdepRst _ => done (s.runXdep c m f t true)
  | .xcal _ => done (s.runXcal c t)
  | .xsym _ => done (s.runXsym c m f t)
  | .xrd _ => s.runXrd c m f t
  | .xpgm _ => s.runXpgm c m f t
  | _ => done (s.runXstatBlk c m t)

/-- End a tile command: XERR, its count, its event, its place in the queue. -/
def State.endTile (s : State) (c : Nat) (m : Cmd) (t xerr : Nat) : State :=
  let s := s.modTile c t fun u => { u with done := u.done + 1, xerr := if xerr = 0 then u.xerr else BitVec.ofNat 8 xerr }
  s.modCore c fun x => (x.pulse (eventSource m.ins) (xerr == 0)).dropCmd m.id

/-- R192, R196: everything the context issued before a command with RL has performed. -/
def Core.rlDone (x : Core) (m : Cmd) : Bool :=
  !m.rl || ((x.ctx m.ctx).acc.all fun a => m.id < a.mark) && x.cmds.all fun o => !(o.ctx == m.ctx && o.id < m.id)

/-- … the commands it submitted to compute-capable blocks with it (R196, R198). -/
def State.rlDone (s : State) (c : Nat) (m : Cmd) : Bool :=
  (s.core c).rlDone m && (!m.rl || !s.stackBusy c m.ctx 0xFFFF)

/-- A tile command that ends without its effect, as far as it had come: what it measured or programmed counts (R319, R326), and so does an
update that could not read its sources (R336). -/
def State.failTile (s : State) (c : Nat) (m : Cmd) (t st : Nat) : State :=
  (match m.ins with
    | .xmv _ | .xmvt _ | .xrd _ => if m.prog = 0 then s else s.modTile c t fun u => u.judge m.product.drifted m.product.gross
    | .xpgm _ => if st = 8 then s else s.modTile c t fun u => u.programmed m.reg
    | .xupd _ => if st = 8 then s else s.modTile c t fun u => { u with winAcc := u.winAcc + 1 }
    | _ => s).endTile c m t st

/-- A command that has run and writes its record, its points, its estimates or its block. -/
def Cmd.writesLast (m : Cmd) : Bool :=
  match m.ins with
  | .xupd _ => !m.blk.isEmpty
  | .xdep _ | .xdepRst _ | .xsym _ | .xrd _ | .xstatBlk _ => true
  | _ => false

/-- R285: a command whose page was refused at its write: it has run, and ends with 2 (R320, R322, R324, R325). -/
def State.refusedTile (s : State) (c : Nat) (m : Cmd) (f : EF) (t : Nat) : State :=
  if !m.writesLast then s.failTile c m t 2
  else
    let p := s.runTile c m f t
    match p.2 with
    | some x => p.1.endTile c m t (if x = 0 then 2 else x)
    | none => (match (p.1.core c).findCmd m.id with | some m => p.1.failTile c m t 2 | none => p.1)

/-- CROSSBAR_COMMAND_COMPLETE (R315, R317): the running command of a tile ends, or a part of one that goes on. -/
def execCrossbarCommandComplete (c t : Nat) (s : State) : Out :=
  .next <|
    let x := s.core c
    match x.cmds.find? fun m => m.engine == .tile t && m.st.running? && m.fail.isNone with
    | none => s
    | some m =>
      match Instr.ef m.ins with
      | none => s
      | some f =>
        if !((match m.due with | some d => d ≤ x.clock | none => false) && s.rlDone c m && s.partsClear c m) then s
        else match (s.through m).firstMiss m.space (xbTouch m f) with
        | .at va w => s.missCmd c m va w
        | .transit => s
        | .refused | .none =>
          let p := (s.keepStream c m (xbTouch m f) (xbRanges m f)).runTile c m f t
          p.2.elim p.1 (p.1.endTile c m t)

/-- R327: a command of a tile in lasting fault ends without running; the rows of a product read +0 with the unknown bound. -/
def State.endDead (s : State) (c t : Nat) (m : Cmd) : State :=
  (match Instr.ef m.ins with
    | some f =>
      if isProduct m.ins then (List.range (6 * Machine.EF.nv f)).foldl (fun (s : State) r =>
        s.modCore c fun x => x.putAcc (m.gbase + m.vd.toNat + r) 0 (mkSide .unknown false)) s
      else s
    | none => s).endTile c m t 7

/-- … and so do all that are queued when the fault is declared. -/
def State.dropTile (s : State) (c t : Nat) : State :=
  ((s.core c).cmds.filter fun m => m.engine == .tile t && !m.underway).foldl (fun s m => s.endDead c t m) s

end Sys2Proof.Machine
end

