-- ==== Sys2Proof/Machine/Units.lean ====
section
/-! DEFINITION. The commands that leave a core: pearl configuration, the join unit's four commands, storage reads, decodes and resizes
(spec/24 R354-R366, spec/22 R341, spec/25 R369, spec/30 R407-R410). What a command does when it completes stands in `run…`. -/

namespace Sys2Proof.Machine

/-! ## Control blocks (R355) -/

/-- A control block as its command reads it at issue: its bytes and whether a page of them carries A. -/
inductive Block where
  | ok (bytes : List Byte) (a : Bool)
  | wait (ea : Word)
  | miss (ea : Word)
  | bad (cause : Nat)
  deriving DecidableEq, Repr

/-- One granule more. -/
def State.blockMore (s : State) (bs : List Byte) (a : Bool) (v : Word) : Block :=
  match s.look s.curCore s.curCtx v with
  | .wait => .wait v
  | .miss => .miss v
  | .malformed => .bad 0x0E
  | .ok pa t =>
    let pr := readAt pa (if t.d then s.holdOf v else 0) (dieOf s.curCore)
    if !s.inDomain (modOf pa) || !placeOk pa false || !placeOk pr false || s.markedByte pa || !t.r then .bad 0x0E
    else if s.retiredByte pa || s.poisoned pr then .bad 0x0B
    else .ok (bs ++ s.seen pr 64) (a || t.a)

def State.block (s : State) (ea : Word) (n : Nat) : Block :=
  (List.range n).foldl (fun g i => match g with | .ok bs a => s.blockMore bs a (ea + BitVec.ofNat 64 (64 * i)) | g => g) (.ok [] false)

/-- Read a block of `n` granules at issue; the context's own accesses perform before it. -/
def State.readBlock (s : State) (ea : Word) (n : Nat) (body : List Byte → Bool → Issue) : Issue :=
  if !s.me.acc.isEmpty || s.myCore.rangeHold (s.rangeParts s.curCore s.me.space ea.toNat (64 * n) false) then .wait s
  else match s.block ea n with
  | .wait v => .wait (s.modMe (·.ask v))
  | .miss v => .park 6 v
  | .bad c => .trap c ea
  | .ok bs a => body bs a

/-- Fields of a block. -/
def fld (bs : List Byte) (o n : Nat) : Nat := sub bs o n
def zeros (bs : List Byte) (o n : Nat) : Bool := ((bs.drop o).take n).all (· == 0)
def wordAt (bs : List Byte) (o : Nat) : Word := BitVec.ofNat 64 (fld bs o 8)
/-- A finite f32. -/
def f32Fin (n : Nat) : Bool := (fmtF32.value n).isFin

/-! ## PCFG (R358, R369) -/

/-- Words of an image that count. -/
def imageLen (nw : Nat) : Nat := 64 + 8 * min nw 1024

/-- PCFG at issue. -/
def execPcfg (f : EF) (s : State) : Out :=
  s.issueEngine (.pcfg f) f 0 [f.r.a.toNat, f.r.b.toNat] fun s =>
    let a := s.getS f.r.a
    let b := s.getS f.r.b
    if !eaAligned a then .trap 0x08 a
    else if b.extractLsb' 0 21 != 0 then .trap 0x08 b
    else if f.eng != 0 then .trap 0x0D (EF.word (.pcfg f))
    else if !eaPlain a then .trap 0x0E a
    else if !eaPlain b then .trap 0x0E b
    else s.noStep <|
      match s.look s.curCore s.curCtx b with
      | .wait => .wait (s.modMe (·.ask b))
      | .miss => .park 6 b
      | .malformed => .trap 0x0E b
      | .ok pa t =>
        if !t.c || !s.inDomain (modOf pa) then .trap 0x0E b
        else
          let head := s.engRead s.curCore s.me.space a.toNat 64
          let parts := s.rangeParts s.curCore s.me.space a.toNat (imageLen (fld head.bytes 2 2)) false
          -- the block is held by its physical address
          s.enterSlot f 0 { s.newCmd (.pcfg f) f .unit parts with vc := BitVec.ofNat 64 pa }

/-- A pending alias access to the tiles of a block, of any context: one issued and not performed, or one its controller has yet to judge. -/
def State.aliasPending (s : State) (pa : Nat) : Bool :=
  s.cores.any fun p => [0, 1, 2, 3].any fun k =>
    ((s.ctx p.1 k).acc.any fun a =>
      let b := a.bits.getD 0 0 / 8
      eaAlias a.ea != 0 && !a.bits.isEmpty && (if 2 ^ 64 ≤ b then (dataPearl b).1 == pearlKey pa else pearlKey b == pearlKey pa)) ||
    (match (s.ctx p.1 k).win with | some q => q.ans.isNone && pearlKey q.w.pa == pearlKey pa | none => false)

/-- What a command of the group that may end answers: the state, STATUS, COUNT and the conversion poison. -/
structure Done where
  s : State
  st : Nat
  cnt : Nat
  poison : Bool
  deriving Repr

/-- The image of a PCFG, read. -/
def State.imageOf (s : State) (c : Nat) (m : Cmd) : Got :=
  let head := s.engRead c m.space m.va.toNat 64
  s.engReads c m.space m.va.toNat ((imageLen (fld head.bytes 2 2) + 31) / 32)

/-- The words of an image. -/
def imageWords (bs : List Byte) : List Word := (List.range (min (fld bs 2 2) 1024)).map fun i => wordAt bs (64 + 8 * i)

/-- PCFG once it may configure: first it reads its image and holds the tiles, then it sets them (R358). -/
def State.runPcfg (s : State) (c : Nat) (m : Cmd) : Option (State ⊕ Done) :=
  let pa := m.vc.toNat
  if m.prog != 0 then
    some (.inr ⟨s.modPearl pa fun p => { p with kind := fld m.blk 0 1, image := imageWords m.blk, configuring := false }, 0, 0, false⟩)
  else
  let g := s.imageOf c m
  if g.a then some (.inr ⟨s, 5, 0, false⟩)
  else if g.bad != 0 then some (.inr ⟨s, g.bad, 0, false⟩)
  else if !(zeros g.bytes 1 1 && zeros g.bytes 4 60 && imageOk (fld g.bytes 0 1) (fld g.bytes 2 2) (imageWords g.bytes)) then
    some (.inr ⟨s, 0x0A, 0, false⟩)
  else if s.aliasPending pa || !(s.pearlAt pa).queue.isEmpty || (s.pearlAt pa).configuring then none
  else some (.inl ((s.modPearl pa fun p => { p with configuring := true }).modCore c fun x =>
    x.modCmd m.id fun m => { m with prog := 1, blk := g.bytes }))

/-! ## RJCFG (R359, R398) -/

def State.modUnit (s : State) (d : Nat) (g : JoinUnit → JoinUnit) : State := s.setDie d { s.die d with unit := g (s.die d).unit }
def JoinUnit.setWord (u : JoinUnit) (n : Nat) (v : Word) : JoinUnit := { u with cfg := Tab.set (fun _ => 0) u.cfg n v }
def JoinUnit.on (u : JoinUnit) : Bool := (u.word 0).getLsbD 0
def JoinUnit.ord (u : JoinUnit) : Bool := (u.word 0).getLsbD 1
def JoinUnit.sflag (u : JoinUnit) : Bool := (u.word 0).getLsbD 2
def JoinUnit.pri (u : JoinUnit) : Nat := ((u.word 0).extractLsb' 8 2).toNat
def JoinUnit.grt (u : JoinUnit) : Nat := ((u.word 0).extractLsb' 16 6).toNat
def JoinUnit.gamma (u : JoinUnit) : Nat := ((u.word 1).extractLsb' 0 32).toNat
def JoinUnit.lambda (u : JoinUnit) : Nat := ((u.word 1).extractLsb' 32 32).toNat
def JoinUnit.etmo (u : JoinUnit) : Nat := ((u.word 2).extractLsb' 0 32).toNat
def JoinUnit.otmo (u : JoinUnit) : Nat := ((u.word 2).extractLsb' 32 32).toNat
def JoinUnit.ver (u : JoinUnit) : BitVec 32 := (u.word 3).extractLsb' 0 32
def JoinUnit.lag (u : JoinUnit) : BitVec 32 := (u.word 3).extractLsb' 32 32

/-- γ and λ lie from 0 to 1. -/
def unitRange (n : Nat) : Bool :=
  match fmtF32.value n with
  | .fin neg x => x ≤ 1 && (!neg || x == 0)
  | _ => false

/-- The limits of the configuration words. -/
def rjcfgOk (w : List Word) : Bool :=
  let g := fun n => w.getD n 0
  (g 0 &&& 0xFFFFFFFFFFC0FCF8) == 0 && unitRange ((g 1).extractLsb' 0 32).toNat && unitRange ((g 1).extractLsb' 32 32).toNat &&
    (g 2).extractLsb' 0 32 != 0 && (g 2).extractLsb' 32 32 != 0 && (g 4).extractLsb' 0 3 == 0 && !eaTop (g 4) &&
    (g 6).extractLsb' 27 37 == 0 && (w.drop 7).all (· == 0)

def EF.dieNo (f : EF) : Nat := (f.eng.extractLsb' 0 3).toNat

/-- New words; EN rising numbers the next seal 0. -/
def JoinUnit.configure (u : JoinUnit) (ws : List Word) (space lid : Nat) : JoinUnit :=
  let v := ws.foldl (fun (p : JoinUnit × Nat) w => (p.1.setWord p.2 w, p.2 + 1)) (u, 0)
  { v.1 with nextSeal := if !u.on && v.1.on then 0 else u.nextSeal, space := space, lid := lid }

/-- RJCFG SUB 0. -/
def execRjcfg (f : EF) (s : State) : Out :=
  s.issueEngine (.rjcfg f) f 1 [f.r.a.toNat] fun s =>
    let a := s.getS f.r.a
    let info := EF.word (.rjcfg f)
    if !eaAligned a then .trap 0x08 a
    else if f.eng.extractLsb' 3 37 != 0 then .trap 0x0D info
    else if !eaPlain a then .trap 0x0E a
    else s.noStep <| s.readBlock a 2 fun bs apx =>
      let ws := (List.range 16).map fun i => wordAt bs (8 * i)
      if apx then .trap 0x04 a
      else if !rjcfgOk ws then .trap 0x0D info
      else .done (s.modUnit (Machine.EF.dieNo f) fun u => u.configure ws s.me.space s.me.lid)

/-- RJCFG SUB 1: VER alone. -/
def execRjcfgVer (f : EF) (s : State) : Out :=
  s.issueEngine (.rjcfgVer f) f 0 [f.r.a.toNat] fun s =>
    let v := s.getS f.r.a
    if f.eng.extractLsb' 3 37 != 0 then .trap 0x0D (EF.word (.rjcfgVer f))
    else s.noStep <| .done (s.modUnit (Machine.EF.dieNo f) fun u =>
      u.setWord 3 ((u.word 3 &&& 0xFFFFFFFF00000000) ||| (v &&& 0xFFFFFFFF)))

/-! ## Counters and entries of a unit (R390-R392, R397) -/

/-- Physical address of a counter (R397). -/
def State.rjCounter (s : State) (d n : Nat) : Nat := s.pub (0x20000 + 4096 + 128 * d + 8 * n)
/-- Add 1 to counter `n`, and store it. -/
def State.rjCount (s : State) (d n : Nat) : State :=
  let v := (Tab.get (fun _ => 0) (s.die d).unit.counters n + 1) % 2 ^ 64
  (s.modUnit d fun u => { u with counters := Tab.set (fun _ => 0) u.counters n v }).storeAt none (s.rjCounter d n) (leBytes 8 v) none

def JoinUnit.entry (u : JoinUnit) (key : Word) : Option JEntry := u.entries.find? fun e => e.key == key
def JoinUnit.modEntry (u : JoinUnit) (serial : Nat) (g : JEntry → JEntry) : JoinUnit :=
  { u with entries := u.entries.map fun e => if e.serial == serial then g e else e }
def JoinUnit.dropEntry (u : JoinUnit) (serial : Nat) : JoinUnit := { u with entries := u.entries.filter fun e => e.serial != serial }
/-- Rewards in the reward store. -/
def JoinUnit.stored (u : JoinUnit) : Nat := (u.entries.map fun e => e.rewards.length).sum

def JEntry.has (e : JEntry) (seq : BitVec 32) : Option Reward := e.rewards.find? fun r => r.seq == seq
/-- A duplicate differs from what is held. -/
def conflicts (r : Reward) (m : JMsg) : Bool := r.step != m.step.toNat || r.val != m.val

/-- Join a reward to an entry, unless the reward store is full; counters JOINED or RFULL. -/
def State.joinReward (s : State) (d : Nat) (e : JEntry) (m : JMsg) : State × Bool :=
  if 4194304 ≤ (s.die d).unit.stored then
    ((s.modUnit d fun u => u.modEntry e.serial fun e => { e with flags := e.flags ||| 4 }).rjCount d 10, false)
  else
    ((s.modUnit d fun u => u.modEntry e.serial fun e =>
      { e with rewards := e.rewards ++ [⟨m.seq, m.step.toNat, m.val⟩], ngot := e.ngot + 1, age := 0 }).rjCount d 1, true)

/-- An entry enters QUEUED. -/
def State.queueEntry (s : State) (d serial : Nat) (tmo : Bool) : State :=
  s.modUnit d fun u =>
    { u.modEntry serial fun e => { e with st := .queued, flags := if tmo then e.flags ||| 2 else e.flags } with queued := u.queued ++ [serial] }

/-- R392: the orphans of a sealed key, in their order. -/
def State.matchOrphans (s : State) (d serial : Nat) (key : Word) : State :=
  let mine := (s.die d).unit.orphans.filter fun o => o.m.key == key
  let s := s.modUnit d fun u => { u with orphans := u.orphans.filter fun o => o.m.key != key }
  mine.foldl (fun s o =>
    match (s.die d).unit.entry key with
    | none => s
    | some e =>
      if e.serial != serial then s
      else if e.len ≤ o.m.step.toNat then s.rjCount d 6
      else match e.has o.m.seq with
      | some r => let t := s.rjCount d 4
                  if conflicts r o.m then t.rjCount d 5 else t
      | none => let p := s.joinReward d e o.m
                if p.2 then p.1.rjCount d 3 else p.1) s

/-! ## RJSEAL (R360, R361, R390) -/

/-- The fields of a descriptor are within their limits. -/
def sealOk (bs : List Byte) : Bool :=
  1 ≤ fld bs 8 4 && fld bs 8 4 ≤ 65536 && fld bs 12 4 ≤ 16777215 && fld bs 24 8 % 64 == 0 && zeros bs 44 20

/-- Each 64-byte unit of `n` bytes of steps, on pages that translate: its physical address and its page's HOLD bits. -/
def State.stepUnits (s : State) (steps : Word) (n : Nat) (trs : List (Nat × Attr)) : List (Nat × Nat) :=
  let pages := pageWords steps n
  (List.range ((n + 63) / 64)).map fun i =>
    let a := steps.toNat + 64 * i
    (lineOf pages trs a, if (List.zip pages trs).any (fun p => p.1.toNat / 0x10000 == a / 0x10000 && p.2.2.d)
      then s.holdOf (BitVec.ofNat 64 a) else 0)

/-- A unit of steps stands where no mapping reaches (R76, R419). -/
def State.misplaced (s : State) (pa hold : Nat) : Bool := !s.inDomain (modOf pa) || !copiesOk pa hold 0 true || s.markedByte pa

/-- R388: a seal orders no earlier RJSEND. -/
def isSend (m : Cmd) : Bool := match m.ins with | .rjsend _ => true | _ => false

/-- RJSEAL: the descriptor is judged, then the unit refuses or accepts, and on acceptance the pages of the steps are resolved (R390). -/
def execRjseal (f : EF) (s : State) : Out :=
  s.issueEngine (.rjseal f) f 0 [f.r.a.toNat] fun s =>
    let a := s.getS f.r.a
    let info := EF.word (.rjseal f)
    if !eaAligned a then .trap 0x08 a
    else if f.eng != 0 then .trap 0x0D info
    else if !eaPlain a then .trap 0x0E a
    else s.noStep <| s.releaseBut isSend <| s.readBlock a 1 fun bs apx =>
      if apx then .trap 0x04 a
      else if !sealOk bs then .trap 0x0D info
      else
        let len := fld bs 8 4
        let steps := wordAt bs 24
        let key := wordAt bs 0
        let d := key.toNat % 8
        let u := (s.die d).unit
        if !eaPlain steps || 2 ^ 52 < steps.toNat + 32 * len then .trap 0x0D info
        else if !u.on then .trap 0x16 2
        else if (u.entry key).isSome then .trap 0x16 3
        else if 65536 ≤ u.entries.length then .trap 0x16 1
        else match s.lookAll s.curCore s.curCtx (pageWords steps (32 * len)) with
        | .wait v => .wait (s.modMe (·.ask v))
        | .miss v => .park 1 v
        | .malformed v => .trap 0x0E v
        | .ok trs =>
          let units := s.stepUnits steps (32 * len) trs
          if trs.any fun t => !t.2.r || !t.2.w || t.2.a then .trap 0x0D info
          else match units.findIdx? fun p => s.misplaced p.1 p.2 with
          | some i => .trap 0x0E (steps + BitVec.ofNat 64 (64 * i))
          | none =>
          match s.look s.curCore s.curCtx a with
          | .ok pa at' =>
              let n := u.nextSerial
              let hold := if at'.d then s.holdOf a else 0
              -- the unit writes the descriptor (R360)
              if s.misplaced pa hold then .trap 0x0E a else
              let e : JEntry :=
                { serial := n, key := key, len := len, nrew := fld bs 12 4, ver := BitVec.ofNat 32 (fld bs 16 4),
                  vboot := BitVec.ofNat 32 (fld bs 32 4), desc := a, descPa := pa, descHold := hold, steps := units,
                  seq := BitVec.ofNat 32 u.nextSeal, ngot := 0, flags := 0, age := 0, st := .held, rewards := [] }
              let t := s.modUnit d fun u => { u with entries := u.entries ++ [e], nextSerial := n + 1, nextSeal := (u.nextSeal + 1) % 2 ^ 32 }
              let t := (t.storeD none (pa + 36) hold (leBytes 4 u.nextSeal) none).matchOrphans d n key
              let t := match (t.die d).unit.entry key with
                | some e => if e.ngot == e.nrew then t.queueEntry d n false else t
                | none => t
              .done ((t.noteStore).putS f.r.d.toNat (BitVec.ofNat 64 u.nextSeal) 1)
          | _ => .wait s

/-! ## RJSEND (R362) and RJTAKE (R363) -/

def EF.msgs (f : EF) : Nat := (f.eng.extractLsb' 32 8).toNat + 1

/-- RJSEND at issue. -/
def execRjsend (f : EF) (s : State) : Out :=
  s.issueEngine (.rjsend f) f 0 [f.r.a.toNat, f.r.b.toNat] fun s =>
    let a := s.getS f.r.a
    let b := s.getS f.r.b
    if !eaAligned a then .trap 0x08 a
    else if f.eng.extractLsb' 0 32 != 0 || b.extractLsb' 10 54 != 0 then .trap 0x0D (EF.word (.rjsend f))
    else if !eaPlain a then .trap 0x0E a
    else s.noStep <|
      s.enterSlot f 0 (s.newCmd (.rjsend f) f .unit (s.rangeParts s.curCore s.me.space a.toNat (32 * Machine.EF.msgs f) false))

/-- A message of an RJSEND. -/
def msgOf (bs : List Byte) (i core cmd : Nat) : JMsg :=
  let b := (bs.drop (32 * i)).take 32
  { key := wordAt b 0, step := BitVec.ofNat 32 (fld b 8 4), seq := BitVec.ofNat 32 (fld b 12 4), val := BitVec.ofNat 32 (fld b 16 4),
    tail := b.drop 20, core := core, cmd := cmd }

/-- An earlier RJSEND of the same context has yet to send (R362). -/
def Core.sendsBefore (x : Core) (m : Cmd) : Bool :=
  x.cmds.any fun o => o.id < m.id && o.ctx == m.ctx && o.prog == 0 && (match o.ins with | .rjsend _ => true | _ => false)

/-- Messages of a command that no unit has taken yet. -/
def State.undelivered (s : State) (c q : Nat) : Bool := s.dies.any fun p => p.2.unit.inbox.any fun m => m.core == c && m.cmd == q

/-- RJSEND: first the messages go out, then it waits until every one has been accepted. -/
def State.runRjsend (s : State) (c : Nat) (m : Cmd) (f : EF) : Option (State ⊕ Done) :=
  let n := Machine.EF.msgs f
  let to' := m.vb.toNat
  if m.prog = 0 then
    let g := s.engReads c m.space m.va.toNat n
    if (s.core c).sendsBefore m then none
    else if g.a then some (.inr ⟨s, 5, 0, false⟩)
    else if g.bad != 0 then some (.inr ⟨s, g.bad, 0, false⟩)
    else if !s.inDomain to' then some (.inr ⟨s, 2, 0, false⟩)
    else if s.koyth.unreachable.contains to' then some (.inr ⟨s, 9, 0, false⟩)
    else
      let t := s.modCore c fun x => x.modCmd m.id fun m => { m with prog := 1 }
      some (.inl (if to' != s.koyth.modId then t
        else (List.range n).foldl (fun t i =>
          let q := msgOf g.bytes i c m.id
          t.modUnit (q.key.toNat % 8) fun u => { u with inbox := u.inbox ++ [q] }) t))
  else if s.undelivered c m.id then none
  else some (.inr ⟨s, 0, 32 * n, false⟩)

/-- RJTAKE: an acquire that answers at once. -/
def execRjtake (f : EF) (s : State) : Out :=
  s.issueEngine (.rjtake f) f 0 [f.r.a.toNat] fun s =>
    let d := s.getS f.r.a
    if f.eng != 0 || 7 < d.toNat then .trap 0x0D (EF.word (.rjtake f))
    else s.noStep <|
      let q := (s.die d.toNat).unit.relq
      .done ((s.modUnit d.toNat fun u => { u with relq := q.drop 1 }).putS f.r.d.toNat (q.headD 0) 1)

/-! ## Request blocks of STRD, MDEC and MRSZ -/

/-- A request of `n` granules at issue: on a page with A it ends with status 5 and is not acted on (R341). -/
def State.request (s : State) (i : Instr) (f : EF) (n : Nat) (ok : List Byte → Bool) (dst : List Byte → Word × Nat) : Out :=
  s.issueEngine i f 0 [f.r.a.toNat] fun s =>
    let a := s.getS f.r.a
    if !eaAligned a then .trap 0x08 a
    else if f.eng != 0 then .trap 0x0D (EF.word i)
    else if !eaPlain a then .trap 0x0E a
    else s.noStep <| s.readBlock a n fun bs apx =>
      let c := s.curCore
      let own := s.rangeParts c s.me.space a.toNat (64 * n) false
      if apx then s.enterSlot f 0 { s.newCmd i f .unit own with blk := bs, fail := some 5 }
      else if !ok bs then .trap 0x0D (EF.word i)
      else
        let w := dst bs
        let out := if eaPlain w.1 then s.rangeParts c s.me.space w.1.toNat w.2 true else []
        s.enterSlot f 0 { s.newCmd i f .unit (own ++ out) with blk := bs }

/-- Write the RESULT word of a block. -/
def State.putResult (s : State) (m : Cmd) (o v : Nat) : State :=
  s.engWrite m.space (m.va.toNat + o) (leBytes 8 v) false

/-- An unstated RESULT of a cancelled command. -/
def State.freeResult (s : State) (m : Cmd) (o : Nat) : State :=
  let (t, s) := s.next
  s.putResult m o (Config.word t 0).toNat

/-! ## STRD (R364, R408) -/

/-- The limits of the block that hold at issue. -/
def strdOk (bs : List Byte) : Bool :=
  fld bs 0 2 < 256 && zeros bs 2 2 && 1 ≤ fld bs 16 4 && fld bs 16 4 ≤ 65536 && zeros bs 20 4 && fld bs 24 8 % 64 == 0 && zeros bs 40 24

def State.conn (s : State) (n : Nat) : Option Conn := Tab.get (fun _ => none) s.io.conns n
def State.setConn (s : State) (n : Nat) (v : Option Conn) : State :=
  { s with io := { s.io with conns := Tab.set (fun _ => none) s.io.conns n v } }

/-- Bytes a request reads under a connection's block size. -/
def State.strdBytes (s : State) (bs : List Byte) : Nat :=
  match s.conn (fld bs 0 2) with
  | some k => fld bs 16 4 * 2 ^ k.lbasz
  | none => 0

/-- A byte of a range lies outside HBM, as far as its pages translate. -/
def State.outsideHbm (s : State) (a : Word) (n : Nat) (write : Bool) : Bool :=
  eaPlain a && (pagesIn a.toNat n).any fun v => match s.reach s.me.space v write with
    | .ok pa _ _ => (match targetOf pa with | .hbm _ => false | _ => true)
    | _ => false

/-- A command by its arrival number. -/
def bySeq (l : List (Nat × Cmd)) : List (Nat × Cmd) :=
  l.foldl (fun r p => r.takeWhile (fun q => q.2.seq ≤ p.2.seq) ++ p :: r.dropWhile (fun q => q.2.seq ≤ p.2.seq)) []

/-- Commands of one kind that are with their unit, in the order of their arrival there (`seq`): core and command. -/
def State.arrived (s : State) (u : Nat) : List (Nat × Cmd) :=
  bySeq <| s.cores.flatMap fun p =>
    (p.2.cmds.filter fun m => m.engine == .unit && servedBy m.ins == u && m.st.started && m.fail.isNone).map fun m => (p.1, m)

/-- R408: the reads under way: in order of arrival, at most 4,096 of the module and at most QDEPTH of a connection. -/
def State.readsServed (s : State) : List (Nat × Cmd) :=
  (s.arrived 3).foldl (fun l p =>
    let n := fld p.2.blk 0 2
    let mine := (l.filter fun q => fld q.2.blk 0 2 == n && q.2.reg == 1).length
    let room := p.2.reg != 1 || (match s.conn n with | some k => mine < k.qdepth | none => true)
    if l.length < 4096 && room then l ++ [p] else l) []

/-- R408-R410: a command has its place: a read as its connection and the module allow, a decode or a resize one of the 64 slices or
resizers. -/
def State.served (s : State) (c : Nat) (m : Cmd) : Bool :=
  let has := fun (l : List (Nat × Cmd)) => l.any fun p => p.1 == c && p.2.id == m.id
  match servedBy m.ins with
  | 3 => has s.readsServed
  | 4 => has ((s.arrived 4).take 64)
  | 5 => has ((s.arrived 5).take 64)
  | _ => true

/-- R409: besides those that have a slice at most 256 decodes wait; others wait in their cores. -/
def State.unitRoom (s : State) (m : Cmd) : Bool := servedBy m.ins != 4 || (s.arrived 4).length < 64 + 256

/-- Limits of an STRD and of an MDEC that need the page table: DST, and SRC, in HBM. -/
def State.strdLimits (s : State) (bs : List Byte) : Bool := strdOk bs && !s.outsideHbm (wordAt bs 24) (s.strdBytes bs) true

/-- STRD at issue. -/
def execStrd (f : EF) (s : State) : Out := s.request (.strd f) f 1 s.strdLimits fun bs => (wordAt bs 24, s.strdBytes bs)

/-- Every byte of the destination lies in HBM and may be written. -/
def State.dstOk (s : State) (space va n : Nat) : Bool :=
  (pagesIn va n).all fun a => match s.reach space a true with
    | .ok pa _ _ => (match targetOf pa with | .hbm _ => true | _ => false)
    | _ => false

/-- STRD: `reg` 1 says that its connection was open when it started; a local code, or the data (their bytes are the target's). -/
def State.runStrd (s : State) (m : Cmd) : Done :=
  let k := fld m.blk 0 2
  let n := s.strdBytes m.blk
  let dst := fld m.blk 24 8
  if m.cancel then
    let t := if m.reg = 1 && s.dstOk m.space dst n then s.scatterFree m.space dst n else s
    ⟨t.freeResult m 32, 1, 0, false⟩
  else if m.reg = 0 then ⟨s.putResult m 32 (1 * 65536), 0x0A, 0, false⟩
  else if !eaPlain (wordAt m.blk 24) || !s.dstOk m.space dst n then ⟨s.putResult m 32 (4 * 65536), 0x0A, 0, false⟩
  else
    let (t, s) := s.next
    let st := Config.readStatus t k
    -- on an NVMe error any granules may have been written
    let s := (List.range (n / 64)).foldl (fun s i =>
      if st == 0 || (Config.word t i).getLsbD 0 then s.engWrite m.space (dst + 64 * i) (freeBytes t (64 * i) 64) false else s) s
    if st == 0 then ⟨s.putResult m 32 0, 0, n, false⟩ else ⟨s.putResult m 32 (2 * 65536 + st.toNat), 0x0A, 0, false⟩

/-! ## MDEC (R365, R409) -/

def mdecCodec (bs : List Byte) : Nat := fld bs 0 1
/-- Bytes of a sample. -/
def mdecSample (codec : Nat) : Nat := if codec = 2 ∨ codec = 4 then 2 else 1
def mdecRowp (bs : List Byte) : Nat := fld bs 36 4
def mdecW (bs : List Byte) : Nat := fld bs 40 2
def mdecH (bs : List Byte) : Nat := fld bs 42 2
def mdecPitch (bs : List Byte) : Nat := fld bs 32 4
def mdecDst (bs : List Byte) : Nat := fld bs 24 8
/-- Bytes of a surface. -/
def surface (rowp h : Nat) : Nat := rowp * h * 3 / 2

/-- The limits of the block. -/
def mdecOk (bs : List Byte) : Bool :=
  mdecCodec bs ≤ 4 && zeros bs 1 3 && 1 ≤ fld bs 4 4 && fld bs 4 4 ≤ 65535 && 1 ≤ fld bs 16 8 && fld bs 16 8 ≤ 2 ^ 32 &&
    mdecDst bs % 64 == 0 && mdecPitch bs % 64 == 0 && mdecRowp bs % 64 == 0 && mdecW bs * mdecSample (mdecCodec bs) ≤ mdecRowp bs &&
    2 ≤ mdecW bs && mdecW bs ≤ 4096 && mdecW bs % 2 == 0 && 2 ≤ mdecH bs && mdecH bs ≤ 4096 && mdecH bs % 2 == 0 &&
    zeros bs 44 4 && zeros bs 56 8

def State.mdecLimits (s : State) (bs : List Byte) : Bool := mdecOk bs && !s.outsideHbm (wordAt bs 8) (fld bs 16 8) false

/-- MDEC at issue. -/
def execMdec (f : EF) (s : State) : Out :=
  s.request (.mdec f) f 1 s.mdecLimits fun bs => (wordAt bs 24, (fld bs 4 4 - 1) * mdecPitch bs + surface (mdecRowp bs) (mdecH bs))

/-- Bytes of row `y` of the luma plane (rows below H) or of the chroma plane (rows from H on) of a decoded frame. -/
def decodedRow (codec : Nat) (src : List Byte) (frame w y : Nat) : List Byte :=
  (List.range w).flatMap fun x =>
    let v := Config.sample codec src frame (y * w + x)
    if mdecSample codec = 2 then leBytes 2 (v % 1024) else leBytes 1 (v % 256)

/-- Write bytes in pieces of 64. -/
def Prog.putBytes (r : Prog) (space va : Nat) (bs : List Byte) (needA : Bool) : Prog :=
  (List.range ((bs.length + 63) / 64)).foldl (fun r i => r.put space (va + 64 * i) ((bs.drop (64 * i)).take 64) needA false) r

/-- R365: a write that meets a poisoned line. -/
def State.putPoison (s : State) (space va n : Nat) : Nat :=
  match s.reach space va true with
  | .ok pa _ _ => if s.anyPoison pa n then 3 else 0
  | _ => 0

/-- Bytes of a frame in pieces of 64: a poisoned line stops it. -/
def Prog.putSamples (r : Prog) (space va : Nat) (bs : List Byte) (needA : Bool) : Prog :=
  (List.range ((bs.length + 63) / 64)).foldl (fun r i =>
    let l := (bs.drop (64 * i)).take 64
    let g := r.s.writeGot r.own space (va + 64 * i) needA
    ((r.took g).check (r.s.putPoison space (va + 64 * i) l.length)).put space (va + 64 * i) l needA false) r

/-- One frame. -/
def Prog.putFrame (r : Prog) (m : Cmd) (src : List Byte) (k : Nat) (needA : Bool) : Prog :=
  let at' := mdecDst m.blk + k * mdecPitch m.blk
  (List.range (mdecH m.blk * 3 / 2)).foldl (fun r y =>
    r.putSamples m.space (at' + y * mdecRowp m.blk) (decodedRow (mdecCodec m.blk) src k (mdecW m.blk) y) needA) r

/-- Bytes of a stream; a byte at a time where its ends are not aligned. -/
def State.stream (s : State) (c space va n : Nat) : Got :=
  (pagesIn va n).foldl (fun g a => g.join (s.engRead c space a (min (va + n) ((a / 0x10000 + 1) * 0x10000) - a))) Got.nil

/-- The bytes of a stream before the first line that cannot be read. -/
def State.streamHead (s : State) (c space va n : Nat) : Got :=
  ((List.range ((va + n - 1) / 64 - va / 64 + 1)).foldl (fun (p : Got × Bool) i =>
    if p.2 then p
    else
      let a := max va ((va / 64 + i) * 64)
      let g := s.engRead c space a (min (va + n) ((va / 64 + i + 1) * 64) - a)
      if g.bad != 0 then (p.1, true) else (p.1.join g, false)) (Got.nil, false)).1

/-- What an MDEC finds in its stream: the bytes it can read, whether a page of the stream carries A, the frames it writes, the status of
the read that stops it (0 for none) and its code. -/
structure Decoding where
  bytes : List Byte
  a : Bool
  frames : Nat
  lost : Nat
  code : Nat
  deriving DecidableEq, Repr

/-- A stream with a part that cannot be read is decoded up to there. Where MAXF frames or a frame of another size come first, that ends
it; else the read does, or an error the decoder has found before it, for a number of frames that is free (log 44). -/
def State.decoding (s : State) (c : Nat) (m : Cmd) : Decoding :=
  let b := m.blk
  let whole := s.stream c m.space (fld b 8 8) (fld b 16 8)
  let g := if whole.bad = 0 then whole else s.streamHead c m.space (fld b 8 8) (fld b 16 8)
  let e := Config.decodeEnd (mdecCodec b) g.bytes
  let most := min (fld b 4 4) e.1
  -- frames before the first whose size is not W × H
  let n := ((List.range most).takeWhile fun k => Config.frameSize (mdecCodec b) g.bytes k == (mdecW b, mdecH b)).length
  let lost := whole.bad != 0 && n == most && e.1 < fld b 4 4 && (e.2 % 3 == 0 || (Config.word s.tick 2).getLsbD 0)
  { bytes := g.bytes, a := whole.a || g.a, frames := if lost || m.cancel then Config.pick s.tick % (n + 1) else n
    lost := if !lost then 0 else if whole.bad = 2 then 2 else 3
    code := if lost then 5 else if n < most then 3 else if fld b 4 4 ≤ e.1 then 0 else e.2 % 3 }

/-- MDEC. -/
def State.runMdec (s : State) (c : Nat) (m : Cmd) : Done :=
  let b := m.blk
  let res := fun (s : State) (code k : Nat) => s.putResult m 48 (code * 2 ^ 32 + k)
  let d := s.decoding c m
  if mdecPitch b < surface (mdecRowp b) (mdecH b) then ⟨res s 4 0, 0x0A, 0, false⟩
  else if !eaPlain (wordAt b 8) || !eaPlain (wordAt b 24) then ⟨res s 5 0, 2, 0, false⟩
  else
    let (t, s) := s.next
    -- frames one after another, and those finished
    let r := (List.range d.frames).foldl (fun (p : Prog × Nat) k =>
      let q := p.1.putFrame m d.bytes k d.a
      (q, if q.st = 0 then k + 1 else p.2)) (Prog.start s, 0)
    let p := r.1
    if p.st = 5 then ⟨p.s.putResult m 48 ((Config.word t 1).toNat % 256 * 2 ^ 32 + r.2), 5, p.cnt, false⟩
    else if p.st != 0 then ⟨res p.s 5 r.2, if p.st = 2 then 2 else 3, p.cnt, false⟩
    else if d.lost != 0 && !m.cancel then ⟨res p.s 5 r.2, d.lost, p.cnt, false⟩
    else if m.cancel then ⟨p.s.putResult m 48 ((Config.word t 1).toNat % 256 * 2 ^ 32 + r.2), 1, p.cnt, false⟩
    else ⟨res p.s d.code r.2, if d.code = 0 then 0 else 0x0A, p.cnt, false⟩

/-! ## MRSZ (R366, R410) -/

/-- A request of MRSZ. -/
structure Resize where
  src : Nat
  srowp : Nat
  sbits : Nat
  mat : Nat
  full : Bool
  sw : Nat
  sh : Nat
  cx : Nat
  cy : Nat
  cw : Nat
  ch : Nat
  ow : Nat
  oh : Nat
  dst : Nat
  drowp : Nat
  dplane : Nat
  scale : List Nat
  bias : List Nat
  deriving DecidableEq, Repr

def resizeOf (b : List Byte) : Resize :=
  { src := fld b 0 8, srowp := fld b 8 4, sbits := fld b 12 1, mat := fld b 13 1, full := fld b 14 1 == 1, sw := fld b 16 2,
    sh := fld b 18 2, cx := fld b 20 2, cy := fld b 22 2, cw := fld b 24 2, ch := fld b 26 2, ow := fld b 28 2, oh := fld b 30 2,
    dst := fld b 32 8, drowp := fld b 40 4, dplane := fld b 44 4, scale := [fld b 48 4, fld b 52 4, fld b 56 4],
    bias := [fld b 60 4, fld b 64 4, fld b 68 4] }

/-- Bytes of an output element. -/
def EF.outBytes (f : EF) : Nat := tyWidth f.r.ty.toNat / 8

/-- The limits of the block. -/
def mrszOk (w : Nat) (b : List Byte) : Bool :=
  let q := resizeOf b
  let dim := fun n => 2 ≤ n && n ≤ 4096 && n % 2 == 0
  q.src % 64 == 0 && q.srowp % 64 == 0 && q.sw * (if q.sbits = 8 then 1 else 2) ≤ q.srowp && (q.sbits == 8 || q.sbits == 10) && q.mat ≤ 2 && fld b 14 1 ≤ 1 && zeros b 15 1 && dim q.sw && dim q.sh &&
    1 ≤ q.cw && 1 ≤ q.ch && q.cx + q.cw ≤ q.sw && q.cy + q.ch ≤ q.sh && 1 ≤ q.ow && q.ow ≤ 4096 && 1 ≤ q.oh && q.oh ≤ 4096 &&
    q.dst % 64 == 0 && q.drowp % 64 == 0 && q.ow * w ≤ q.drowp && q.dplane % 64 == 0 && q.drowp * q.oh ≤ q.dplane &&
    (q.scale ++ q.bias).all f32Fin && zeros b 80 48

def Resize.outLen (q : Resize) (w : Nat) : Nat := 2 * q.dplane + (q.oh - 1) * q.drowp + q.ow * w

/-- MRSZ at issue. -/
def execMrsz (f : EF) (s : State) : Out :=
  s.request (.mrsz f) f 2 (mrszOk (Machine.EF.outBytes f)) fun b => (BitVec.ofNat 64 (resizeOf b).dst, (resizeOf b).outLen (Machine.EF.outBytes f))

def Resize.sb (q : Resize) : Nat := if q.sbits = 8 then 1 else 2
/-- Address of a sample: plane 0 luma, 1 Cb, 2 Cr. -/
def Resize.addr (q : Resize) (p x y : Nat) : Nat :=
  if p = 0 then q.src + y * q.srowp + x * q.sb
  else q.src + q.srowp * q.sh + y / 2 * q.srowp + (x / 2 * 2 + (p - 1)) * q.sb

/-- Ranges read: the crop's rows in both planes. -/
def Resize.reads (q : Resize) : List (Nat × Nat) :=
  ((List.range q.ch).map fun y => (q.addr 0 q.cx (q.cy + y), q.cw * q.sb)) ++
  ((List.range q.ch).map fun y => (q.addr 1 q.cx (q.cy + y), q.addr 2 (q.cx + q.cw - 1) (q.cy + y) + q.sb - q.addr 1 q.cx (q.cy + y)))

/-- Positions along an axis: the two samples and the weight of the second in 256ths. -/
def resizeAxis (u n out c0 : Nat) : Nat × Nat × Nat :=
  let p : Int := (((2 * u + 1) * n * 65536 / (2 * out) : Nat) : Int) - 32768
  let s := (max 0 (min p (((n - 1) * 65536 : Nat) : Int))).toNat
  let i := c0 + s / 65536
  (i, min (i + 1) (c0 + n - 1), s % 65536 / 256)

/-- Kr and Kb. -/
def matrixK (mat : Nat) : Rat × Rat :=
  match mat with
  | 0 => (299 / 1000, 114 / 1000)
  | 1 => (2126 / 10000, 722 / 10000)
  | _ => (2627 / 10000, 593 / 10000)

/-- The colours at an output position, from a reader of samples. -/
def Resize.rgb (q : Resize) (sample : Nat → Nat → Nat → Nat) (u v : Nat) : List Rat :=
  let (ix, jx, fx) := resizeAxis u q.cw q.ow q.cx
  let (iy, jy, fy) := resizeAxis v q.ch q.oh q.cy
  let s := fun p => (((256 - fx) * (256 - fy) * sample p ix iy + fx * (256 - fy) * sample p jx iy +
    (256 - fx) * fy * sample p ix jy + fx * fy * sample p jx jy : Nat) : Rat) / 65536
  let k : Rat := if q.sbits = 10 then 4 else 1
  let top : Rat := ((2 ^ q.sbits - 1 : Nat) : Rat)
  let y := if q.full then s 0 / top else (s 0 - 16 * k) / (219 * k)
  let chroma := fun p => if q.full then (s p - ((2 ^ (q.sbits - 1) : Nat) : Rat)) / top else (s p - 128 * k) / (224 * k)
  let (kr, kb) := matrixK q.mat
  let r := y + 2 * (1 - kr) * chroma 2
  let b := y + 2 * (1 - kb) * chroma 1
  [r, (y - kr * r - kb * b) / (1 - kr - kb), b]

/-- One output code and whether MEDIA is set. -/
def mrszOut (ty rm : Nat) (x : Rat) (scale bias : Nat) : Nat × Bool :=
  let c := fmtF32.value (fmtF32.round 0 (Fv.ofSum 0 x) 0)
  let v := Fv.add rm (Fv.mul c (fmtF32.value scale)) (fmtF32.value bias)
  let big : Nat := if ty = 9 then 0x7F7F else 0x7F
  let top := fun (neg : Bool) => if neg then 2 ^ (tyWidth ty - 1) + big else big
  if ((2 ^ 128 : Nat) : Rat) * (1 - 1 / ((2 ^ 25 : Nat) : Rat)) ≤ |v.rat| then (top v.neg, true)
  else
    match fmtOf ty with
    | some fm =>
      let n := fm.round rm v 0
      (if (fm.value n).isFin then n else top v.neg, false)
    | none => (0, false)

/-- Row `i` of the three output planes, as codes with their MEDIA marks. -/
def State.resizeRow (s : State) (c : Nat) (m : Cmd) (f : EF) (q : Resize) (i : Nat) : List (Nat × Bool) :=
  let sample := fun p x y =>
    let v := leNat (s.engRead c m.space (q.addr p x y) q.sb).bytes
    if q.sbits = 10 then v % 1024 else v
  let ch := i / q.oh
  (List.range q.ow).map fun u =>
    mrszOut f.r.ty.toNat f.r.rm.toNat ((q.rgb sample u (i % q.oh)).getD ch 0) (q.scale.getD ch 0) (q.bias.getD ch 0)

/-- Every sample of an output position can be read. -/
def State.legible (s : State) (c : Nat) (m : Cmd) (q : Resize) (u v : Nat) : Bool :=
  let (ix, jx, _) := resizeAxis u q.cw q.ow q.cx
  let (iy, jy, _) := resizeAxis v q.ch q.oh q.cy
  [0, 1, 2].all fun p => [ix, jx].all fun x => [iy, jy].all fun y => (s.engRead c m.space (q.addr p x y) q.sb).bad == 0

/-- Codes written at a place, with their MEDIA marks: saturation counts where the code was written (R139). -/
def Prog.putCodes (r : Prog) (space va w : Nat) (codes : List (Nat × Bool)) (needA : Bool) : Prog :=
  let n := 64 / w
  (List.range ((codes.length + n - 1) / n)).foldl (fun r j =>
    let l := (codes.drop (n * j)).take n
    let r := r.put space (va + 64 * j) (l.flatMap fun p => leBytes w p.1) needA false
    { r with poison := r.poison || (l.any (·.2) && r.st == 0) }) r

/-- R410: an MRSZ that meets a source read it cannot make leaves the granules it has written by then; which they are is free. -/
def State.resizeHalf (s : State) (c : Nat) (m : Cmd) (f : EF) (q : Resize) (needA : Bool) : Prog :=
  let w := Machine.EF.outBytes f
  let n := 64 / w
  let (t, s') := s.next
  (List.range (3 * q.oh)).foldl (fun (r : Prog) i =>
    let row := s.resizeRow c m f q i
    (List.range ((q.ow + n - 1) / n)).foldl (fun (r : Prog) j =>
      let codes := (row.drop (n * j)).take n
      if (Config.word t (1024 * i + j)).getLsbD 0 && (List.range codes.length).all fun k => s.legible c m q (n * j + k) (i % q.oh) then
        r.putCodes m.space (q.dst + i / q.oh * q.dplane + i % q.oh * q.drowp + 64 * j) w codes needA
      else r) r) (Prog.start s')

/-- MRSZ. -/
def State.runMrsz (s : State) (c : Nat) (m : Cmd) (f : EF) : Done :=
  let q := resizeOf m.blk
  let w := Machine.EF.outBytes f
  if m.cancel then
    let t := (List.range (3 * q.oh)).foldl (fun (s : State) i =>
      let (n, s) := s.next
      (Prog.start s).putBytes m.space (q.dst + i / q.oh * q.dplane + i % q.oh * q.drowp) (freeBytes n 0 (q.ow * w)) false |>.s) s
    ⟨t.freeResult m 72, 1, 0, false⟩
  else
    let gs := q.reads.map fun p => s.stream c m.space p.1 p.2
    -- R341: any byte of SRC, the whole surface
    let anyA := (pagesIn q.src (surface q.srowp q.sh)).any fun a => match s.reach m.space a false with | .ok _ t _ => t.a | _ => false
    if !eaPlain (BitVec.ofNat 64 q.src) then ⟨s.putResult m 72 1, 0x0A, 0, false⟩
    else if gs.any (·.bad != 0) then
      let r := if eaPlain (BitVec.ofNat 64 q.dst) then s.resizeHalf c m f q anyA else Prog.start s
      ⟨r.s.putResult m 72 1, 0x0A, r.cnt, r.poison⟩
    else if !eaPlain (BitVec.ofNat 64 q.dst) then ⟨s.putResult m 72 0, 2, 0, false⟩
    else
      let r := (List.range (3 * q.oh)).foldl (fun (r : Prog) i =>
        r.putCodes m.space (q.dst + i / q.oh * q.dplane + i % q.oh * q.drowp) w (s.resizeRow c m f q i) anyA) (Prog.start s)
      ⟨r.s.putResult m 72 0, r.st, r.cnt, r.poison⟩

/-! ## What the unit reaches -/

/-- Ranges a command of the group touches. -/
def unitTouch (s : State) (c : Nat) (m : Cmd) (f : EF) : List (Nat × Nat × Bool) :=
  match m.ins with
  | .pcfg _ => if m.prog = 0 then [(m.va.toNat, imageLen (fld (s.engRead c m.space m.va.toNat 64).bytes 2 2), false)] else []
  | .rjsend f => if m.prog = 0 then [(m.va.toNat, 32 * Machine.EF.msgs f, false)] else []
  | .strd _ => (m.va.toNat, 64, true) :: (if m.reg = 1 then [(fld m.blk 24 8, s.strdBytes m.blk, true)] else [])
  | .mdec _ =>
    -- the stream comes first: only the frames it holds are written
    let l := [(m.va.toNat, 64, true), (fld m.blk 8 8, fld m.blk 16 8, false)]
    if s.firstMiss m.space l != .none then l
    else l ++ (List.range (s.decoding c m).frames).map fun k =>
      (mdecDst m.blk + k * mdecPitch m.blk, surface (mdecRowp m.blk) (mdecH m.blk), true)
  | .mrsz _ =>
    let q := resizeOf m.blk
    (m.va.toNat + 64, 64, true) :: (q.reads.map fun p => (p.1, p.2, false)) ++
      (List.range (3 * q.oh)).map fun i => (q.dst + i / q.oh * q.dplane + i % q.oh * q.drowp, q.ow * Machine.EF.outBytes f, true)
  | _ => []

/-- Footprint of a command of the group (R355): the block is read, the destination written. -/
def unitFoot (s : State) (c : Nat) (m : Cmd) (f : EF) : List (Nat × Nat × Bool) :=
  match m.ins with
  | .pcfg _ => [(m.va.toNat, imageLen (fld (s.engRead c m.space m.va.toNat 64).bytes 2 2), false)]
  | .rjsend _ => [(m.va.toNat, 32 * Machine.EF.msgs f, false)]
  | .strd _ => [(m.va.toNat, 64, false), (fld m.blk 24 8, s.strdBytes m.blk, true)]
  | .mdec _ => [(m.va.toNat, 64, false), (mdecDst m.blk, (fld m.blk 4 4 - 1) * mdecPitch m.blk + surface (mdecRowp m.blk) (mdecH m.blk), true)]
  | .mrsz _ => [(m.va.toNat, 128, false), ((resizeOf m.blk).dst, (resizeOf m.blk).outLen (Machine.EF.outBytes f), true)]
  | _ => []

/-- R355, R366: RESULT of a command that a fault of the ring ends before it has written anything, of an MRSZ 1 where its source crosses
the boundary (`src`); a PCFG lets its tiles go. -/
def State.failResult (s : State) (m : Cmd) (src : Bool) : State :=
  match m.ins with
  | .pcfg _ => if m.prog != 0 then s.modPearl m.vc.toNat fun p => { p with configuring := false } else s
  | .strd _ => s.putResult m 32 (3 * 65536)
  | .mdec _ => s.putResult m 48 (5 * 2 ^ 32)
  | .mrsz _ => s.putResult m 72 (if src then 1 else 0)
  | _ => s

/-- A command of the group that runs: on, done, or not yet. -/
def State.runUnit (s : State) (c : Nat) (m : Cmd) (f : EF) : Option (State ⊕ Done) :=
  match m.ins with
  | .pcfg _ => s.runPcfg c m
  | .rjsend _ => s.runRjsend c m f
  | .strd _ => some (.inr (s.runStrd m))
  | .mdec _ => some (.inr (s.runMdec c m))
  | .mrsz _ => some (.inr (s.runMrsz c m f))
  | _ => none

end Sys2Proof.Machine
end

