-- ==== Sys2Proof/Machine/Complete.lean ====
section
/-! DEFINITION. Engine commands start and complete: the two device steps that every queue shares (spec/11 R186, spec/12 R196-R197,
spec/14 R228-R230, R239, R243, spec/15 R246-R256, spec/20 R315, spec/13 R223, spec/08 R139). -/

namespace Sys2Proof.Machine

/-! ## Starting -/

/-- Products that hold a tile of a core: one that waits for a translation keeps its place in the allowance. -/
def Core.runningProducts (x : Core) : Nat := (x.cmds.filter fun m => isProduct m.ins && m.engine.isTile && m.underway).length

/-- The cycle in which a command of fixed length, or the first step of a SCACC, ends, for one that starts now. -/
def dueOf (now : Nat) (i : Instr) (f : EF) : Option Nat :=
  match i with
  | .scacc _ => some (now + 4)
  | .xmv _ | .xmvt _ | .xupd _ | .xdep _ | .xdepRst _ | .xcal _ | .xsym _ | .xrd _ | .xpgm _ | .xstatBlk _ => some (now + xbCycles i f)
  | _ => none

/-- The commands that change conductances (R290). -/
def isPulse (i : Instr) : Bool := match i with | .xupd _ | .xdep _ | .xdepRst _ | .xpgm _ => true | _ => false

/-- A command runs from now on; a unit takes its commands in the order in which they come (R408-R410). -/
def State.runNow (s : State) (c : Nat) (m : Cmd) (f : EF) : State :=
  let now := (s.core c).clock
  let (t, s) := if m.engine == .unit then s.next else (m.seq, s)
  let reg := match m.ins with
    | .strd _ => (match s.conn (fld m.blk 0 2) with | some k => if k.closing.isNone then 1 else 0 | none => 0)
    | _ => m.reg
  let q : Product := match m.engine with | .tile n => ⟨((s.core c).tile n).rcal, ((s.core c).tile n).calv, false, false, 0⟩ | _ => m.product
  let s := s.modCore c fun x => x.modCmd m.id fun m =>
    { m with st := .running now, due := dueOf now m.ins f, reg := reg, product := q, seq := if m.engine == .unit then t else m.seq }
  if isPulse m.ins && (s.ctx c m.ctx).inStep && (s.ctx c m.ctx).tid == m.tid then s.modCtx c m.ctx fun x => { x with pulsed := true } else s

/-- A reissued MMS clears MRES (R252). -/
def State.clearMres (s : State) (c : Nat) (m : Cmd) : State :=
  if m.skip = 0 then s else s.modCtx c m.ctx fun x => { x with engStatus := x.engStatus &&& 0x7FFFFFFFFFFFFFFF }

/-- An MMS or MLDW starts: its macros take items as places allow; an MLDW opens a burst only when a group has arrived (R269, R275). -/
def State.startMacros (s : State) (c : Nat) (m : Cmd) (f : EF) : State :=
  if m.dbg && isMms m.ins && f.r.b != 0 && s.layMismatch m.space m.va.toNat (layOf m.lsrc) (Machine.EF.mmsNv f)
      (32 * Machine.EF.mmsNg f * tyWidth (Machine.EF.act f)) then
    (s.modCore c fun x => x.modCmd m.id fun m => { m with st := .running x.clock, fail := some 4 }).clearMres c m
  else if isMldw m.ins then s.runNow c m f
  else (((s.runNow c m f).clearMres c m).openBurst c .macros m).fillPlaces c

/-- A product starts within the allowance, or opens a burst. -/
def State.startProduct (s : State) (c : Nat) (m : Cmd) (f : EF) : State :=
  let x := s.core c
  if x.allowX.phase == .active && x.runningProducts < min x.allowX.a (s.cap .tiles) then s.runNow c m f else s.openBurst c .tiles m

/-- R289: once a pre-emption has stopped its context, an unstarted matrix or crossbar command stays unstarted, unless a copy that has to
complete waits for it (log 83). -/
def State.saving (s : State) (c : Nat) (m : Cmd) : Bool :=
  let x := s.ctx c m.ctx
  x.preempt && x.level == 0 && x.tid == m.tid && (m.engine == .matrix || m.engine.isTile) && !(s.core c).awaited.contains m.id

/-- Ranges a copy or gather command touches. -/
def State.moveTouch (s : State) (c : Nat) (m : Cmd) (f : EF) : List (Nat × Nat × Bool) :=
  match m.ins with
  | .cpy _ => cpyTouch m f
  | .cpyFill _ | .cpyFrom _ => [(m.vb.toNat, m.vc.toNat, true)]
  | .cpyTo _ => [(m.va.toNat, m.vc.toNat, false)]
  | .gath _ | .gathSum _ | .scad _ => s.gathTouch c m f
  | _ => []

/-- Ranges a command touches. -/
def State.cmdTouch (s : State) (c : Nat) (m : Cmd) (f : EF) : List (Nat × Nat × Bool) :=
  match m.engine with
  | .copy | .gather => s.moveTouch c m f
  | .coll => s.collTouch c m f (Machine.EF.collDst f (collBcast? m))
  | .unit => unitTouch s c m f
  | .tile _ => xbRanges m f
  | .matrix =>
    match m.ins with
    | .mms _ | .mldw _ => m.operand f
    | .scacc _ => [(m.vb.toNat, 384 * Machine.EF.scNb f, false)]
    | _ => []

/-- R185: the footprint of a command as its pages translate now; a page that did not translate at its issue gave none. -/
def State.footNow (s : State) (c : Nat) (m : Cmd) (f : EF) : List Part :=
  if m.retire.isSome then []
  else if m.engine == .copy || m.engine == .gather then s.cmdParts c m.space m.gbase m.ins ⟨m.va, m.vb, m.vc, m.lsrc, m.ldst⟩
  else (if m.engine == .unit then unitFoot s c m f else s.cmdTouch c m f).flatMap fun r => s.rangeParts c m.space r.1 r.2.1 r.2.2

def State.refoot (s : State) (c : Nat) (m : Cmd) (f : EF) : State :=
  let l := (s.footNow c m f).filter fun p => !m.parts.contains p
  if l.isEmpty then s else s.modCore c fun x => x.modCmd m.id fun m => { m with parts := m.parts ++ l }

/-- R185: commands that have not started take the parts of pages that translate by now, so that they hold what conflicts with them. -/
def State.refootQueued (s : State) (c : Nat) : State :=
  (s.core c).cmds.foldl (fun s m => if m.st.started || m.fail.isSome || m.cancel then s else (Instr.ef m.ins).elim s (s.refoot c m)) s

/-- R269: the source bytes of the next group of a running MLDW have arrived. -/
def State.arriveGroup (s : State) (c : Nat) (m : Cmd) (f : EF) : State :=
  if m.itemCount f ≤ m.arrived then s
  else
    let s := s.modCore c fun x => x.modCmd m.id fun m => { m with arrived := m.arrived + 1 }
    ((s.waitingFor c .macros).elim s (s.openBurst c .macros)).fillPlaces c

/-- A queued command starts. -/
def State.startCmd (s : State) (c : Nat) (m : Cmd) (f : EF) : State :=
        if (match m.engine with | .tile t => ((s.core c).tile t).lf | _ => false) then
          (match m.engine with | .tile t => s.endDead c t m | _ => s)
        else if m.fail.isSome then (if m.engine == .coll then (s.runNow c m f).collStart c m else (s.runNow c m f).clearMres c m)
        else if isMms m.ins || isMldw m.ins then s.startMacros c m f
        else if isProduct m.ins then s.startProduct c m f
        else match m.engine with
        | .tile _ =>
          match m.ins with
          | .xupd _ =>
            match s.firstMiss m.space (updTouch m f) with
            | .at va w => s.missCmd c m va w
            | .transit => s
            | .none | .refused => (s.runNow c m f).readUpd c m f
          | _ => s.runNow c m f
        | .coll =>
          match s.firstMiss m.space [(m.vc.toNat, 64, false)] with
          | .at va w => s.missCmd c m va w
          | .transit => s
          | .none | .refused => (s.runNow c m f).collStart c m
        | .unit => if s.unitRoom m then s.runNow c m f else s
        | _ => s.runNow c m f

/-- ENGINE_COMMAND_START (R186): command `q` of core `c`, judged by its footprint as its pages translate now; of a running MLDW, a group's
bytes arrive. -/
def execEngineCommandStart (c q : Nat) (s : State) : Out :=
  .next <|
    match (s.core c).findCmd q with
    | none => s
    | some m =>
      match Instr.ef m.ins with
      | none => s
      | some f =>
        if isMldw m.ins && m.st.running? then s.arriveGroup c m f
        else
          let t := if m.fail.isSome || m.cancel then s else s.refoot c m f
          match (t.core c).findCmd q with
          | none => s
          | some m => if t.mayStart c m && !t.saving c m then t.startCmd c m f else s

/-! ## Completing -/

/-- R139: the field of eng.poison that a command's conversions gather in. -/
def poisonBit (i : Instr) : Word :=
  match i with
  | .cpy _ => 2
  | .gath _ | .gathSum _ | .scad _ => 4
  | .collSum _ | .collMax _ | .collMin _ => 8
  | .mrsz _ => 16
  | _ => 0

/-- R139, R197, R228, R230, R243: status word, completion record, poison, event pulse, slot. -/
def State.endCmd (s : State) (c : Nat) (m : Cmd) (st cnt : Nat) (poison : Bool) : State :=
  let w := statusWord st cnt
  let s := if m.crec = 0 then s else (s.noteRec m.space m.crec).engWrite m.space m.crec.toNat (leBytes 8 w.toNat) false
  let s := match m.retire with
    | some (g, b, _) => s.modBlk g b fun b => { b with copies := b.copies - 1 }
    | none => s
  let p := if poison then poisonBit m.ins else 0
  let s := s.modCtx c m.ctx fun x =>
    let y := x.countFail m st
    if p = 0 then y else { y with engPoison := y.engPoison ||| p, poisonNow := y.poisonNow ||| p }
  s.modCore c fun x => ((x.endSlot m w).pulse (eventSource m.ins) (st == 0)).dropCmd m.id

/-- A matrix command ends: no status word, one pulse for an MMS. -/
def State.endMatrix (s : State) (c : Nat) (m : Cmd) : State :=
  s.modCore c fun x =>
    let ok := match x.findCmd m.id with | some m => !m.poison | none => true
    (x.pulse (eventSource m.ins) ok).dropCmd m.id

/-- Two lists of ranges meet where one of them writes. -/
def rangesMeet (a b : List (Nat × Nat × Bool)) : Bool :=
  a.any fun p => b.any fun q => (p.2.2 || q.2.2) && p.1 < q.1 + q.2.1 && q.1 < p.1 + p.2.1

/-- Ranges of an address space by their physical addresses, page by page, as far as they translate. -/
def State.physical (s : State) (space : Nat) (l : List (Nat × Nat × Bool)) : List (Nat × Nat × Bool) :=
  l.flatMap fun r => (pagesIn r.1 (max r.2.1 1)).filterMap fun a =>
    match s.reach space a r.2.2 with
    | .ok pa _ _ => some (pa, min (r.1 + r.2.1) ((a / 0x10000 + 1) * 0x10000) - a, r.2.2)
    | _ => none

/-- R146: an earlier request of the gather engine has not performed, and meets the command in memory or has a page that does not translate
yet, so that it may. -/
def State.behind (s : State) (c : Nat) (m : Cmd) (f : EF) : Bool :=
  m.engine == .gather && (s.core c).cmds.any fun o =>
    decide (o.id < m.id) && o.engine == .gather && o.st.started &&
      (match Instr.ef o.ins with
        | some g => !(s.firstMiss o.space (s.moveTouch c o g)).clear ||
            rangesMeet (s.physical o.space (s.moveTouch c o g)) (s.physical m.space (s.moveTouch c m f))
        | none => false)

/-- What a copy or gather command does. -/
def State.runMove (s : State) (c : Nat) (m : Cmd) (f : EF) : Prog :=
  match m.ins with
  | .cpy _ => if Machine.EF.lsrc f != 0 || Machine.EF.ldst f != 0 then s.runLayCopy c m f else s.runCopy c m f
  | .cpyFill _ => s.runFill c m
  | .cpyFrom _ => s.runFrom c m
  | .cpyTo _ => s.runTo c m
  | .gath _ => s.runGath c m f
  | .gathSum _ => s.runGathSum c m f
  | .scad _ => s.runScad c m f
  | _ => Prog.start s

/-- A command that has ended a part of its work ends, goes on, or waits. -/
def State.after (s : State) (c : Nat) (m : Cmd) : Option (State ⊕ Done) → State
  | none => s
  | some (.inl t) => t
  | some (.inr d) => d.s.endCmd c m d.st d.cnt d.poison

/-- Run `go` once every page of some ranges translates; a miss holds the command (R227). The home slices keep the translations. -/
def State.whenReached (s : State) (c : Nat) (m : Cmd) (l : List (Nat × Nat × Bool)) (go : State) : State :=
  match s.firstMiss m.space l with
  | .at va w => s.missCmd c m va w
  | .transit => s
  | .none | .refused =>
    let ps := (l.flatMap fun r => (pagesIn r.1 (max r.2.1 1)).map fun va => (va, r.2.2))
    let n := match ps.findIdx? fun p => s.reach m.space p.1 p.2 == .refused with | some i => i + 1 | none => ps.length
    go.learnAll m.space (addPages [] ((ps.take n).map (·.1))) l

/-- A command that has run ends, unless it has met a missing translation, which holds it (R227), or the page of its completion record
has none (R230); what it did is then done again when it goes on (log 18). -/
def State.endMove (s : State) (c : Nat) (m : Cmd) (l : List (Nat × Nat × Bool)) (r : Prog) (go : State) : State :=
  match r.miss with
  | .at va w => s.missCmd c m va w
  | .transit => s
  | .none | .refused => s.whenReached c m (recTouch m) (go.learnAll m.space r.asked l)

/-- The cycle in which the command ends has come. -/
def Cmd.past (m : Cmd) (now : Nat) : Bool := match m.due with | some d => d ≤ now | none => false

/-- A running matrix command whose work is done ends; an item that waited for a translation goes on (R285, R309). -/
def State.completeMatrix (s : State) (c : Nat) (m : Cmd) (f : EF) : State :=
  match m.ins with
  | .mstn _ => (s.runMstn c m).endMatrix c m
  | .mrls _ => (s.runMrls c m).endMatrix c m
  | .mms _ | .mldw _ => if m.prog = m.itemCount f && (s.core c).macs.all fun i => i.cmd != m.id then s.endMatrix c m
    else ((s.waitingFor c .macros).elim s (s.openBurst c .macros)).fillPlaces c
  | .scacc _ =>
    if m.past (s.core c).clock then
      let l := [(m.vb.toNat + 384 * (m.prog % Machine.EF.scNb f), 384, false)]
      match (s.through m).firstMiss m.space l with
      | .at va w => s.missCmd c m va w
      | .transit => s
      | .none | .refused =>
        (if m.prog + 1 = Machine.EF.scSteps f then (s.runScacc c m f).endMatrix c m else s.runScacc c m f).keepStream c m l
          [(m.vb.toNat, 384 * Machine.EF.scNb f, false)]
    else s
  | _ => s

/-- R229, R285: a copy or gather whose miss was answered with CODE 2 keeps, and counts, the bytes before the missing page; all of them
where that page was its completion record's (`prog`). -/
def State.endStopped (s : State) (c : Nat) (m : Cmd) (st : Nat) : State :=
  match Instr.ef m.ins with
  | none => s
  | some f =>
    let r := s.runMove c m f
    if r.st = 0 && m.prog = 0 then s.endCmd c m st 0 false else r.s.endCmd c m st r.cnt r.poison

/-- A command that ends with a status and has not run (R243), or whose miss was refused (R285). -/
def State.completeFailed (s : State) (c : Nat) (m : Cmd) (st : Nat) : State :=
  match m.engine with
  | .matrix =>
    let s := s.matrixFault c m st
    let s := s.modCore c fun x => { x with macs := x.macs.filter fun i => i.cmd != m.id }
    let s := match m.ins with
      | .mrls _ => s.modCore c fun x => { x with regions := x.regions.filter fun q => !(q.id == m.reg && q.gone) }
      | _ => s
    s.endMatrix c m
  -- a refused page of its writes ends a command that has run (R320, R322, R324, R325)
  | .tile t =>
    match Instr.ef m.ins with
    | some f => if st = 2 then s.refusedTile c m f t else s.failTile c m t st
    | none => s
  | .copy | .gather => if st = 2 then s.endStopped c m st else s.endCmd c m st m.prog m.poison
  -- an answer CODE 2 refuses the page: the unit does what it can, RESULT among it (R285, R355)
  | .unit =>
    match Instr.ef m.ins with
    | some f =>
      if st = 2 then s.after c m ((s.runUnit c m f).map fun r => match r with
        | .inl t => .inl t
        | .inr d => .inr { d with st := if d.st = 5 then 5 else 2 })
      else if st = 3 then (s.failResult m (m.prog == 1)).endCmd c m st 0 false
      else s.endCmd c m st m.prog m.poison
    | none => s
  | _ => s.endCmd c m st m.prog m.poison

/-- The engines whose commands read and write as they complete. -/
def Engine.moves (e : Engine) : Bool := match e with | .matrix | .tile _ => false | _ => true

/-- ENGINE_COMMAND_COMPLETE (R197): command `q` of core `c`. -/
def execEngineCommandComplete (c q : Nat) (s : State) : Out :=
  .next <|
    match (s.core c).findCmd q with
    | none => s
    | some m =>
      match Instr.ef m.ins with
      | none => s
      | some f =>
        if !(m.st.running? && s.rlDone c m) || (m.engine.moves && (s.core c).held m) || !s.partsClear c m then s
        else match m.fail with
        | some st => s.whenReached c m (recTouch m) (s.completeFailed c m st)
        | none =>
          match m.engine with
          | .matrix => s.completeMatrix c m f
          | .unit => if !(s.served c m || m.cancel) then s else s.whenReached c m (unitTouch s c m f) (s.whenReached c m (recTouch m) (s.after c m (s.runUnit c m f)))
          | .copy | .gather =>
            if s.behind c m f then s
            else
              let r := s.runMove c m f
              s.endMove c m (s.moveTouch c m f) r (r.s.endCmd c m r.st r.cnt r.poison)
          | .coll => s.whenReached c m (s.collTouch c m f (Machine.EF.collDst f (collBcast? m))) s
          | .tile _ => s

end Sys2Proof.Machine
end

