-- ==== Sys2Proof/Machine/Join.lean ====
section
/-! DEFINITION. The events of a reward join unit: arrivals, ageing, scans and releases (spec/28 R388-R398, spec/24 R363, spec/27 R383).
A unit's messages wait in its inbox in the order in which they reach it. -/

namespace Sys2Proof.Machine

/-! ## Arrivals (R388, R389, R391) -/

/-- A reserved byte not zero, STEP or REWARD out of range, or STEP beyond the entry's LEN. -/
def JMsg.malformed (m : JMsg) (e : Option JEntry) : Bool :=
  m.tail.any (· != 0) || 65536 ≤ m.step.toNat || !f32Fin m.val.toNat || (match e with | some e => e.len ≤ m.step.toNat | none => false)

def JEntry.held (e : JEntry) : Bool := e.st == .held

/-- A duplicate: DUP, and CONFL where it differs. -/
def State.duplicate (s : State) (d : Nat) (conflict : Bool) : State :=
  let t := s.rjCount d 4
  if conflict then t.rjCount d 5 else t

/-- R393, step 2: every held entry but one, and every orphan but the newest where it has just come, ages by 1. -/
def JoinUnit.grow (u : JoinUnit) (serial : Option Nat) (newest : Bool) : JoinUnit :=
  let n := u.orphans.length - 1
  { u with
    entries := u.entries.map fun e => if e.st == .held && some e.serial != serial then { e with age := e.age + 1 } else e
    orphans := u.orphans.mapIdx fun i o => if newest && i == n then o else { o with age := o.age + 1 }
    judge := 1 }

/-- A reward whose entry is held: it joins, and completes the entry where NGOT reaches NREW. -/
def State.joinHeld (s : State) (d : Nat) (e : JEntry) (m : JMsg) : State :=
  let p := s.joinReward d e m
  if !p.2 then p.1.modUnit d fun u => u.grow none false
  else
    let t := if e.ngot + 1 == e.nrew then p.1.queueEntry d e.serial false else p.1
    t.modUnit d fun u => u.grow (some e.serial) false

/-- R389: classify an arrival and apply it; then ages rise. -/
def State.arrive (s : State) (d : Nat) (m : JMsg) : State :=
  let s := s.rjCount d 0
  let u := (s.die d).unit
  let grow := fun (s : State) => s.modUnit d fun u => u.grow none false
  let e := u.entry m.key
  if m.malformed e then grow (s.rjCount d 6)
  else match e with
  | some e =>
    match e.has m.seq with
    | some r => grow (s.duplicate d (conflicts r m))
    | none => if e.held then s.joinHeld d e m else grow (s.rjCount d 6)
  | none =>
    match u.orphans.find? fun o => o.m.key == m.key && o.m.seq == m.seq with
    | some o => grow (s.duplicate d (o.m.step != m.step || o.m.val != m.val))
    | none =>
      if 16384 ≤ u.orphans.length then grow (s.rjCount d 9)
      else (s.rjCount d 2).modUnit d fun u => ({ u with orphans := u.orphans ++ [⟨m, 0⟩] } : JoinUnit).grow none true

/-- R12: a message that another module has sent reaches the unit of die KEY mod 8; no command of this module waits for it. -/
def State.farMessage (s : State) (d : Nat) (bs : List Byte) : State :=
  let m := msgOf bs 0 65536 0
  if bs.length != 32 || m.key.toNat % 8 != d then s else s.modUnit d fun u => { u with inbox := u.inbox ++ [m] }

/-- REWARD_ARRIVAL (R389): the oldest message at the unit of a die; at EN = 0 it is discarded. With bytes: another module's message
reaches the unit. -/
def execRewardArrival (a : MsgArrival) (s : State) : Out :=
  .next <|
    let d := a.die
    let u := (s.die d).unit
    match a.far with
    | some bs => s.farMessage d bs
    | none =>
    match u.inbox with
    | [] => s
    | m :: rest =>
      if u.judge != 0 then s
      else
        let s := s.modUnit d fun u => { u with inbox := rest }
        if u.on then s.arrive d m else s.rjCount d 7

/-! ## Ageing (R393) -/

/-- ENTRY_TIMEOUT (R393): after an arrival, held entries whose age has reached ETMO are queued in seal order. -/
def execEntryTimeout (d : Nat) (s : State) : Out :=
  .next <|
    let u := (s.die d).unit
    if u.judge != 1 then s
    else
      let late := u.entries.filter fun e => e.held && u.etmo ≤ e.age
      late.foldl (fun s e => (s.queueEntry d e.serial true).rjCount d 11) (s.modUnit d fun u => { u with judge := 2 })

/-- ORPHAN_LOSS (R393): then orphans whose age has reached OTMO are lost. -/
def execOrphanLoss (d : Nat) (s : State) : Out :=
  .next <|
    let u := (s.die d).unit
    if u.judge != 2 then s
    else
      let lost := u.orphans.filter fun o => u.otmo ≤ o.age
      lost.foldl (fun s _ => s.rjCount d 8)
        (s.modUnit d fun u => { u with judge := 0, orphans := u.orphans.filter fun o => o.age < u.otmo })

/-! ## The scan (R394, R395) -/

/-- R394: stale under the VER and LAG in force. -/
def JoinUnit.stale (u : JoinUnit) (e : JEntry) : Bool := decide ((u.lag.toNat : Int) < (u.ver - e.ver).toInt)

/-- FLAGS and NGOT into the descriptor. -/
def State.headOut (s : State) (e : JEntry) : State :=
  (s.storeD none (e.descPa + 20) e.descHold (leBytes 4 e.flags.toNat) none).storeD none (e.descPa + 40) e.descHold (leBytes 4 e.ngot) none

/-- Physical address of step `t`, with the HOLD bits of its page. -/
def JEntry.stepPa (e : JEntry) (t : Nat) : Nat × Nat := ((e.steps.getD (t / 2) (0, 0)).1 + 32 * (t % 2), (e.steps.getD (t / 2) (0, 0)).2)

/-- R395: the sum of a step's rewards in ascending SEQ, and their count. -/
def JEntry.reward (e : JEntry) (t : Nat) : Nat × Nat :=
  let rs := (e.rewards.filter fun r => r.step == t).mergeSort fun a b => a.seq.toNat ≤ b.seq.toNat
  (rs.foldl (fun v r => rneAdd v r.val.toNat) 0, rs.length)


/-- One step of the scan, from the values of the step after it: δ, A, R and the values for the step before. -/
def scanStep (gamma gl r v d vn an : Nat) : Nat × Nat :=
  let m := if d = 0 then 0x3F800000 else 0
  let delta := rneSub (rneAdd r (rneMul (rneMul gamma vn) m)) v
  let a := rneAdd delta (rneMul (if d = 0 then gl else 0) an)
  (a, rneAdd a v)

/-- Steps from LEN - 1 down, read where the unit's die reads them (R307) and written as they come. -/
def State.scanSteps (s : State) (d : Nat) (u : JoinUnit) (e : JEntry) : Nat → Nat → Nat → State
  | 0, _, _ => s
  | t + 1, vn, an =>
    let (pa, h) := e.stepPa t
    let p := readAt pa h d
    let v := s.seenN p 4
    let r := e.reward t
    let o := scanStep u.gamma (rneMul u.gamma u.lambda) r.1 v (s.seenN (p + 4) 4) vn an
    (s.storeD none (pa + 8) h (leBytes 4 r.1 ++ leBytes 4 r.2 ++ leBytes 4 o.1 ++ leBytes 4 o.2) none).scanSteps d u e t v o.1

/-- R391, R424: the steps of an entry cannot all be read: a poisoned line, or a retired macro. -/
def State.stepsLost (s : State) (d : Nat) (e : JEntry) : Bool :=
  e.steps.any fun p => s.retiredByte p.1 || s.poisoned (readAt p.1 p.2 d)

/-- EPISODE_SCAN (R394, R395): the entry that was queued first. -/
def execEpisodeScan (d : Nat) (s : State) : Out :=
  .next <|
    let u := (s.die d).unit
    match u.queued with
    | [] => s
    | n :: rest =>
      match u.entries.find? fun e => e.serial == n with
      | none => s
      | some e =>
        if !u.on || u.judge != 0 then s
        else
          let s := s.modUnit d fun u => { u with queued := rest }
          let stale := u.stale e
          let e := if stale then { e with flags := e.flags ||| 1 } else e
          let drop := fun (s : State) (k : Nat) => (s.modUnit d fun u => u.dropEntry n).rjCount d k
          if stale && !u.sflag then drop (s.headOut e) 12
          else if s.stepsLost d e then drop s 15
          else
            let t := (s.scanSteps d u e e.len e.vboot.toNat 0).headOut e
            t.modUnit d fun u => { (u.modEntry n fun _ => { e with st := .ready }) with ready := u.ready ++ [n] }

/-! ## Release (R363, R396, R383) -/

/-- The record a release pushes. -/
def JoinUnit.learner (u : JoinUnit) : Rec :=
  { code := u.word 4, frame := u.word 5, joina := 0, live := (u.word 6).extractLsb' 0 32, pf := BitVec.ofNat 32 u.pri, space := u.space,
    lid := u.lid, far := false, tid := none, got := none, views := none, fault := none, recorded := [] }

/-- R383: the launch that last configured the unit, as the record has it, has not ended. -/
def State.recLive (s : State) (r : Rec) : Bool := s.launches.any fun l => l.space == r.space && l.lid == r.lid

/-- Push what the unit holds, if the queue of its release takes it; the record of a launch that has ended is dropped (R383). -/
def State.pushHeld (s : State) (d : Nat) : State :=
  match (s.die d).unit.push with
  | none => s
  | some (g, r) =>
    if !s.recLive r then s.modUnit d fun u => { u with push := none }
    else match s.pushRec g r 0 with
    | some t => t.modUnit d fun u => { u with push := none }
    | none => s

/-- The entry that is released next: of those whose release is permitted the one that became ready first. Under ORD = 1 that is the one
sealed first, though one sealed later became READY before it and waits (log 24). -/
def JoinUnit.nextReady (u : JoinUnit) : Option JEntry :=
  (u.ready.filterMap fun n => u.entries.find? fun e => e.serial == n).find? fun e => !(u.ord && u.entries.any fun o => o.serial < e.serial)

/-- EPISODE_RELEASE (R396): the entry that became ready first, once the record before it has been pushed. -/
def execEpisodeRelease (d : Nat) (s : State) : Out :=
  .next <|
    let u := (s.die d).unit
    match u.push with
    | some _ => s.pushHeld d
    | none =>
      match u.nextReady with
      | none => s
      | some e =>
        if !u.on || 1024 ≤ u.relq.length then s
        else
          let s := s.modUnit d fun u =>
            { u.dropEntry e.serial with ready := u.ready.erase e.serial, relq := u.relq ++ [e.desc], push := some (u.grt, u.learner) }
          let s := (if e.flags.getLsbD 0 then s.rjCount d 13 else s).rjCount d 14
          s.pushHeld d

end Sys2Proof.Machine
end

