-- ==== Sys2Proof/Machine/Cycle.lean ====
section
/-! DEFINITION. The end of a core clock cycle and the answers of the second-level TLB (spec/08 R148, spec/03 R133, spec/20 R320,
spec/17 R274-R276, spec/19 R301-R304, R309). -/

namespace Sys2Proof.Machine

/-! ## A cycle ends -/

/-- Slots of a running XUPD whose generator word is the one of this cycle (R320). -/
def Cmd.drawNow (m : Cmd) (now : Nat) (w : BitVec 32) : Cmd :=
  match m.ins, m.st with
  | .xupd f, .running c0 =>
    { m with mac := (List.range (Machine.EF.bl f)).foldl (fun t n =>
        if c0 + 56 + 28 * n / 5 = now && m.due.any (now < ·) then Tab.set (fun _ => 0) t n w.toNat else t) m.mac }
  | _, _ => m

def Core.drawSlots (x : Core) : Core := { x with cmds := x.cmds.map fun m => m.drawNow x.clock (Machine.rngWord x.rng) }

/-- What was held in this cycle may issue in the next (R125); poison bits of this cycle may be cleared from then on (R139). -/
def Ctx.newCycle (x : Ctx) : Ctx := { x with held := false, poisonNow := 0 }

/-- The core's own part: contexts, clock, generator (R133, R148). -/
def Core.newCycle (x : Core) : Core :=
  let x := [0, 1, 2, 3].foldl (fun (x : Core) k => x.setCtx k (x.ctx k).newCycle) x
  { x with clock := x.clock + 1, rng := rngStep x.rng, issued := false, pulses := [] }

/-- CORE_CLOCK_CYCLE (R148): the cycle of core `c` ends, with the footprints of its queued commands as their pages translate (R185); the XUPD slots of the next draw its word as it begins, before any MTC to
rng.seed of that cycle. -/
def execCoreClockCycle (c : Nat) (s : State) : Out :=
  .next (((((s.refootQueued c).trackAllow c .macros).trackAllow c .tiles).modCore c Core.newCycle).modCore c Core.drawSlots)

/-! ## Translation queries (R301-R304) -/

/-- The outstanding query of a context: space and address. -/
def State.askOf (s : State) (c k : Nat) : Option (Nat × Nat) :=
  match (s.ctx c k).query with
  | some q => if q.ans.isNone then some ((s.ctx c k).space, eaVa q.va) else none
  | none => none

/-- R304: queries reach their home slices, those of one moment in ascending core number; answered ones leave. -/
def State.lodge (s : State) : State :=
  s.cores.foldl (fun s p => [0, 1, 2, 3].foldl (fun s k =>
    match s.askOf p.1 k with
    | none => s
    | some q =>
      let h := homeSlice q.1 q.2
      if (s.core h).asked.contains (p.1, k) then s else s.modCore h fun x => { x with asked := x.asked ++ [(p.1, k)] }) s)
    (s.cores.foldl (fun s p =>
      let l := p.2.asked.filter fun a => (s.askOf a.1 a.2).any fun q => homeSlice q.1 q.2 == p.1
      if l == p.2.asked then s else s.modCore p.1 fun x => { x with asked := l }) s)

/-- The slice has the translation a query asks for. -/
def State.sliceHit (s : State) (q : Nat × Nat) : Bool := s.inSlice q.1 q.2

/-- R304: the walks that a slice runs: at most 32 regions of 2 MiB, in the order of the queries that wait for them. -/
def State.walks (s : State) (h : Nat) : List (Nat × Nat) :=
  (((s.core h).asked.filterMap fun a => (s.askOf a.1 a.2).filter fun q => !s.sliceHit q).map fun q => (q.1, q.2 / 2 ^ 21)).eraseDups.take 32

/-- The answer to one query; a leaf in transit delays it (R309). -/
def State.answerQuery (s : State) (c k : Nat) : State :=
  let x := s.ctx c k
  match x.query with
  | none => s
  | some q =>
    let va := eaVa q.va
    match s.homeAnswer x.space va with
    | .transit => s
    | .miss => s.modCtx c k fun x => { x with query := some { q with ans := some true } }
    | .malformed => s.modCtx c k fun x => { x with query := some { q with ans := some false } }
    | .hit e =>
      let s := s.learn x.space va
      let s := s.modCore c fun y => { y with tlb := keepEntry 64 y.tlb e }
      s.modCtx c k fun x => { x with query := none }

/-- TRANSLATION_QUERY_ANSWER (R304): the query of context `k` of core `c`, which has reached its slice: at once where the slice has the
translation; else the walk of its region, once it is among those that run, ends for every query that has joined it. -/
def execTranslationQueryAnswer (c k : Nat) (s : State) : Out :=
  .next <|
    match s.askOf c k with
    | none => s
    | some q =>
      let h := homeSlice q.1 q.2
      if !(s.core h).asked.contains (c, k) then s
      else if s.sliceHit q then s.answerQuery c k
      else if !(s.walks h).contains (q.1, q.2 / 2 ^ 21) then s
      else ((s.core h).asked.filter fun a => (s.askOf a.1 a.2).any fun p => p.1 == q.1 && p.2 / 2 ^ 21 == q.2 / 2 ^ 21).foldl
        (fun s a => s.answerQuery a.1 a.2) s

end Sys2Proof.Machine
end

