-- ==== Sys2Proof/Machine/Faults.lean ====
section
/-! DEFINITION. Fault records and their answers, storage errors, lasting faults and retirement (spec/18 R281-R286, R294-R296,
spec/13 R221-R222, spec/22 R336, spec/32 R424). -/

namespace Sys2Proof.Machine

/-! ## Ending a task without its DONE (R222, R285, R294, R424) -/

/-- R222: an aborted step runs again from its start, on an eligible core. -/
def State.abortStep (s : State) (sr : StepRef) : State :=
  s.modBlk sr.grotto sr.block fun b => b.modChain sr.chain fun ch => { ch with running := false, core := none }

/-- R290: conductance changes that an aborted step has queued and not started are not made: its rerun makes them. -/
def Core.dropPulses (x : Core) (k tid : Nat) : Core :=
  { x with cmds := x.cmds.filter fun m => !(m.ctx == k && m.tid == tid && m.engine.isTile && !m.underway) }

/-- First step index of a chain as bytes. -/
def chainIdx (ls : List Level) (n : Nat) : Word := BitVec.ofNat 64 (leNat ((stepIdx ls n 0).1.map (BitVec.ofNat 8)))

/-- R290: a step that has changed conductances and cannot reach its DONE is not run again: its chain stops (log 76). -/
def State.haltStep (s : State) (sr : StepRef) : State :=
  s.modBlk sr.grotto sr.block fun b => b.modChain sr.chain fun ch => { ch with running := false, core := none, stopped := true }

/-- The context's task ends: a step is aborted, any other task is gone, without join decrement or retire copy. The context is free
once its results have landed and its stores have performed (R130, R202). -/
def State.discard (s : State) (c k : Nat) : State :=
  match (s.ctx c k).task with
  | none => s
  | some t =>
    if (s.ctx c k).run = .ending then (if s.settled c k then s.freeCtx c k else s)
    else
    let s := match t.step with
      | some sr => (if (s.ctx c k).pulsed then s.haltStep sr else s.abortStep sr).modCore c fun x => x.dropPulses k t.tid
      | none => s
    if s.settled c k then s.freeCtx c k else s.modCtx c k fun x => { x.stopClear with run := .ending, delay := none }

/-- Contexts whose discarded task has nothing in flight any more become free. -/
def State.endings (s : State) : State :=
  s.cores.foldl (fun s p => [0, 1, 2, 3].foldl (fun s k =>
    if (s.ctx p.1 k).run = .ending ∧ s.settled p.1 k = true then s.freeCtx p.1 k else s) s) s

/-- A record of KIND 7 for the task of a context. -/
def State.lostTask (s : State) (c k : Nat) : State :=
  match (s.ctx c k).task with
  | none => s
  | some t => s.addFault (dieOf c) { ref := t.tid, kind := 7, acc := 0xFF, ea := 0, pc := 0, idx := 0, core := c, ctx := k }

/-- The same for a task that is not a step, which reruns (R222), and that has not ended yet. -/
def State.lost (s : State) (c k : Nat) : State :=
  if (s.ctx c k).inStep || (s.ctx c k).run == .ending || (s.ctx c k).run == .finished then s else s.lostTask c k

/-! ## Stopped chains (R221, R223) -/

/-- A chain that waits and whose eligible cores are all excluded stops, with a record of KIND 3 on its walker's die. -/
def State.stopChain (s : State) (g id n : Nat) : State :=
  match s.blk g id with
  | none => s
  | some b =>
    let ch := Tab.get (fun _ => Chain.init) b.chains n
    if ch.running || ch.stopped || b.op.chainLen ≤ ch.next || !((b.op.eligible n).all fun c => s.excluded b.op c) then s
    else (s.modBlk g id fun b => b.modChain n fun ch => { ch with stopped := true }).addFault (g / 8)
      { ref := id, kind := 3, acc := 0xFF, ea := 0, pc := b.op.addr, idx := chainIdx b.op.lev n, core := 0, ctx := 0 }

/-- Every chain of every block, where some core is excluded at all. -/
def State.stopChains (s : State) : State :=
  if s.koyth.retired.isEmpty then s
  else s.grottos.foldl (fun s p => p.2.blocks.foldl (fun s b =>
    (List.range b.op.chainCount).foldl (fun s n => s.stopChain p.1 b.id n) s) s) s

/-! ## The fault ring (R283, R284) -/

/-- Port block of a die. -/
def State.portBlock (s : State) (d : Nat) : Nat := s.pub (0x20000 + 256 * d)

/-- R283: BASE and SLOTS within their limits; BASE is a physical address of HBM. -/
def State.ring (s : State) (d : Nat) : Option (Nat × Nat) :=
  let base := (s.readWord (s.portBlock d)).toNat
  let n := s.readN (s.portBlock d + 8) 4
  if ringBase base && ringSize 16 65536 n then some (base, n) else none

/-- HDR but for FULL. -/
def FaultRec.hdr (r : FaultRec) : Nat := r.kind * 2 ^ 48 + r.acc * 2 ^ 40 + r.ctx * 2 ^ 32 + r.core * 2 ^ 16

/-- The context that is parked with a task. -/
def State.parkedAt (s : State) (r : FaultRec) : Bool :=
  (s.ctx r.core r.ctx).tid == r.ref && (s.ctx r.core r.ctx).task.isSome && (match (s.ctx r.core r.ctx).run with | .parked _ _ => true | _ => false)

/-- R282: the record of a parked context that has not drained yet is not placed. -/
def State.heldRecord (s : State) (r : FaultRec) : Bool := r.kind == 1 && s.parkedAt r && !(s.core r.core).drained r.ctx

/-- FAULT_RECORD_PLACEMENT (R284): the oldest waiting record of a die that may be placed, once its slot is free. The record of a parked
context waits until the context has drained (R282), which a crossbar command whose own record waits behind it may have to end first
(R130): such a record keeps none of the others back. -/
def execFaultRecordPlacement (d : Nat) (s : State) : Out :=
  .next <|
    match (s.die d).waiting.find? (!s.heldRecord ·), s.ring d with
    | some r, some (base, n) =>
      let a := base + 64 * ((s.die d).pushed % n)
      if (s.readWord a).getLsbD 63 then s
      else
        let bs := leBytes 8 (2 ^ 63 + r.hdr) ++ leBytes 8 r.ea.toNat ++ leBytes 8 r.pc.toNat ++ leBytes 8 r.idx.toNat ++ List.replicate 32 0
        let p := ((s.die d).pushed + 1) % 2 ^ 64
        let s := (s.storeAt none a bs none).storeAt none (s.portBlock d + 16) (leBytes 8 p) none
        s.setDie d { s.die d with waiting := (s.die d).waiting.erase r, pushed := p, placed := (s.die d).placed ++ [(a, r)] }
    | _, _ => s

/-! ## Answers (R285) -/

/-- The spilled entry of a parked task: grotto and place. -/
def State.spilledAt (s : State) (r : FaultRec) : Option (Nat × WaitEntry) :=
  s.grottos.findSome? fun p => (p.2.waits.find? fun w => w.wait.isNone && w.r.tid == some r.ref).map fun w => (p.1, w)

/-- R285: an answer to a context's miss; `none` where the push of its record must wait. -/
def State.answerCtx (s : State) (r : FaultRec) (code : Nat) : Option State :=
  if s.parkedAt r then
    let x := s.ctx r.core r.ctx
    -- a step that has changed conductances runs to its DONE (R290)
    if code = 1 || (x.pulsed && code != 2) then some (s.modCtx r.core r.ctx fun x => { x with run := .ready })
    else if code = 2 then some (s.raise r.core r.ctx 0x0E r.ea (s.missPc r.core r.ctx r.ea))
    else some (s.discard r.core r.ctx)
  else match s.spilledAt r with
  | none => some s
  | some (g, w) =>
    let t := s.setGrotto g { s.grotto g with waits := (s.grotto g).waits.erase w }
    if code = 1 then t.pushRec g w.r 0
    else if code = 2 then t.pushRec g { w.r with fault := some (0x0E, r.ea) } 0
    else some t

/-- R285: an answer to an engine's miss. -/
def State.answerCmd (s : State) (r : FaultRec) (code : Nat) : State :=
  match (s.core r.core).findCmd r.ref with
  | none => s
  | some m =>
    if !m.st.missed? then s
    else
      -- a collective without its number and an XUPD that has not read its sources had not started
      let back := (m.engine == .coll && m.reg == 0) || ((match m.ins with | .xupd _ => true | _ => false) && m.blk.isEmpty)
      let s := s.modCore r.core fun x => x.modCmd r.ref fun m =>
        if code = 1 then
          -- a vector that waited starts now (R333)
          let p := match m.engine with | .tile t => if isProduct m.ins then m.product.latch (x.tile t) else m.product | _ => m.product
          { m with st := if back then .queued else .running x.clock, product := p }
        else
          -- a refused completion record is not written
          let gone := match m.st with | .missed ea _ => m.crec != 0 && ea.toNat / 0x10000 == m.crec.toNat / 0x10000 | _ => false
          let n := if gone && (m.engine == .copy || m.engine == .gather) then 1 else m.prog
          { m with st := .running x.clock, fail := m.fail.or (some 2), crec := if gone then 0 else m.crec, prog := n }
      match Instr.ef m.ins with
      | some f => if code = 1 then s.refoot r.core m f else s
      | none => s

/-- FAULT_ANSWER (R285): the n-th placed record of a die. -/
def execFaultAnswer (d n : Nat) (s : State) : Out :=
  .next <|
    match (s.die d).placed[n]? with
    | none => s
    | some (a, r) =>
      let w := s.readWord (a + 32)
      if !w.getLsbD 63 then s
      else
        let code := (w.extractLsb' 0 2).toNat
        let t := if r.kind = 1 then s.answerCtx r code else if r.kind = 2 then some (s.answerCmd r code) else some s
        match t with
        | none => s
        | some t =>
          let t := t.setDie d { t.die d with placed := (t.die d).placed.eraseIdx n }
          t.storeAt none a (leBytes 8 r.hdr) none

/-! ## Uncorrectable storage errors (R294, R336) -/

/-- One more error of a storage unit of a core. -/
def Core.countErr (x : Core) (n : Nat) : Core := { x with errs := Tab.set (fun _ => 0) x.errs n (Tab.get (fun _ => 0) x.errs n + 1) }

/-- Core and macro of a line of a slice of this module. -/
def State.macroOf (s : State) (line : Nat) : Option (Nat × Nat) :=
  match targetOf (64 * line) with
  | .slice c off => if modOf (64 * line) == s.koyth.modId then some (c, off / 65536) else none
  | _ => none

/-- UNCORRECTABLE_STORAGE_ERROR (R294); as an input also the errors that are corrected, which only count (R295, R296). -/
def execUncorrectableStorageError (e : ErrSite) (s : State) : Out :=
  .next <|
    match e with
    | .accRow c row w =>
      if 1024 ≤ row || 96 ≤ w then s
      else
        let (t, s) := s.next
        let g := accGran row + w / 8
        s.modCore c fun x =>
          let d := x.gran g
          let v := (Config.word t 0).setWidth 512 <<< (64 * (w % 8))
          let m := (0xFFFFFFFFFFFFFFFF : Granule) <<< (64 * (w % 8))
          ((x.setGran g ((d &&& ~~~m) ||| v)).setSide row (mkSide (sideTag (x.side row)) true)).countErr 0
    | .window c g =>
      if 4096 ≤ g then s
      else
        let (t, s) := s.next
        s.modCore c fun x =>
          let x := (x.setGran g (BitVec.ofNat 512 (leNat ((List.range 64).map fun i => Config.byte t i)))).setTag g
            ⟨(Config.word t 1).getLsbD 0, (Config.word t 2).extractLsb' 0 16⟩
          { x with bad := if x.bad.contains g then x.bad else g :: x.bad }.countErr 1
    | .memLine l =>
      let s := s.poisonLine (64 * l)
      match s.macroOf l with
      | some (c, m) => s.modCore c (·.countErr (3 + m))
      | none => s
    | .register c k =>
      match (s.ctx c k).task with
      | none => s
      | some _ => ((s.lostTask c k).modCore c (·.countErr 1)).discard c k
    | .calibration c t => s.modTile c t fun u => { u.failure with calv := false, xerr := 6 }
    | .corrected u =>
      let s : State := { s with koyth := { s.koyth with corrected := (s.koyth.corrected + 1) % 2 ^ 64 } }
      match u with
      | .accStore c => s.modCore c (·.countErr 0)
      | .windows c => s.modCore c (·.countErr 1)
      | .scratchMacro c m => s.modCore c (·.countErr (3 + m))
      | _ => s
    | .staging b =>
      match (s.pearl b).queue with
      | [] => s
      | m :: _ =>
        match m.run with
        | none => s
        | some r =>
          let (t, s) := s.next
          let s := s.loseOperands (s.pearl b) m (Config.pick t % m.n)
          if m.kind = 1 then s else s.setStackRun b m { r with left := [] }
    | .parity c l => s.modCore c fun x => ({ x with icache := x.icache.filter fun p => p.1.2 / 64 != l }).countErr 2

/-! ## Windows and lasting faults (R296, R424) -/

/-- R296, R424: unit codes. -/
def unitCode : UnitCode → Nat
  | .accStore c => 0x10000 + c
  | .windows c => 0x20000 + c
  | .scratchMacro c m => 0x3000000 + 256 * c + m
  | .icache c => 0x40000 + c
  | .tile c t => 0x500000 + 16 * c + t
  | .ring b => 0x60000 + b
  | .link l => 0x70000 + l

/-- ERROR_WINDOW_CLOSE (R296): at the 2^20-th access of a window; a tile's accesses are counted here, those of storage are not. -/
def execErrorWindowClose (u : UnitCode) (s : State) : Out :=
  .next <|
    let zero := fun c n => s.modCore c fun x => { x with errs := Tab.set (fun _ => 0) x.errs n 0 }
    match u with
    | .accStore c => zero c 0
    | .windows c => zero c 1
    | .icache c => zero c 2
    | .scratchMacro c m => zero c (3 + m)
    | .tile c t => if 2 ^ 20 ≤ ((s.core c).tile t).winAcc then s.modTile c t fun u => { u with winAcc := 0, winErr := 0 } else s
    | .ring _ | .link _ => s

/-- A unit enters the retirement list. -/
def State.retire (s : State) (code : Nat) : State :=
  if s.koyth.retired.contains code then s else { s with koyth := { s.koyth with retired := s.koyth.retired ++ [code] } }

/-- A record of KIND 4. -/
def State.declare (s : State) (c code : Nat) : State :=
  s.addFault (dieOf c) { ref := 0, kind := 4, acc := 0xFF, ea := 0, pc := BitVec.ofNat 64 code, idx := 0, core := c, ctx := 0 }

/-- R424: a core is retired: steps abort, other tasks are lost, spilled ones with them; regions are released; records pinned to it are
dropped and counted. -/
def State.retireCore (s : State) (c : Nat) : State :=
  let s := [0, 1, 2, 3].foldl (fun (s : State) k => (s.lost c k).discard c k) s
  let s := (s.core c).regions.foldl (fun s r => s.zeroSlice c (65536 * r.m0) (65536 * r.nm)) s
  let s := s.modCore c fun x =>
    { x with retired := true, regions := [], macs := [], handlers := [], cmds := x.cmds.filter fun m => m.engine != .matrix }
  let s := s.grottos.foldl (fun s p =>
    let mine := p.2.waits.filter fun w => w.core == c
    let s := mine.foldl (fun s w =>
      s.addFault (dieOf c) { ref := w.r.tid.getD 0, kind := 7, acc := 0xFF, ea := 0, pc := 0, idx := 0, core := c, ctx := 0 }) s
    let x : Grotto := { p.2 with waits := p.2.waits.filter fun w => w.core != c }
    let pinned := fun (r : Rec) => r.pin && r.coreNo == c
    let n : Nat := ([0, 1, 2, 3].map fun l => ((Grotto.queue x l).filter pinned).length).sum
    let y := [0, 1, 2, 3].foldl (fun (x : Grotto) l => x.setQueue l ((x.queue l).filter fun r => !pinned r)) x
    let s := s.setGrotto p.1 y
    if n = 0 then s else { s with koyth := { s.koyth with dropped := s.koyth.dropped + n } }) s
  s.stopChains

/-- R327, R424: a tile is in lasting fault; steps that may use it are aborted at once (R290). -/
def State.retireTile (s : State) (c t : Nat) : State :=
  let s := (s.modTile c t fun u => { u with lf := true }).dropTile c t
  let s := [0, 1, 2, 3].foldl (fun (s : State) k =>
    match (s.ctx c k).task with
    | some q =>
      (match q.step with
      | some sr => (match s.blk sr.grotto sr.block with
        | some b => if b.op.tiles / 2 ^ t % 2 == 1 then (s.modCtx c k fun x => { x with pulsed := false }).discard c k else s
        | none => s)
      | none => s)
    | none => s) s
  s.stopChains

/-- What a retirement does to the machine (R424). -/
def State.retireUnit (s : State) (u : UnitCode) : State :=
  let s := s.retire (unitCode u)
  match u with
  | .accStore c | .windows c | .icache c => s.retireCore c
  | .tile c t => s.retireTile c t
  | _ => s

/-- R296: a storage unit that has errors in its window: at its threshold, which firmware may have lowered to any count above 0. -/
def State.declareStorage (s : State) (u : UnitCode) (c n : Nat) : State :=
  if s.koyth.retired.contains (unitCode u) || Tab.get (fun _ => 0) (s.core c).errs n = 0 then s else (s.declare c (unitCode u)).retireUnit u

/-- LASTING_FAULT_DECLARATION (R296). -/
def execLastingFaultDeclaration (u : UnitCode) (s : State) : Out :=
  .next <|
    match u with
    | .accStore c => s.declareStorage u c 0
    | .windows c => s.declareStorage u c 1
    | .icache c => s.declareStorage u c 2
    | .scratchMacro c m => s.declareStorage u c (3 + m)
    | .tile c t =>
      if ((s.core c).tile t).winErr < 4 || ((s.core c).tile t).lf then s else (s.declare c (unitCode u)).retireUnit u
    | .ring _ | .link _ => s

end Sys2Proof.Machine
end

