-- ==== Sys2Proof/Machine/Links.lean ====
section
/-! DEFINITION. Errors of the gallery ring and of the Umaot links (spec/31 R412-R417, spec/01 R8-R9, spec/32 R424). -/

namespace Sys2Proof.Machine

/-! ## The ring (R9, R412) -/

/-- Boundaries from station `a` on, `n` of them, upwards. -/
def boundsUp (a n : Nat) : List Nat := (List.range n).map fun i => (a + i) % 9

/-- R9: the boundaries that traffic between two stations crosses. Where both directions hold a retired boundary the spec gives no route;
here the traffic takes the longer one (log 85). -/
def ringPath (down : List Nat) (a b : Nat) : List Nat :=
  let n := (b + 9 - a) % 9
  let up := boundsUp a n
  let other := boundsUp b ((9 - n) % 9)
  let short := if n ≤ 4 then up else other
  let long := if n ≤ 4 then other else up
  if short.any down.contains then long else short

/-- Station of the memory that a physical address names; other modules lie behind the I/O die. -/
def State.station (s : State) (pa : Nat) : Nat :=
  if 2 ^ 64 ≤ pa then (dataPearl pa).1 % 48 / 6
  else if modOf pa != s.koyth.modId then 8
  else match targetOf pa with
  | .hbm a => stackOf a
  | .slice c _ => dieOf c
  | .reserved => 8

/-- Traffic from a die to an address crosses a boundary. -/
def State.crosses (s : State) (b d pa : Nat) : Bool := (ringPath s.koyth.ringDown d (s.station pa)).contains b

/-- RING_FLIT_RETRANSMIT (R412): one more failed flit is sent again; whether it then passes is the link's. -/
def execRingFlitRetransmit (b : Nat) (s : State) : Out :=
  .next <|
    if 9 ≤ b then s
    else
      let (t, s) := s.next
      let n := if Config.pick t % 2 = 0 then 0 else Tab.get (fun _ => 0) s.koyth.retry b + 1
      { s with koyth := { s.koyth with retry := Tab.set (fun _ => 0) s.koyth.retry b n } }

/-- The stations between which a command's data moves: a storage read, a decode and a resize are the I/O die's, a collective's data pass
between its members. -/
def State.cmdStations (s : State) (c : Nat) (m : Cmd) : List Nat :=
  match servedBy m.ins with
  | 3 | 4 | 5 => [8, dieOf c]
  | _ => if m.engine == .coll then ((s.group c m).members.map fun w => dieOf (w % 2 ^ 11)).eraseDups else [dieOf c]

/-- Some of some ranges of a command lie across a boundary from one of its stations. -/
def State.rangesCross (s : State) (b : Nat) (from' : List Nat) (space : Nat) (l : List (Nat × Nat × Bool)) : Bool :=
  l.any fun r => (pagesIn r.1 (max r.2.1 1)).any fun va =>
    match s.reach space va r.2.2 with
    | .ok pa _ h => from'.any fun d => s.crosses b d (if r.2.2 then pa else readAt pa h d) || (r.2.2 && (holders pa h).any fun k => s.crosses b d (replicaOf pa k))
    | _ => false

/-- A running command reaches some address across a boundary. -/
def State.cmdCrosses (s : State) (b c : Nat) (m : Cmd) : Bool :=
  let l := match Instr.ef m.ins with | some f => s.cmdTouch c m f | none => []
  let at' := s.cmdStations c m
  m.st.running? && (s.rangesCross b at' m.space l || at'.any fun d => at'.any fun e => (ringPath s.koyth.ringDown d e).contains b)

/-- The source of an MRSZ lies across a boundary from the I/O die (R366). -/
def State.srcCrosses (s : State) (b : Nat) (m : Cmd) : Bool :=
  match m.ins with
  | .mrsz _ => s.rangesCross b [8] m.space ((resizeOf m.blk).reads.map fun p => (p.1, p.2, false))
  | _ => false

/-- The places that a pending access meets: a read its copy, a write the home copy and every replica (R199). -/
def Access.places (a : Access) (die : Nat) : List Nat :=
  a.bits.flatMap fun b =>
    let h := a.holdAt (b / 8)
    match a.kind with
    | .load _ _ | .vload _ _ _ => [readAt (b / 8) h die]
    | _ => (b / 8) :: (holders (b / 8) h).map (replicaOf (b / 8))

/-- R412: a store to a command or status window that is in flight across a lost boundary is discarded (R416): its context goes on. -/
def Ctx.loseWin (x : Ctx) (lost : Nat → Bool) (modl : Nat) : Ctx :=
  match x.win with
  | some q => if q.ans.isNone && lost q.w.pa then { x with win := some { q with ans := some none }, discard := x.discard.or (some (q.w.ea, modl)) } else x
  | none => x

/-- Every access of a core that some test names meets an error. -/
def Core.killAccs (x : Core) (bad : Access → Bool) : Core :=
  [0, 1, 2, 3].foldl (fun (x : Core) k =>
    if (x.ctx k).acc.any bad then x.setCtx k { x.ctx k with acc := (x.ctx k).acc.map fun a => if bad a then { a with dead := true } else a }
    else x) x

/-- RING_BOUNDARY_FAULT (R412): after 16 failed retransmissions a boundary is in lasting fault, and what is in flight across it fails. -/
def execRingBoundaryFault (b : Nat) (s : State) : Out :=
  .next <|
    if s.koyth.ringDown.contains b || Tab.get (fun _ => 0) s.koyth.retry b < 16 then s
    else
      let t := s.cores.foldl (fun t p => t.modCore p.1 fun x =>
        let x := x.killAccs fun a => (a.places (dieOf p.1)).any fun v => s.crosses b (dieOf p.1) v
        let x := [0, 1, 2, 3].foldl (fun (x : Core) k => x.setCtx k ((x.ctx k).loseWin (s.crosses b (dieOf p.1)) s.koyth.modId)) x
        { x with cmds := x.cmds.map fun m => if s.cmdCrosses b p.1 m && m.fail.isNone then
            { m with fail := some 3, prog := if s.srcCrosses b m then 1 else m.prog } else m }) s
      let t := t.retire (0x60000 + b)
      { t with koyth := { t.koyth with ringDown := b :: t.koyth.ringDown } }

/-! ## Umaot (R414-R417) -/

/-- Flits sent since the last event of a link, idle ones included: how many is free. -/
def State.flits (s : State) (l : Nat) : State :=
  let (t, s) := s.next
  s.linkCount l 0 (Config.pick t % 2 ^ 64)

/-- UMAOT_FLIT_RETRANSMIT (R416): a flit failed its CRC; received here it counts as CRC, sent from here as RETX. -/
def execUmaotFlitRetransmit (l : Nat) (s : State) : Out :=
  .next <|
    if 36 ≤ l then s
    else
      let s := s.flits l
      let (t, s) := s.next
      if Config.pick t % 2 = 0 then s.linkCount l 1 1 else s.linkCount l 2 1

/-- A pending access to another module, or one that crosses Umaot. -/
def Access.far (a : Access) (m own : Nat) : Bool := a.mods.contains m && m != own

/-- UMAOT_REQUEST_RESEND (R416): a request to module `m`, not acknowledged on link `l`, goes out on another link. -/
def execUmaotRequestResend (l m : Nat) (s : State) : Out :=
  .next <|
    if 36 ≤ l || m == s.koyth.modId || !s.inDomain m || s.koyth.unreachable.contains m then s
    else
      let s := (s.flits l).linkCount l 3 1
      { s with koyth := { s.koyth with resent := Tab.set (fun _ => 0) s.koyth.resent m (Tab.get (fun _ => 0) s.koyth.resent m + 1) } }

/-- R416: a command in flight to a module that is lost ends with status 9 where it stands: a copy or a gather has delivered what it reaches
before it meets the module, and COUNT tells it. -/
def State.loseRoute (s : State) (c : Nat) (m : Cmd) (mod' : Nat) : State :=
  match Instr.ef m.ins with
  | none => s
  | some f =>
    let far := (s.cmdTouch c m f).any fun r => (pagesIn r.1 (max r.2.1 1)).any fun va =>
      match s.reach m.space va r.2.2 with | .ok pa _ _ => modOf pa == mod' | _ => false
    let coll := m.engine == .coll && (s.group c m).members.any fun w => w / 2 ^ 11 == mod'
    if !(m.st.running? && m.fail.isNone && (far || coll)) then s
    else if m.engine == .copy || m.engine == .gather then
      let r := s.runMove c m f
      if r.st = 9 then r.s.modCore c fun x => x.modCmd m.id fun m => { m with fail := some 9, prog := r.cnt, poison := r.poison } else s
    else s.modCore c fun x => x.modCmd m.id fun m => { m with fail := some 9, prog := 0 }
def State.loseRoutes (s : State) (mod' : Nat) : State :=
  s.cores.foldl (fun t p => p.2.cmds.foldl (fun t m => t.loseRoute p.1 m mod') t) s

/-- Every link is down: no route remains. -/
def Koyth.noRoute (k : Koyth) : Bool := (List.range 36).all k.linkDown.contains

/-- R416: module `m`, last tried through link `l`, is declared unreachable: the accesses and window stores in flight to it are lost. -/
def State.cutOff (s : State) (l m : Nat) : State :=
  let s := s.cores.foldl (fun t p => t.modCore p.1 fun x => x.killAccs fun a => a.far m s.koyth.modId) s
  let s := s.cores.foldl (fun t p => t.modCore p.1 fun x =>
    [0, 1, 2, 3].foldl (fun (x : Core) k => x.setCtx k ((x.ctx k).loseWin (fun a => modOf a == m) m)) x) s
  let s := (s.flits l).linkCount l 5 1
  { s with koyth := { s.koyth with unreachable := m :: s.koyth.unreachable, deadLink := Tab.set (fun _ => 0) s.koyth.deadLink m l } }

/-- DESTINATION_UNREACHABLE (R416): after four resends, or with no route left, requests in flight to module `m` end. -/
def execDestinationUnreachable (l m : Nat) (s : State) : Out :=
  .next <|
    if 36 ≤ l || m == s.koyth.modId || !s.inDomain m || s.koyth.unreachable.contains m ||
        !(4 ≤ Tab.get (fun _ => 0) s.koyth.resent m || s.koyth.noRoute) then s
    else (s.cutOff l m).loseRoutes m

/-- ROUTE_RESTORE (R416). -/
def execRouteRestore (m : Nat) (s : State) : Out :=
  .next <|
    { s with koyth := { s.koyth with unreachable := s.koyth.unreachable.filter (· != m), resent := Tab.set (fun _ => 0) s.koyth.resent m 0 } }

/-- UMAOT_LINK_DOWN (R417). -/
def execUmaotLinkDown (l : Nat) (s : State) : Out :=
  .next <|
    if 36 ≤ l || s.koyth.linkDown.contains l then s
    else
      let s := ((s.flits l).linkCount l 4 1).retire (0x70000 + l)
      { s with koyth := { s.koyth with linkDown := l :: s.koyth.linkDown } }

end Sys2Proof.Machine
end

