-- ==== Sys2Proof/Machine/Preempt.lean ====
section
/-! DEFINITION. Pre-emption, restore and the admission of gangs (spec/18 R287-R293, R429, spec/16 R263-R265, spec/13 R218-R219,
spec/17 R272, spec/15 R252). A request stays in RHDR until its event has done its work; the event first stops the members and then,
once they are quiet, saves them in one step. -/

namespace Sys2Proof.Machine

/-! ## RHDR (R287) -/

def State.rhdr (s : State) (d : Nat) : Word := s.readWord (s.portBlock d + 64)
def State.savePtr (s : State) (d : Nat) : Word := s.readWord (s.portBlock d + 72)

/-- The die answers: VALID 0, DONE 1, STATUS; reserved bits read zero (R3). -/
def State.answerRhdr (s : State) (d st : Nat) : State :=
  let w := (s.rhdr d &&& 0x0000FF0007FF0003) ||| BitVec.ofNat 64 (2 ^ 62 + st * 2 ^ 48)
  s.storeAt none (s.portBlock d + 64) (leBytes 8 w.toNat) none

def rhdrOp (w : Word) : Nat := (w.extractLsb' 40 8).toNat
/-- Reserved bits are zero. -/
def rhdrPlain (w : Word) : Bool := w &&& 0x3F0000FFF800FFFC == 0

/-! ## Members -/

/-- R287: a target names its whole gang in declaration order (R291), but for members that have executed DONE, or itself. -/
def State.members (s : State) (c k : Nat) : List (Nat × Nat) :=
  match (s.ctx c k).task with
  | some t =>
    match t.gang with
    | some id =>
      let ps := s.gangCtxs id
      let order := match s.gang id with | some g => g.places.filter ps.contains | none => ps
      order.filter fun p => decide ((s.ctx p.1 p.2).run ≠ .finished)
    | none => [(c, k)]
  | none => []

/-- Commands that a member issued. -/
def State.cmdsOf (s : State) (c k : Nat) : List Cmd := (s.core c).cmds.filter fun m => m.ctx == k && m.tid == (s.ctx c k).tid && m.retire.isNone

/-- R288, R289, steps 1 and 2: stopped at task level, drained, the store buffer empty. -/
def State.quiet (s : State) (c k : Nat) : Bool :=
  let x := s.ctx c k
  x.preempt && x.level == 0 && x.delay.isNone && s.settled c k &&
  (match x.run with | .trapping _ _ _ | .stopped | .ending => false | _ => true) &&
  !x.answered

/-- Highest group of a running MMS that has started a pair. -/
def Cmd.topGroup (m : Cmd) (r : Region) (f : EF) : Option Nat :=
  let nv := Machine.EF.mmsNv f
  m.mac.foldl (fun h p =>
    if p.2 = 0 then h
    else
      let lo := Machine.EF.g0 f + m.skip
      let g := lo + (p.1 - r.m0 + r.nm - lo % r.nm) % r.nm + r.nm * ((p.2 - 1) / nv)
      some (max g (h.getD 0))) none

/-- R272: a started MMS of a stopped context, one held on a missing page included, starts no pair above the highest group begun; one
that has begun none is unstarted, unless it has started for another to start behind it. One that a copy or a buffered release of a member
waits for is not stopped (log 83). -/
def Core.stopMms (x : Core) (k tid : Nat) : Core :=
  let needed := x.awaited
  { x with cmds := x.cmds.map fun m =>
      match m.ins, x.regionId m.reg with
      | .mms f, some r =>
        if needed.contains m.id then { m with stopAt := none }
        else if m.ctx == k && m.tid == tid && m.underway && m.fail.isNone && m.stopAt.isNone then
          (match m.topGroup r f with
          | some h => { m with stopAt := some h }
          | none => if (x.unstarted m).awaited.contains m.id then m else { m with st := .queued })
        else m
      | _, _ => m }

/-- Every member stops issue; one at firmware level is not touched until it returns (R288). -/
def State.stopMembers (s : State) (ms : List (Nat × Nat)) : State :=
  ms.foldl (fun s p =>
    let s := s.modCtx p.1 p.2 fun x => { x with preempt := true }
    if (s.ctx p.1 p.2).level = 2 then s else s.modCore p.1 fun x => x.stopMms p.2 (x.ctx p.2).tid) s

/-- On a refusal the members go on. -/
def State.releaseMembers (s : State) (ms : List (Nat × Nat)) : State :=
  ms.foldl (fun s p => (s.modCtx p.1 p.2 fun x => { x with preempt := false }).modCore p.1 fun x =>
    { x with cmds := x.cmds.map fun m => if m.ctx == p.2 && m.tid == (x.ctx p.2).tid then { m with stopAt := none } else m }) s

/-- An MMS that stands at its stop point: every pair up to the group has entered and none is left below. -/
def State.atStop (s : State) (c : Nat) (m : Cmd) : Bool :=
  match m.ins, m.stopAt with
  | .mms f, some h =>
    (s.core c).macs.all (fun i => i.cmd != m.id) && m.late.isEmpty && m.prog == (h + 1 - Machine.EF.g0 f - m.skip) * Machine.EF.mmsNv f &&
      m.prog != m.itemCount f
  | _, _ => false

/-- R289, steps 4 and 5: what still has to end before the save. -/
def State.unfinished (s : State) (c k : Nat) : Bool :=
  (s.cmdsOf c k).any fun m =>
    if m.engine == .matrix || m.engine.isTile then m.underway && !s.atStop c m else true

/-! ## Saving (R289, R291) -/

/-- Handles of the member's commands that have ended, with their status words (R265). -/
def Core.handlesOf (x : Core) (c tid : Nat) : List (Word × Word) :=
  x.slots.filterMap fun p =>
    if p.2.tid == some tid && !p.2.used && p.2.gen != 0 then some (mkHandle c (p.1 / 64) p.2.gen (p.1 % 64), p.2.status) else none

/-- Bytes of a region's macros, by offset from its first (R291). -/
def State.regionBytes (s : State) (c : Nat) (r : Region) : Tab Byte :=
  let a := s.sliceBase c + 65536 * r.m0
  s.mem.filterMap fun p => if a ≤ p.1 && p.1 < a + 65536 * r.nm && (p.1 - a) % 65536 < 64512 then some (p.1 - a, p.2) else none

/-- Granules numbered from a first one. -/
def sliceTab {α : Type} (t : Tab α) (first n : Nat) : Tab α :=
  t.filterMap fun p => if first ≤ p.1 && p.1 < first + n then some (p.1 - first, p.2) else none

/-- R252: a stopped MMS as its reissue will run it. -/
def Cmd.reissue (m : Cmd) : Cmd :=
  match m.ins, m.stopAt with
  | .mms f, some h => { m with st := .queued, skip := h + 1 - Machine.EF.g0 f, stopAt := none, prog := 0, mac := [], arrived := 0, stream := [], product := Product.init, rows := [], late := [] }
  | _, _ => m

/-- A waiting member of R429 stays waiting; any other issues its instruction again. -/
def Run.saved : Run → Run
  | .waiting (.future _ _) => .ready
  | .waiting w => .waiting w
  | _ => .ready

/-- The save of one member. A region that an MRLS still queued has removed is saved with it: a stopped MMS reads it when it is reissued
(R252). -/
def State.saveMember (s : State) (c k : Nat) : SavedMember :=
  let x := s.core c
  let t := x.ctx k
  let base := grantBase t.grant
  let n := (t.grant.extractLsb' 32 32).toNat
  let cs := (s.cmdsOf c k).map Cmd.reissue
  let st := match (s.cmdsOf c k).find? (s.atStop c) with
    | some m => BitVec.ofNat 64 (2 ^ 63 + m.reissue.skip * 2 ^ 32) ||| (t.engStatus &&& 0x00FF000000000000)
    | none => t.engStatus
  { ctx := { t.stopClear with run := t.run.saved, preempt := false, engStatus := st, busy := [], held := false, yieldTo := [], stall := 0,
                              task := t.task.map fun q => { q with r := { q.r with recorded := x.handlesOf c t.tid ++ q.r.recorded } } }
    core := c
    bank := BitVec.ofNat 8 (([0, 1, 2, 3].map fun b => (bankState x.bank k b).toNat * 4 ^ b).sum)
    window := sliceTab x.space (1024 * k) 1024
    tags := sliceTab x.tags (1024 * k) 1024
    rows := sliceTab x.space (accGran base) (12 * n)
    sides := sliceTab x.sides base n
    cmds := cs.filter (fun m => m.engine == .matrix) ++ cs.filter fun m => m.engine.isTile
    regions := (x.regions.filter fun r => r.owner == t.tid).map fun r => (r, s.regionBytes c r) }

/-- What a save frees (R289, step 7). -/
def State.freeMember (s : State) (c k : Nat) : State :=
  let x := s.core c
  let tid := (x.ctx k).tid
  let s := (x.regions.filter fun r => r.owner == tid).foldl (fun s r => s.zeroSlice c (65536 * r.m0) (65536 * r.nm)) s
  let ids := (s.cmdsOf c k).map (·.id)
  let s := s.modCore c fun x =>
    { x with cmds := x.cmds.filter fun m => !ids.contains m.id, regions := x.regions.filter fun r => r.owner != tid }
  s.freeCtx c k

/-- R291: granted rows and marked macros of the members. -/
def State.savedRows (s : State) (ms : List (Nat × Nat)) : Nat :=
  (ms.map fun p => ((s.ctx p.1 p.2).grant.extractLsb' 32 32).toNat).sum
def State.savedMacros (s : State) (ms : List (Nat × Nat)) : Nat :=
  (ms.map fun p => (((s.core p.1).regions.filter fun r => !r.gone && r.owner == (s.ctx p.1 p.2).tid).map (·.nm)).sum).sum
/-- Bound of R291 in 64-byte units. -/
def State.saveBound (s : State) (ms : List (Nat × Nat)) : Nat :=
  (4096 + 78016 * ms.length + 772 * s.savedRows ms + 64640 * s.savedMacros ms) / 64
/-- What the segments of R291 hold at least, in 64-byte units: the header, the banks that are not off, the rows, the macros. -/
def State.saveLeast (s : State) (ms : List (Nat × Nat)) : Nat :=
  let banks := (ms.map fun p => ([0, 1, 2, 3].filter fun b => bankState (s.core p.1).bank p.2 b != 0).length).sum
  (4096 + 16384 * banks + 768 * s.savedRows ms + 64512 * s.savedMacros ms) / 64

/-- R287: pages of a save area, by the space of its gang. -/
def State.saveOk (s : State) (space : Nat) (a : Word) (n : Nat) : Bool :=
  eaAligned a && eaPlain a && (pagesIn a.toNat (max n 1)).all fun v =>
    match s.reach space v true with
    | .ok _ t _ => t.r && t.w && !t.a && !t.c && !t.d
    | _ => false

/-- R309: a page of the save area is in transit, and the request waits. -/
def State.saveTransit (s : State) (space : Nat) (a : Word) (n : Nat) : Bool :=
  eaPlain a && (pagesIn a.toNat (max n 1)).any fun v => match s.reach space v true with | .wait => true | _ => false

/-- The grotto whose barrier a member waits at (R429). -/
def SavedMember.barGrotto (m : SavedMember) : Option Nat :=
  match m.ctx.run with
  | .waiting (.bar _ _ _) => some (grottoOf m.core)
  | _ => none

/-- The space of a saved gang: an area is known by its space and address. -/
def SavedGang.space (g : SavedGang) : Nat := match g.members with | m :: _ => m.ctx.space | [] => 0

/-- R164, R291: the pipe ends that a save recorded are held again. -/
def State.regrip (s : State) (g : SavedGang) : State :=
  s.modLaunch g.space fun l => { l with held := g.held ++ l.held.filter fun h => !(g.held.any fun q => q.pipe == h.pipe && q.wr == h.wr) }

/-- R289: the save. Its bytes are in no stated format: free values of a free length within the bound. -/
def State.saveGang (s : State) (d c k : Nat) (ms : List (Nat × Nat)) : State :=
  let (t, s) := s.next
  let space := (s.ctx c k).space
  let a := s.savePtr d
  let n := 64 * (s.saveLeast ms + Config.pick t % (s.saveBound ms - s.saveLeast ms + 1))
  if s.saveTransit space a n then s
  else if !s.saveOk space a n then (s.releaseMembers ms).answerRhdr d 7
  else
    let g := match (s.ctx c k).task with | some t => (match t.gang with | some id => s.gang id | none => none) | none => none
    let saved := ms.map fun p => s.saveMember p.1 p.2
    let held := match s.launchOf space with
      | some l => l.held.filter fun h => ms.any fun p => (s.ctx p.1 p.2).tid == h.owner
      | none => []
    let s := (List.range (n / 64)).foldl (fun s i => s.engWrite space (a.toNat + 64 * i) (freeBytes t (64 * i) 64) false) s
    let s := ms.foldl (fun s p => s.freeMember p.1 p.2) s
    let s : State := match g with | some g => (s.gangCtxs g.id).foldl (fun (s : State) p => s.freeCtx p.1 p.2) s | none => s
    let s := { s with
      gangs := (match g with | some g => s.gangs.filter fun x => x.id != g.id | none => s.gangs)
      saved := ⟨a.toNat, n, g, saved, saved.findSome? SavedMember.barGrotto, held⟩ :: s.saved.filter fun x => x.save != a.toNat || x.space != space }
    (s.storeAt none (s.portBlock d + 80) (leBytes 8 n) none).answerRhdr d 0

/-! ## PREEMPT_REQUEST -/

/-- A tile step at task level is aborted once it has drained, or runs to its DONE (R222, R288, R290). -/
def State.preemptStep (s : State) (d c k : Nat) : State :=
  if (s.ctx c k).pulsed then (s.modCtx c k fun x => { x with preempt := false }).answerRhdr d 4
  else if s.settled c k && (s.ctx c k).level == 0 && (s.ctx c k).delay.isNone then (s.discard c k).answerRhdr d 3
  else s.modCtx c k fun x => { x with preempt := true }

/-- PREEMPT_REQUEST (R287-R291): the request in the port block of a die. -/
def execPreemptRequest (d : Nat) (s : State) : Out :=
  .next <|
    let w := s.rhdr d
    let c := (w.extractLsb' 16 11).toNat
    let k := (w.extractLsb' 0 2).toNat
    if !w.getLsbD 63 || rhdrOp w == 2 then s
    else if rhdrOp w != 1 || !rhdrPlain w || dieOf c != d then s.answerRhdr d 8
    else match (s.ctx c k).task with
    | none => s.answerRhdr d 1
    | some t =>
      if t.handler then s.answerRhdr d 2
      else if t.step.isSome then s.preemptStep d c k
      else if s.saveTransit (s.ctx c k).space (s.savePtr d) 64 then s
      else if !s.saveOk (s.ctx c k).space (s.savePtr d) 64 then (s.releaseMembers (s.members c k)).answerRhdr d 7
      else
        let ms := s.members c k
        if !(ms.all fun p => (s.ctx p.1 p.2).preempt) then s.stopMembers ms
        else if !(ms.all fun p => s.quiet p.1 p.2) then s.stopMembers ms
        else if ms.any fun p => (s.cmdsOf p.1 p.2).any fun m => match m.st with | .armed _ => true | _ => false then
          (s.releaseMembers ms).answerRhdr d 5
        else if ms.any fun p => (s.cmdsOf p.1 p.2).any fun m => m.engine == .coll && m.fail.isNone && !m.cancel && s.collUnknown p.1 m then s.stopMembers ms
        else
          let s := ms.foldl (fun s p => ((s.cmdsOf p.1 p.2).filter (·.engine == .coll)).foldl (fun s m => s.farAsk p.1 m) s) s
          if ms.any fun p => (s.cmdsOf p.1 p.2).any fun m => m.engine == .coll && m.fail.isNone && !m.cancel && !s.collIssued p.1 m then
            (s.releaseMembers ms).answerRhdr d 6
          else if ms.any fun p => s.unfinished p.1 p.2 then s.stopMembers ms
          else s.saveGang d c k ms

/-! ## RESTORE_REQUEST (R292) -/

def pendingDie (d : Nat) : PendingGang → Bool
  | .saved e _ => e == d
  | .fresh _ _ _ _ _ _ => false

/-- RESTORE_REQUEST (R287, R292): the saved gang goes to the head of the pending gangs; its area may be restored again. -/
def execRestoreRequest (d : Nat) (s : State) : Out :=
  .next <|
    let w := s.rhdr d
    let a := s.savePtr d
    if !w.getLsbD 63 || rhdrOp w != 2 || s.pending.any (pendingDie d) then s
    else if !rhdrPlain w then s.answerRhdr d 8
    else if !eaAligned a then s.answerRhdr d 7
    else match s.saved.find? fun g => g.save == a.toNat with
    | none => s.answerRhdr d 8
    | some g =>
      if s.saveTransit g.space a (max 64 g.size) then s
      else if !s.saveOk g.space a (max 64 g.size) then s.answerRhdr d 7
      else { s with pending := .saved d g :: s.pending }

/-! ## Placement (R218, R263, R292) -/

/-- Free contexts of a grotto, cores and contexts ascending. -/
def State.freeIn (s : State) (g : Nat) : List (Nat × Nat) := (coresOf g).flatMap fun c => (s.core c).freeCtxs.map fun k => (c, k)

/-- Pinned members first, then the others, each in declaration order; `none` where one finds no context. -/
def assign (free : List (Nat × Nat)) (pins : List (Option Nat)) : Option (List (Nat × Nat)) :=
  let step := fun (pinned : Bool) (p : List (Nat × Nat) × Tab (Nat × Nat)) (q : Option Nat × Nat) =>
    if q.1.isSome != pinned then p
    else match p.1.find? fun f => match q.1 with | some c => f.1 == c | none => true with
    | some f => (p.1.erase f, Tab.insert q.2 f p.2)
    | none => p
  let r := pins.zipIdx.foldl (step false) (pins.zipIdx.foldl (step true) (free, []))
  if r.2.length = pins.length then some (r.2.map (·.2)) else none

/-- R263, R292: the core a member must have. -/
def recPin (r : Rec) : Option Nat := if r.pin then some r.coreNo else none
def SavedMember.pinTo (m : SavedMember) : Option Nat :=
  match m.ctx.task with
  | some t => if t.r.pin then some t.r.coreNo else if !m.regions.isEmpty || m.cmds.any (·.engine.isTile) then some m.core else none
  | none => none

/-- R292: the macros of saved regions are free on their cores: not marked, and with no MRLS still to make them read zero (R248); at most
32 are then marked. -/
def State.regionsFit (s : State) (ms : List (SavedMember × Nat × Nat)) : Bool :=
  ms.all fun p =>
    let x := s.core p.2.1
    p.1.regions.all (fun r => !(x.regions.any fun q => q.m0 < r.1.m0 + r.1.nm && r.1.m0 < q.m0 + q.nm) && !s.macroRetired p.2.1 r.1.m0 r.1.nm) &&
    x.markedMacros + (((ms.filter fun q => q.2.1 == p.2.1).flatMap fun q => (q.1.regions.filter fun r => !r.1.gone).map fun r => r.1.nm)).sum ≤ 32

/-- A place for each member. -/
def State.placesFor (s : State) (p : PendingGang) (g : Nat) : Option (List (Nat × Nat)) :=
  match p with
  | .fresh _ _ ms _ _ _ => assign (s.freeIn g) (ms.map fun m => recPin m.r)
  | .saved _ v =>
    if (match v.grotto with | some q => q != g | none => false) then none
    else match assign (s.freeIn g) (v.members.map SavedMember.pinTo) with
    | some l => if s.regionsFit (List.zip v.members l) then some l else none
    | none => none

/-! ## Restoring (R292) -/

/-- R292: the new BASE of a grant. -/
def newBase (k n : Nat) : Nat := if 256 * k + n ≤ 1024 then 256 * k else 1024 - n

/-- Put entries at numbers from a first one. -/
def Core.putWindow (x : Core) (k : Nat) (m : SavedMember) : Core :=
  let keep := fun {α : Type} (t : Tab α) => t.filter fun p => !(1024 * k ≤ p.1 && p.1 < 1024 * k + 1024)
  let x := { x with space := keep x.space, tags := keep x.tags, bad := x.bad.filter fun g => !(1024 * k ≤ g && g < 1024 * k + 1024) }
  let x := [0, 1, 2, 3].foldl (fun (x : Core) b => { x with bank := setBank x.bank k b (m.bank.extractLsb' (2 * b) 2) }) x
  let x := m.window.foldl (fun (x : Core) p => x.setGran (1024 * k + p.1) p.2) x
  m.tags.foldl (fun (x : Core) p => x.setTag (1024 * k + p.1) p.2) x

def Core.putRows (x : Core) (base n : Nat) (m : SavedMember) : Core :=
  let x := x.dropRows base n
  let x := m.rows.foldl (fun (x : Core) p => x.setGran (accGran base + p.1) p.2) x
  m.sides.foldl (fun (x : Core) p => x.setSide (base + p.1) p.2) x

/-- A saved command under its new grant. -/
def Cmd.moved (m : Cmd) (k base : Nat) : Cmd :=
  { m with ctx := k, gbase := base, st := .queued, due := none,
           parts := m.parts.map fun p => if p.rows then { p with lo := p.lo + base - m.gbase, hi := p.hi + base - m.gbase } else p }

/-- R292: one member starts again in a context. -/
def State.restoreMember (s : State) (m : SavedMember) (c k : Nat) : State :=
  let n := (m.ctx.grant.extractLsb' 32 32).toNat
  let base := newBase k n
  let grant := (m.ctx.grant &&& 0xFFFFFFFF00000000) ||| BitVec.ofNat 64 base
  let s := s.modCore c fun x =>
    let x := (x.putWindow k m).putRows base n m
    let x := { x with regions := x.regions ++ m.regions.map (·.1) }
    let x := m.cmds.foldl (fun (x : Core) q => x.enqueue (q.moved k base)) x
    { x with icache := x.icache.filter (·.1.1 != k) }.setCtx k { m.ctx with grant := grant, lastLid := some m.ctx.lid, since := x.clock, engFail := (x.ctx k).engFail }
  m.regions.foldl (fun s r =>
    r.2.foldl (fun s p => s.setByte (s.sliceBase c + 65536 * r.1.m0 + p.1) p.2) (s.zeroSlice c (65536 * r.1.m0) (65536 * r.1.nm))) s

/-! ## GANG_ADMISSION -/

/-- Reply of the launch processor (R406). -/
def reply (type st tag detail launch val : Nat) : List Byte :=
  leBytes 2 (type + 0x80) ++ leBytes 1 st ++ [0] ++ leBytes 4 tag ++ leBytes 4 detail ++ leBytes 4 launch ++ leBytes 8 val ++ List.replicate 40 0
def State.sendReply (s : State) (qp : Nat) (bs : List Byte) : State := { s with io := { s.io with replies := s.io.replies ++ [(qp, bs)] } }

/-- A new member starts in a context. -/
def State.startMember (s : State) (m : Member) (id c k : Nat) : State :=
  let (n, s) := s.newTid
  s.startTask c k 256 { r := m.r, gang := some id, handler := false, step := none, tid := n } [] (some (m.viewV, m.viewT))

/-- A saved member as one of the gang it is restored into. -/
def SavedMember.inGang (m : SavedMember) (id : Nat) : SavedMember :=
  { m with ctx := { m.ctx with task := m.ctx.task.map fun t => { t with gang := t.gang.map fun _ => id } } }

/-- GANG_ADMISSION (R218, R292): the oldest pending gang takes the first grotto that can hold it. -/
def execGangAdmission (s : State) : Out :=
  .next <|
    match s.pending with
    | [] => s
    | p :: rest =>
      match (List.range 64).findSome? (s.placesFor p) with
      | none => s
      | some l =>
        let s := { s with pending := rest }
        match p with
        | .fresh space lid ms qp tag pipes =>
          let id := s.nextGang
          let s := { s with
            nextGang := id + 1
            gangs := s.gangs ++ [(⟨id, space, lid, ms.length, ms.length, [], l⟩ : Gang)] }
          let s := (List.zip ms l).foldl (fun s q => s.startMember q.1 id q.2.1 q.2.2) s
          s.sendReply qp (reply 1 0 tag.toNat 0 space pipes.toNat)
        | .saved d v =>
          -- a copy of a gang that is on the module already is a gang of its own
          let id := match v.gang with
            | some g => if (s.gang g.id).isSome then s.nextGang else g.id
            | none => 0
          let s := { s with
            nextGang := max s.nextGang (id + 1)
            gangs := match v.gang with | some g => s.gangs ++ [{ g with id := id, places := l }] | none => s.gangs }
          (((List.zip v.members l).foldl (fun s q => s.restoreMember (q.1.inGang id) q.2.1 q.2.2) s).regrip v).answerRhdr d 0

end Sys2Proof.Machine
end

