-- ==== Sys2Proof/Machine/Migrate.lean ====
section
/-! DEFINITION. Page migration and the refresh of compute rows (spec/19 R308-R309, spec/26 R375-R376). -/

namespace Sys2Proof.Machine

/-! ## Migration -/

def State.migBlock (s : State) : Nat := s.pub (0x20000 + 2048)

/-- R308: the engine answers: VALID 0, DONE 1, STATUS. -/
def State.answerMig (s : State) (st : Nat) : State :=
  s.storeAt none (s.migBlock + 16) (leBytes 8 (2 ^ 62 + st * 2 ^ 48)) none

/-- Bytes of the page of the leaf at an address: 2 MiB where the entry lies in a level-1 table of a resident launch, else 64 KiB
(R298; log 40). -/
def State.leafBytes (s : State) (ptea : Nat) : Nat :=
  if s.launches.any fun l => (List.range 8192).any fun i =>
      let e := s.readWord (l.l0tab + 8 * i)
      isPointer e && ptAddr e ≤ ptea && ptea < ptAddr e + 0x200000 then 0x200000
  else 0x10000

/-- R299: a valid leaf in a table of this module. -/
def State.leafOk (s : State) (ptea : Nat) : Bool :=
  let e := s.readWord ptea
  ptea % 8 == 0 && s.tableOk ptea && e.extractLsb' 0 3 != 0 && e.getLsbD 7 && (s.leafBytes ptea == 0x10000 || e.extractLsb' 16 5 == 0)

/-- R308: NEWPA lies in HBM of this module, aligned, clear of the page. -/
def State.newpaOk (s : State) (pa new n : Nat) : Bool :=
  new % n == 0 && modOf new == s.koyth.modId && (match targetOf new with | .hbm _ => true | _ => false) && (new + n ≤ pa || pa + n ≤ new)

/-- A cached translation is of the page whose leaf lies at `ptea`: it holds that leaf, or a walk of its addresses ends there now. -/
def State.ofPage (s : State) (ptea : Nat) (e : TlbEntry) : Bool :=
  e.leaf == s.readWord ptea ||
  (match s.launchOf e.space with
  | none => false
  | some l =>
    let p := s.readWord (entryAt 0 l.l0tab e.va)
    let a := entryAt 1 (ptAddr p) e.va
    let q := s.readWord a
    isPointer p && (a == ptea || (isPointer q &&
      (if e.bytes = 0x10000 then entryAt 2 (ptAddr q) e.va == ptea else ptAddr q ≤ ptea && ptea < ptAddr q + 256))))

/-- R309, steps 1 and 2: the checks, then transit; translations of the page are dropped and walk caches
emptied, as TLBI does (step 3, R305). -/
def State.migCheck (s : State) (ptea new : Nat) : State :=
  let e := s.readWord ptea
  let n := s.leafBytes ptea
  if !s.leafOk ptea then s.answerMig 2
  else if e.extractLsb' 3 2 != 0 || e.getLsbD 6 then s.answerMig 1
  else if !s.newpaOk (ptAddr e) new n then s.answerMig 3
  else
    let s := { s with transit := some ptea }
    s.cores.foldl (fun s p => s.modCore p.1 fun x =>
      { x with
        tlb := x.tlb.filter fun e => !s.ofPage ptea e
        l2tlb := x.l2tlb.filter fun e => !s.ofPage ptea e
        ptrs := []
        cmds := x.cmds.map fun m => { m with stream := m.stream.filter fun e => !s.ofPage ptea e } }) s

/-- R309, step 3: an access made under the dropped translations has still to perform. -/
def State.pageBusy (s : State) (pa n : Nat) : Bool :=
  s.cores.any fun p => p.2.ctxs.any fun q => q.2.acc.any fun a => a.bits.any fun b => pa ≤ b / 8 && b / 8 < pa + n

/-- R309, step 4: line by line. A reservation in the page, which is known by its old address, falls with the writes (R82). -/
def State.migCopy (s : State) (pa new n : Nat) : State :=
  ((List.range (n / 64)).foldl (fun t i => t.storeAt none (new + 64 * i) (s.seen (pa + 64 * i) 64) none) s).clearResv none pa n

/-- R309, step 6: destination bytes that the engine could reach are undefined. -/
def State.migSpoil (s : State) (new n : Nat) : State :=
  let (t, s) := s.next
  (List.range (n / 64)).foldl (fun s i =>
    if placeOk (new + 64 * i) true then s.storeAt none (new + 64 * i) (freeBytes t (64 * i) 64) none else s) s

/-- R309, steps 4 to 6. -/
def State.migRun (s : State) (ptea new : Nat) : State :=
  let e := s.readWord ptea
  let n := s.leafBytes ptea
  let pa := ptAddr e
  let bad := ((List.range (n / 64)).map (pa + 64 * ·)).filter s.poisoned
  let s := { s with transit := none }
  -- NBAD and FBAD (R308)
  let tell := fun (t : State) (l : List Nat) =>
    (t.storeAt none (s.migBlock + 24) (leBytes 8 l.length) none).storeAt none (s.migBlock + 32) (leBytes 8 (l.headD 0)) none
  -- the copy faults at a line that no party may read or write (R419)
  if (List.range (n / 64)).any fun i => !placeOk (new + 64 * i) true || !placeOk (pa + 64 * i) false then (tell (s.migSpoil new n) []).answerMig 4
  else
    let t := tell (if bad.isEmpty then s.migCopy pa new n else s.migSpoil new n) bad
    if bad.isEmpty then
      (t.storeAt none ptea (leBytes 8 ((e &&& 0xFFFF) ||| BitVec.ofNat 64 new).toNat) none).answerMig 0
    else t.answerMig 5

/-- MIGRATION_REQUEST (R308, R309): first the checks and transit, then, once the page is quiet, the copy. -/
def execMigrationRequest (s : State) : Out :=
  .next <|
    if !(s.readWord (s.migBlock + 16)).getLsbD 63 then s
    else
      let ptea := (s.readWord s.migBlock).toNat
      let new := (s.readWord (s.migBlock + 8)).toNat
      match s.transit with
      | none => s.migCheck ptea new
      | some a => if s.pageBusy (ptAddr (s.readWord a)) (s.leafBytes a) then s else s.migRun a new

/-! ## Compute rows (R375, R376) -/

/-- Number of a bank (Windows.lean). -/
def State.bankNo (s : State) (b : BankId) : Nat := (s.koyth.modId * 48 + b.stack * 6 + b.chan / 32) * 512 + b.chan % 32 * 16 + b.bank

def BankRows.refresh (b : BankRows) (r : Nat) : BankRows := { b with counts := Tab.set (fun _ => 0) b.counts r 0 }

/-- COMPUTE_ROW_REFRESH (R375): a refresh command refreshes the next compute row. -/
def execComputeRowRefresh (b : BankId) (s : State) : Out :=
  .next <|
    if 8 ≤ b.stack || 192 ≤ b.chan || 16 ≤ b.bank then s
    else
      let x := s.bankRows (s.bankNo b)
      s.setBankRows (s.bankNo b) { x.refresh x.next with next := (x.next + 1) % 8 }

/-- COMPUTE_ROW_FORCED_REFRESH (R376). -/
def execComputeRowForcedRefresh (b : BankId) (r : Nat) (s : State) : Out :=
  .next <|
    let x := s.bankRows (s.bankNo b)
    if Tab.get (fun _ => 0) x.counts r < 2048 then s
    else
      let s := s.setBankRows (s.bankNo b) (x.refresh r)
      { s with koyth := { s.koyth with forced := s.koyth.forced + 1 } }

end Sys2Proof.Machine
end

