-- ==== Sys2Proof/Machine/Hostport.lean ====
section
/-! DEFINITION. The host port: queue pairs, requests and replies, launches, mailboxes, storage connections and RDMA
(spec/30 R402-R408, spec/02 R51-R53, R431, spec/13 R209-R210, R218, spec/07 R122, spec/19 R297). -/

namespace Sys2Proof.Machine

/-! ## Queue pairs (R402) -/

/-- The port serves a queue pair: connected and not in the error state. -/
def State.hears (s : State) (qp : Nat) : Bool := s.io.started && s.io.qps.contains qp && !s.io.qpErr.contains qp

/-- HOST_QUEUE_PAIR_CONNECT (R402): one of 16; a pair in the error state is established anew. -/
def execHostQueuePairConnect (qp : Nat) (s : State) : Out :=
  .next <|
    if !s.io.started then s
    else if s.io.qps.contains qp then { s with io := { s.io with qpErr := s.io.qpErr.filter (· != qp) } }
    else if 16 ≤ s.io.qps.length then s
    else { s with io := { s.io with qps := s.io.qps ++ [qp] } }

/-! ## RDMA (R403) -/

/-- Bytes that the host may reach. -/
def State.hostOk (s : State) (pa n : Nat) (write : Bool) : Bool :=
  (List.range n).all fun i =>
    modOf (pa + i) == s.koyth.modId && (match targetOf (pa + i) with | .hbm _ => true | _ => false) && placeOk (pa + i) write

def State.rdmaAnswer (s : State) (qp : Nat) (v : HostAnswer) : State := { s with io := { s.io with reads := s.io.reads ++ [(qp, v)] } }

/-- What the grotto heads kept in queue rings that have ceased to be such is undefined until it is written (R4, R211). -/
def State.scatterRings (s : State) (l : List (Nat × Nat)) : State :=
  l.foldl (fun s r => let (t, s) := s.next; s.putBytes r.1 (freeBytes t 0 r.2)) s

/-- HOST_RDMA_WRITE: a refused one receives an error and stores nothing. The runtime writes the queues' descriptors so (R211): the rings are
where the descriptors now say. -/
def execHostRdmaWrite (qp pa : Nat) (data : List Byte) (s : State) : Out :=
  .next <|
    if !s.hears qp then s
    else if s.hostOk pa data.length true then
      let put := fun (s : State) => s.storeD (some ioParty) pa 0 data none
      let now := (put s).queueRings
      { put (s.scatterRings (s.rings.filter fun r => !now.contains r)) with rings := now }
    else s.rdmaAnswer qp .accessError

/-- HOST_RDMA_READ: a poisoned line answers with a NAK and puts the pair into the error state. -/
def execHostRdmaRead (qp pa n : Nat) (s : State) : Out :=
  .next <|
    if !s.hears qp then s
    else if !s.hostOk pa n false then s.rdmaAnswer qp .accessError
    else if 0 < n && s.anyPoison pa n then
      let t := s.rdmaAnswer qp .operationalError
      { t with io := { t.io with qpErr := qp :: t.io.qpErr } }
    else s.rdmaAnswer qp (.data (s.seen pa n))

/-! ## Requests (R404, R406) -/

/-- A reply to a request. -/
def State.answer (s : State) (q : HostReq) (st detail launch val : Nat) : State :=
  s.sendReply q.qp (reply (fld q.msg 0 2) st (fld q.msg 4 4) detail launch val)
/-- R406: a reply to a launch carries PIPES at offset 16, a refusal too. -/
def launchPipes (q : HostReq) : Nat := if fld q.msg 0 2 = 1 then fld q.msg 48 8 else 0
/-- A reply that names no launch and has no DETAIL. -/
def State.status (s : State) (q : HostReq) (st : Nat) : State := s.answer q st 0 0xFFFFFFFF (launchPipes q)

def closingOn (qp : Nat) (c : Option Conn) : Bool := match c with | some k => (match k.closing with | some p => p.1 == qp | none => false) | none => false
def freshOn (qp : Nat) : PendingGang → Bool
  | .fresh _ _ _ q _ _ => q == qp
  | .saved _ _ => false
/-- An earlier request of the queue pair has yet to be answered: a gang or a push that waits, an image that is verified, or a close (R404,
R406, R408, R426). -/
def State.qpWaits (s : State) (qp : Nat) : Bool := s.pending.any (freshOn qp) || s.launching.any (fun p => p.1.qp == qp) || s.koyth.loading.any (·.qp == qp) || s.io.conns.any fun p => closingOn qp p.2

/-- A request of TYPE 1 to 6: before STATE 1 it is answered 0x0E (R418), malformed it is answered 0x01; else its body. -/
def State.request16 (s : State) (q : HostReq) (type : Nat) (ok : Bool) (body : State) : Out :=
  .next <|
    if !s.hears q.qp || fld q.msg 0 2 != type || s.qpWaits q.qp then s
    else if s.koyth.state != 1 then s.status q 0x0E
    else if !ok then s.status q 1
    else body

/-! ## Mailboxes -/

/-- MAILBOX_WRITE (R404). -/
def execMailboxWrite (q : HostReq) (s : State) : Out :=
  s.request16 q 2 (zeros q.msg 2 2 && fld q.msg 12 4 < 16 && zeros q.msg 24 232) <|
    match s.launchOf (fld q.msg 8 4) with
    | none => s.status q 9
    | some l => (s.setMailbox l.space (fld q.msg 12 4) (wordAt q.msg 16)).status q 0

/-- MAILBOX_READ (R404). -/
def execMailboxRead (q : HostReq) (s : State) : Out :=
  s.request16 q 3 (zeros q.msg 2 2 && fld q.msg 12 4 < 16 && zeros q.msg 16 240) <|
    match s.launchOf (fld q.msg 8 4) with
    | none => s.status q 9
    | some l => s.answer q 0 0 0xFFFFFFFF (s.mailbox l.space (fld q.msg 12 4)).toNat

/-! ## Retiring (R406) -/

/-- Something of a launch remains. -/
def State.launchBusy (s : State) (space : Nat) : Bool :=
  (s.cores.any fun p =>
    (p.2.ctxs.any fun c => match c.2.task with | some t => t.r.space == space | none => false) ||
    p.2.handlers.any (fun h => h.space == space) || p.2.cmds.any fun m => m.space == space) ||
  (s.grottos.any fun p =>
    (p.2.queues.any fun q => q.2.any fun r => r.space == space) || p.2.waits.any (fun w => w.r.space == space) ||
    p.2.blocks.any fun b => b.op.r.space == space) ||
  (s.pending.any fun p => match p with
    | .fresh sp _ _ _ _ _ => sp == space
    | .saved _ g => g.space == space) || s.launching.any fun p => p.2.2 == space

/-- Every cached translation of a space goes. -/
def State.dropSpace (s : State) (space : Nat) : State :=
  s.cores.foldl (fun s p => s.modCore p.1 fun x =>
    { x with tlb := x.tlb.filter (·.space != space), l2tlb := x.l2tlb.filter (·.space != space), ptrs := x.ptrs.filter (·.space != space) }) s

/-- RETIRE_LAUNCH. -/
def execRetireLaunch (q : HostReq) (s : State) : Out :=
  s.request16 q 4 (zeros q.msg 2 2 && zeros q.msg 12 244) <|
    match s.launchOf (fld q.msg 8 4) with
    | none => s.status q 9
    | some l =>
      if s.launchBusy l.space then s.status q 0x0A
      else (({ s with launches := s.launches.filter (·.space != l.space) } : State).dropSpace l.space).status q 0

/-! ## Storage connections (R407, R408) -/

/-- The fields of an open request lie within their limits. -/
def openOk (m : List Byte) : Bool :=
  zeros m 2 2 && fld m 8 2 < 256 && (fld m 10 1 == 9 || fld m 10 1 == 12) && (fld m 11 1 == 6 || (fld m 11 1 == 4 && zeros m 16 12)) &&
    1 ≤ fld m 12 2 && fld m 12 2 ≤ 1024 && (m.drop 32).any (· == 0)

/-- OPEN_STORAGE_CONNECTION (R407): whether the target accepts is the target's. -/
def execOpenStorageConnection (q : HostReq) (s : State) : Out :=
  s.request16 q 5 (openOk q.msg) <|
    let n := fld q.msg 8 2
    if (s.conn n).isSome then s.status q 0x0A
    else match Config.openStatus q.msg with
    | some st => s.answer q 0x0B st.toNat 0xFFFFFFFF 0
    | none => (s.setConn n (some ⟨fld q.msg 10 1, fld q.msg 12 2, none⟩)).status q 0

/-- A request of the connection is in flight. -/
def State.connBusy (s : State) (n : Nat) : Bool :=
  s.cores.any fun p => p.2.cmds.any fun m => m.reg == 1 && fld m.blk 0 2 == n && (match m.ins with | .strd _ => true | _ => false)

/-- CLOSE_STORAGE_CONNECTION (R408): it replies once the requests in flight have completed; a connection that is not open is
closed already. -/
def execCloseStorageConnection (q : HostReq) (s : State) : Out :=
  let n := fld q.msg 8 2
  let tag := BitVec.ofNat 32 (fld q.msg 4 4)
  let mine := match s.conn n with | some k => k.closing == some (q.qp, tag) | none => false
  if mine then .next (if s.connBusy n then s else (s.setConn n none).status q 0)
  else s.request16 q 6 (zeros q.msg 2 2 && n < 256 && zeros q.msg 10 246) <|
    match s.conn n with
    | none => s.status q 0
    | some k =>
      if k.closing.isSome then s.status q 0x0A
      else if s.connBusy n then s.setConn n (some { k with closing := some (q.qp, tag) })
      else (s.setConn n none).status q 0

/-- Requests of a connection that a core runs end with local code 3. -/
def State.failReads (s : State) (n c : Nat) : State :=
  (s.core c).cmds.foldl (fun s m =>
    match m.ins with
    | .strd _ =>
      if m.reg == 1 && m.fail.isNone && fld m.blk 0 2 == n then
        (s.putResult m 32 (3 * 65536)).modCore c fun x => x.modCmd m.id fun m => { m with fail := some 0x0A }
      else s
    | _ => s) s

/-- NVME_TRANSPORT_ERROR (R408): the connection closes and its unfinished requests end with code 3. -/
def execNvmeTransportError (n : Nat) (s : State) : Out :=
  .next <|
    match s.conn n with
    | none => s
    | some k =>
      let t := (s.cores.foldl (fun (s : State) p => s.failReads n p.1) s).setConn n none
      match k.closing with
      | some (qp, tag) => t.sendReply qp (reply 6 0 tag.toNat 0 0xFFFFFFFF 0)
      | none => t

/-! ## Launches (R405, R406) -/

/-- A piece of an image within one page, through the level-0 table of a launch; `none` where it cannot be reached (R406). -/
def State.imgPiece (s : State) (l0 va n : Nat) : Option (List Byte) :=
  if 2 ^ 52 ≤ va then none
  else match s.walk 0 l0 va with
  | .hit e =>
    let pa := e.pa va
    if !s.inDomain (modOf pa) || !placeOk pa false || s.markedByte pa || !e.attr.r || s.anyPoison pa n || s.retiredByte pa ||
        s.koyth.unreachable.contains (modOf pa) then none
    else some (s.seen pa n)
  | _ => none

/-- Bytes of an image, page by page. -/
def State.imgRead (s : State) (l0 va n : Nat) : Option (List Byte) :=
  (pagesIn va n).foldl (fun g a =>
    match g, s.imgPiece l0 a (min (va + n) ((a / 0x10000 + 1) * 0x10000) - a) with
    | some x, some y => some (x ++ y)
    | _, _ => none) (some [])

/-- R51: counts, table offsets and image size of a header. -/
def imgSize (h : List Byte) : Nat := fld h 24 8
def imgEntries (h : List Byte) : Nat := fld h 32 4
def imgSections (h : List Byte) : Nat := fld h 36 4
def imgPipes (h : List Byte) : Nat := fld h 40 4
def imgGangs (h : List Byte) : Nat := fld h 44 4
/-- Record `i` of the table whose offset stands at `o` of the header. -/
def imgRec (h img : List Byte) (o i : Nat) : List Byte := (img.drop (fld h o 8 + 32 * i)).take 32
def imgStrings (h : List Byte) : Nat := fld h 80 8

/-- R53, on the header alone: magic, version, header size and tables within the image. -/
def hdrOk (h : List Byte) : Bool :=
  h.take 4 == [0x46, 0x4C, 0x5A, 0x49] && fld h 4 2 == 1 && 128 ≤ imgSize h && fld h 6 2 ≤ imgSize h && fld h 48 8 + 32 * imgEntries h ≤ imgSize h &&
    fld h 56 8 + 32 * imgSections h ≤ imgSize h && fld h 64 8 + 32 * imgPipes h ≤ imgSize h && fld h 72 8 + 32 * imgGangs h ≤ imgSize h &&
    imgStrings h ≤ imgSize h

/-- R53, on the records: names, code, views and sections within the image. An offset equal to the image size reaches no byte beyond it
and is accepted (log 72). -/
def recsOk (h img : List Byte) : Bool :=
  let size := imgSize h
  let named := fun o n => (List.range n).all fun i => imgStrings h + fld (imgRec h img o i) 0 4 ≤ size
  named 48 (imgEntries h) && named 56 (imgSections h) && named 64 (imgPipes h) && named 72 (imgGangs h) &&
  ((List.range (imgEntries h)).all fun i =>
    let e := imgRec h img 48 i
    fld e 8 8 ≤ size && (fld e 28 4 == 0xFFFFFFFF || imgStrings h + fld e 28 4 + 8 ≤ size)) &&
  (List.range (imgSections h)).all fun i =>
    let e := imgRec h img 56 i
    fld e 8 8 == 0 || fld e 8 8 + fld e 16 8 ≤ size

/-- R53: the lowest required feature that the module lacks. -/
def lackedBit (h : List Byte) : Option Nat :=
  (List.range 128).find? fun n => (BitVec.ofNat 128 (fld h 8 16)).getLsbD n && !(featLo.setWidth 128).getLsbD n

/-- The initial views of an entry (R52), taken as they stand: the spec states no check of their bits, and a row then starts at the granule
that holds its first byte (log 72). An offset of the string table, or a table, that breaks the format's multiple of 8 is not refused: the 8
bytes there are read as they stand (log 86). -/
def entryViews (h img e : List Byte) : Word × Word :=
  (wordAt e 16, if fld e 28 4 == 0xFFFFFFFF then viewTReset else wordAt img (imgStrings h + fld e 28 4))

/-- The record that a launch gives an entry, with FRAME lower by 65,536 for each earlier member (R405). -/
def launchRec (q e h img : List Byte) (m space lid : Nat) : Rec :=
  { code := wordAt q 8 + wordAt e 8, frame := wordAt q 32 - BitVec.ofNat 64 (65536 * m), joina := wordAt q 40,
    live := BitVec.ofNat 32 (fld e 24 4), pf := BitVec.ofNat 32 (fld q 28 4), space := space, lid := lid, far := false, tid := none,
    got := none, views := some (entryViews h img e), fault := none, recorded := [] }

/-- Entry indices of an item: itself, or the members of a gang; `none` for a bad ITEM (R406, step 5). -/
def itemEntries (q h img : List Byte) : Option (List Nat) :=
  let item := fld q 24 4
  let ok := fun i => i < imgEntries h && fld (imgRec h img 48 i) 4 4 % 4 != 0
  let l := if fld q 2 2 == 1 then
      (if item < imgGangs h then
        let g := imgRec h img 72 item
        some ((List.range (min 8 (fld g 4 4))).map fun i => fld g (8 + i) 1)
      else none)
    else some [item]
  match l with
  | some l => if l.all ok && !l.isEmpty then some l else none
  | none => none

/-- Bytes of the pipe area (R405). -/
def pipeBytes (h img : List Byte) : Nat :=
  64 * imgPipes h + ((List.range (imgPipes h)).map fun i => let p := imgRec h img 64 i; fld p 4 4 * fld p 8 8).sum

/-- Every page of the pipe area is mapped as R405 asks. -/
def State.pipesOk (s : State) (l0 va n : Nat) : Bool :=
  n == 0 || (va + n ≤ 2 ^ 52 && (pagesIn va n).all fun a =>
    match s.walk 0 l0 a with
    | .hit e =>
      let pa := e.pa a
      let t := e.attr
      s.inDomain (modOf pa) && placeOk pa true && !s.markedByte pa && t.r && t.w && !t.a && !t.c && !t.d
    | _ => false)

/-- The descriptors (R163, R405): the rings follow one another. -/
def State.writePipes (s : State) (l0 va : Nat) (h img : List Byte) : State :=
  ((List.range (imgPipes h)).foldl (fun (p : State × Nat) i =>
    let d := imgRec h img 64 i
    let bs := leBytes 8 p.2 ++ leBytes 4 (fld d 4 4) ++ leBytes 4 (fld d 8 8) ++ List.replicate 48 0
    let t := match s.walk 0 l0 (va + 64 * i) with
      | .hit e => p.1.storeAt none (e.pa (va + 64 * i)) bs none
      | _ => p.1
    (t, p.2 + fld d 4 4 * fld d 8 8)) (s, va + 64 * imgPipes h)).1

/-- R405: reserved fields and limits of a launch message. -/
def State.launchOk (s : State) (m : List Byte) : Bool :=
  let l0 := fld m 16 8
  fld m 2 2 ≤ 1 && fld m 8 8 % 64 == 0 && modOf l0 == s.koyth.modId && (match targetOf l0 with | .hbm _ => true | _ => false) &&
    fld m 28 4 &&& 0xFFFF000C == 0 && fld m 40 8 % 64 == 0 && fld m 48 8 % 64 == 0 && zeros m 56 8 && zeros m 192 64

/-- R297: the lowest free space number. -/
def State.freeSpace (s : State) : Option Nat := (List.range 4096).find? fun n => (s.launchOf n).isNone

/-- R210: no grotto could ever hold the gang. -/
def gangTooBig (n : Nat) (pins : List Nat) : Bool :=
  8 < n || pins.any (fun c => 4 < (pins.filter (· == c)).length) || pins.any fun c => grottoOf c != grottoOf (pins.headD 0)

/-- R212, R406: the push of a launch's record and the reply; without room the push waits in the processor, which keeps its space. -/
def State.pushLaunch (s : State) (q : HostReq) (r : Rec) (space : Nat) : State :=
  match s.pushRec 0 r 64 with
  | some u => u.answer q 0 0 space (fld q.msg 48 8)
  | none => { s with launching := s.launching ++ [(q, r, space)] }

/-- R406, step 7: descriptors, mailboxes, then the push or the wait for admission. -/
def State.makeLaunch (s : State) (q : HostReq) (space : Nat) (h img : List Byte) (items : List Nat) : State :=
  let m := q.msg
  let l0 := fld m 16 8
  let lid := s.nextLid
  let l : Launch :=
    { space := space, lid := lid, l0tab := l0, image := wordAt m 8, measure := Config.sha384 img,
      mb := Tab.setAll (fun _ => 0) [] ((List.range 16).map fun i => (i, wordAt m (64 + 8 * i))), np := imgPipes h, pipes := wordAt m 48, held := [] }
  let t := ({ s with launches := s.launches ++ [l], nextLid := lid + 1 } : State).writePipes l0 (fld m 48 8) h img
  let recs := items.mapIdx fun i e => launchRec m (imgRec h img 48 e) h img i space lid
  if fld m 2 2 == 1 then
    { t with pending := t.pending ++
      [.fresh space lid (recs.map fun r => let v := r.views.getD (0, 0); ⟨r, v.1, v.2⟩) q.qp (BitVec.ofNat 32 (fld m 4 4)) (wordAt m 48)] }
  else match recs with
  | r :: _ => t.pushLaunch q r space
  | [] => t

/-- R406, steps 2 to 7. Of an image with several faults R406 says only that the header is read before R53's checks: here the whole image is
read (0x07) before its records are judged (0x02), and these before the features it asks for (0x03) (log 84). -/
def State.runLaunch (s : State) (q : HostReq) : State :=
  let m := q.msg
  let l0 := fld m 16 8
  let va := fld m 8 8
  match s.freeSpace with
  | none => s.status q 6
  | some space =>
    match s.imgRead l0 va 128 with
    | none => s.status q 7
    | some h =>
      if !hdrOk h then s.status q 2
      else match s.imgRead l0 va (imgSize h) with
      | none => s.status q 7
      | some img =>
        if !recsOk h img then s.status q 2
        else match lackedBit h with
        | some b => s.answer q 3 b 0xFFFFFFFF (launchPipes q)
        | none =>
          match itemEntries m h img with
          | none => s.status q 8
          | some items =>
            if fld m 48 8 == 0 && imgPipes h != 0 then s.status q 1
            else if !s.pipesOk l0 (fld m 48 8) (pipeBytes h img) then s.status q 7
            else
              let gang := fld m 2 2 == 1
              let pf := BitVec.ofNat 32 (fld m 28 4)
              let n := if gang then fld (imgRec h img 72 (fld m 24 4)) 4 4 else 1
              let pins := if pf.getLsbD 4 then List.replicate n ((pf.extractLsb' 5 11).toNat) else []
              if gang && gangTooBig n pins then s.status q 4
              else if gang && 16 ≤ (s.pending.filter fun p => match p with | .fresh _ _ _ _ _ _ => true | _ => false).length then s.status q 5
              -- the runtime writes the queues' descriptors while no launch is resident (R211)
              else ({ s with rings := s.queueRings } : State).makeLaunch q space h img items

/-- LAUNCH (R406). While a page is in transit the processor waits (R309). A request of no known TYPE is malformed. A launch whose push
waits tries again. -/
def execLaunch (q : HostReq) (s : State) : Out :=
  match s.launching.find? fun p => p.1 == q with
  | some (_, r, space) =>
    match s.pushRec 0 r 64 with
    | some u => .next ({ u with launching := u.launching.filter fun p => p.1 != q }.answer q 0 0 space (fld q.msg 48 8))
    | none => .next s
  | none =>
  if [2, 3, 4, 5, 6, 0x11, 0x12, 0x13].contains (fld q.msg 0 2) || s.transit.isSome then .next s
  else s.request16 q (fld q.msg 0 2) (fld q.msg 0 2 == 1 && s.launchOk q.msg) (s.runLaunch q)

/-- A launch that the processor cannot take up yet: it stays where it is (R309). -/
def State.launchStuck (s : State) (q : HostReq) : Bool :=
  s.hears q.qp && fld q.msg 0 2 == 1 && s.koyth.state == 1 && s.launchOk q.msg && s.transit.isSome

end Sys2Proof.Machine
end

