-- ==== Sys2Proof/Machine/Bringup.lean ====
section
/-! DEFINITION. The Koyth controller: start order, firmware, identity and attestation, power windows, thermal limits and the health
block (spec/32 R418-R428). -/

namespace Sys2Proof.Machine

/-! ## Firmware images (R425) -/

/-- The image in flash: the factory image until a recovery has written another. -/
def State.flashImage (s : State) : List Byte :=
  if s.koyth.flash.isEmpty then (List.range Config.flashLen).map Config.flashByte else s.koyth.flash
def fwBody (bs : List Byte) : Nat := fld bs 8 8
def fwSvn (bs : List Byte) : Nat := fld bs 4 4
/-- The layout of an image, and its signature. -/
def fwGood (bs : List Byte) : Bool :=
  bs.take 4 == [0x51, 0x4B, 0x46, 0x57] && zeros bs 16 48 && 64 + fwBody bs + 96 ≤ bs.length && Config.imageSigned (bs.take (64 + fwBody bs + 96))

/-- Exactly `n` bytes. -/
def fit (n : Nat) (l : List Byte) : List Byte := (l ++ List.replicate n 0).take n
def hash48 (bs : List Byte) : List Byte := fit 48 (Config.sha384 bs)

/-! ## Start order (R418) -/

/-- Every unit that step 2 tests, in ascending order of its code. -/
def allUnits : List UnitCode :=
  (List.range 2048).map .accStore ++ (List.range 2048).map .windows ++
  ((List.range 2048).flatMap fun c => (List.range 64).map fun m => .scratchMacro c m) ++ (List.range 2048).map .icache ++
  ((List.range 2048).flatMap fun c => (List.range 4).map fun t => .tile c t) ++ (List.range 9).map .ring ++ (List.range 36).map .link

/-- A unit that fails its self-test is retired (R424). -/
def State.failTest (s : State) (u : UnitCode) : State :=
  let s := s.retireUnit u
  match u with
  | .ring b => { s with koyth := { s.koyth with ringDown := b :: s.koyth.ringDown } }
  | .link l => { s with koyth := { s.koyth with linkDown := l :: s.koyth.linkDown } }
  | _ => s

/-- R310: the conductances of the tiles stand as the last XPGM or deposit left them, the reference columns with them. -/
def State.keepTiles (s t : State) : State :=
  s.cores.foldl (fun t p => [0, 1, 2, 3].foldl (fun t k =>
    let u := (s.core p.1).tile k
    t.modTile p.1 k fun v => { v with drip := u.drip, stone := u.stone, refs := u.refs }) t) t

/-- What a power-up keeps: conductances, flash and fuses, what the outside world has placed, and the index of free values; memory too where recovery
restarts the module. At any other time a power-up starts a module anew that has lost everything else. -/
def State.powered (s : State) : State :=
  s.keepTiles { State.reset with
    tick := s.tick
    inputs := s.inputs
    mem := if s.koyth.stage = 0 && s.koyth.state != 3 then s.mem else []
    poison := if s.koyth.stage = 0 && s.koyth.state != 3 then s.poison else []
    koyth := { Koyth.init with flash := s.koyth.flash, floor := max s.koyth.floor Config.fusedFloor, stage := 1 } }

/-- POWER_UP (R418, steps 1 and 2): verification, and the self-tests; a refused image leaves the module in recovery. -/
def execPowerUp (s : State) : Out :=
  .next <|
    let t := s.powered
    let bs := s.flashImage
    if !fwGood bs || fwSvn bs < t.koyth.floor then { t with koyth := { t.koyth with state := 2, recovery := true } }
    else
      let t := { t with koyth := { t.koyth with svn := fwSvn bs, fwHash := hash48 (bs.take (64 + fwBody bs)) } }
      (allUnits.filter fun u => !Config.selfTest (unitCode u)).foldl State.failTest t

/-- IO_DIE_START (R418, step 3). -/
def execIoDieStart (s : State) : Out :=
  .next (if s.koyth.stage = 1 then { s with io := { s.io with started := true }, koyth := { s.koyth with stage := 2 } } else s)

/-- Every grotto below number `g` has started. -/
def State.startedBelow (s : State) (g : Nat) : Bool := (List.range g).all fun i => (s.grotto i).started

/-- COMPUTE_DIE_START (R418, step 4): after every grotto of the dies before it. -/
def execComputeDieStart (d : Nat) (s : State) : Out :=
  .next <|
    if s.koyth.stage = 2 && !s.koyth.recovery && d < 8 && !(s.die d).started && s.startedBelow (8 * d) then
      s.setDie d { s.die d with started := true }
    else s

/-- A core starts (R36, R123, R148): the generator has stepped for its first cycle. -/
def Core.start (x : Core) : Core := { x with started := true, rng := rngStep x.rng }

/-- GROTTO_START (R418, step 4): after the grottos before it, with its 32 cores. -/
def execGrottoStart (g : Nat) (s : State) : Out :=
  .next <|
    if s.koyth.stage = 2 && !s.koyth.recovery && g < 64 && (s.die (g / 8)).started && !(s.grotto g).started && s.startedBelow g then
      let s := s.setGrotto g { s.grotto g with started := true }
      let s := { s with rings := s.queueRings }
      let s := (coresOf g).foldl (fun s c => s.modCore c Core.start) s
      if g = 63 then { s with koyth := { s.koyth with stage := 3 } } else s
    else s

/-- The bytes of the module stand at their places under its number, once it has one. -/
def State.renumber (s : State) (m : Nat) : State :=
  let s : State := { s with
    mem := s.mem.foldl (fun t p => Tab.set memDefault t (m * 2 ^ 54 + p.1 % 2 ^ 54) p.2) []
    poison := s.poison.map fun l => m * 2 ^ 48 + l % 2 ^ 48
    koyth := { s.koyth with modId := m } }
  { s with rings := s.queueRings }

/-- LINK_TRAINING (R418, step 5). -/
def execLinkTraining (m : Nat) (domain : List Nat) (s : State) : Out :=
  .next <|
    if s.koyth.stage = 3 && m < 1024 && domain.all (· < 1024) then
      let s := s.renumber m
      { s with koyth := { s.koyth with domain := domain, stage := 4 } }
    else s

/-- R419: the bring-up record. -/
def State.record (s : State) : List Byte :=
  [0x51, 0x58, 0x42, 0x52] ++ leBytes 4 s.koyth.state ++ leBytes 4 s.koyth.svn ++ leBytes 4 s.koyth.floor ++ leBytes 8 0x10000 ++
  leBytes 8 0x20000 ++ List.replicate 32 0

/-- R418, R419: the public region as firmware writes it, but for the bring-up record: zero. -/
def State.clearPublic (s : State) : State :=
  { s with
    mem := s.mem.filter fun p => !(s.pub 0 ≤ p.1 && p.1 < s.pub 0x100000)
    poison := s.poison.filter fun l => !(s.pub 0 / 64 ≤ l && l < s.pub 0x100000 / 64) }

/-- MODULE_READY (R418, step 6): the public region is written, STATE 1, the floor raised to the SVN that runs (R425), and the record written; in recovery STATE
stays 2. -/
def execModuleReady (s : State) : Out :=
  .next <|
    if s.koyth.recovery && s.koyth.stage = 2 then
      let s := { s.clearPublic with koyth := { s.koyth with stage := 5 } }
      s.storeAt none (s.pub 0) s.record none
    else if s.koyth.stage = 4 then
      let s := { s.clearPublic with koyth := { s.koyth with stage := 5, state := 1, floor := max s.koyth.floor s.koyth.svn } }
      s.storeAt none (s.pub 0) s.record none
    else s

/-! ## Power and heat (R420, R422, R423) -/

/-- R420: a cap after a window. -/
def capAfter (draw cap top : Nat) (held : Bool) : Nat :=
  if 4400 < draw then max 1 (cap - 1) else if draw < 4000 && !held then min top (cap + 1) else cap

def State.healthBlock (s : State) : Nat := s.pub (0x20000 + 12288)

/-- R422: throttle and stop values of a sensor. -/
def throttleAt (sensor : Nat) : Nat := if sensor < 9 then 95 else 85
def stopAt (sensor : Nat) : Nat := if sensor < 9 then 105 else 95

/-- R422, R423: the sensors' readings are free, below their stop values; at or above a throttle value while throttled, and at no other
time. -/
def State.temps (s : State) (t : Nat) : List Byte :=
  let v := (List.range 17).map fun i => (Config.byte t i).toNat % (if s.koyth.throttled then stopAt i else throttleAt i)
  let warm := v.zipIdx.any fun p => throttleAt p.2 ≤ p.1
  (if s.koyth.throttled && !warm then v.set s.koyth.hot (throttleAt s.koyth.hot) else v).map (BitVec.ofNat 8)

/-- R423: the health block. -/
def State.health (s : State) (t : Nat) : List Byte :=
  let k := s.koyth
  leBytes 8 (k.draw % 2 ^ 16 + k.capM * 2 ^ 16 + k.capX * 2 ^ 20 + (if k.throttled then 2 ^ 23 else 0)) ++
  s.temps t ++ List.replicate 7 0 ++ leBytes 8 k.corrected ++ leBytes 8 k.forced ++ leBytes 8 k.retired.length ++ leBytes 8 k.dropped ++
  List.replicate 448 0 ++ fit 3584 ((k.retired.take 448).flatMap (leBytes 8))

/-- POWER_WINDOW_END (R420, R423): caps by the mean draw, then the health block. -/
def execPowerWindowEnd (draw : Nat) (s : State) : Out :=
  .next <|
    if s.koyth.stage != 5 || s.koyth.recovery then s
    else
      let (t, s) := s.next
      let k := s.koyth
      let s := { s with koyth := { k with
        draw := draw, capM := capAfter draw k.capM 8 k.throttled, capX := capAfter draw k.capX 4 k.throttled } }
      s.storeAt none s.healthBlock (s.health t) none

/-- THERMAL_THROTTLE (R422). -/
def execThermalThrottle (sensor temp : Nat) (s : State) : Out :=
  .next <|
    if s.koyth.stage = 0 || 17 ≤ sensor || temp < throttleAt sensor then s
    else { s with koyth := { s.koyth with throttled := true, hot := sensor, capM := 1, capX := 1 } }

/-- THROTTLE_END (R422): every sensor stands below its throttle value. -/
def execThrottleEnd (temps : List Nat) (s : State) : Out :=
  .next <|
    if temps.length = 17 && temps.zipIdx.all (fun p => p.1 < throttleAt p.2) then
      { s with koyth := { s.koyth with throttled := false } }
    else s

/-- THERMAL_STOP (R422): every die halts and all architectural state is lost; what stays is flash and fuses, and the conductances of the
tiles, which the next core start finds as they were (R310). -/
def execThermalStop (sensor temp : Nat) (s : State) : Out :=
  .next <|
    if s.koyth.stage = 0 || 17 ≤ sensor || temp < stopAt sensor then s
    else
      s.keepTiles { State.reset with
        tick := s.tick
        inputs := s.inputs
        koyth := { Koyth.init with flash := s.koyth.flash, floor := s.koyth.floor, state := 3 } }

/-! ## Recovery, attestation, identity (R426-R428) -/

/-- A request of TYPE 0x11 to 0x13, from step 3 onward; `wait` keeps it pending (R418). -/
def State.request11 (s : State) (q : HostReq) (type : Nat) (wait ok : Bool) (body : State) : Out :=
  .next <|
    if !s.hears q.qp || fld q.msg 0 2 != type || s.qpWaits q.qp || wait then s
    else if !ok then s.status q 1
    else body

/-- R426, R425: the image of a request is verified and written; a module in recovery restarts from step 1. -/
def State.verifyImage (s : State) (q : HostReq) : State :=
    let src := fld q.msg 8 8
    let len := fld q.msg 16 8
    let bs := s.seen src len
    if s.anyPoison src (max len 1) || !fwGood bs then s.status q 0x0C
    else if fwSvn bs < s.koyth.floor then s.status q 0x0D
    else
      let t := s.status q 0
      let t := { t with koyth := { t.koyth with flash := bs } }
      if t.koyth.recovery then { t with io := { t.io with started := false }, koyth := { t.koyth with stage := 0, state := 0, recovery := false } } else t

/-- FIRMWARE_RECOVERY (R426): a request is taken up while no other is in progress, and then verified. -/
def execFirmwareRecovery (q : HostReq) (s : State) : Out :=
  let src := fld q.msg 8 8
  let len := fld q.msg 16 8
  if s.koyth.loading = some q then .next (({ s with koyth := { s.koyth with loading := none } } : State).verifyImage q)
  else s.request11 q 0x11 false
    (zeros q.msg 2 2 && zeros q.msg 24 232 && src % 64 == 0 && len ≤ 2 ^ 25 && s.hostOk src len false) <|
    if s.koyth.loading.isSome then s.status q 0x0A else { s with koyth := { s.koyth with loading := some q } }

/-- R428: the bytes that the report's signature covers. -/
def State.reportBody (s : State) (q : HostReq) (measure : List Byte) : List Byte :=
  [0x51, 0x58, 0x41, 0x52] ++ leBytes 4 (fld q.msg 8 4) ++ leBytes 8 s.koyth.modId ++ fit 48 ((q.msg.drop 32).take 48) ++
  hash48 Config.bootRom ++ fit 48 s.koyth.fwHash ++ fit 48 measure ++ leBytes 4 s.koyth.svn ++ leBytes 4 s.koyth.floor ++
  List.replicate 40 0 ++ fit 96 (Config.identityKey s.koyth.fwHash)

/-- ATTESTATION_REPORT (R428). -/
def execAttestationReport (q : HostReq) (s : State) : Out :=
  let l := fld q.msg 8 4
  let dst := fld q.msg 16 8
  s.request11 q 0x12 s.koyth.recovery
    (zeros q.msg 2 2 && zeros q.msg 12 4 && zeros q.msg 24 8 && zeros q.msg 80 176 && s.hostOk dst 512 true) <|
    let m := if l = 0xFFFFFFFF then some (List.replicate 48 0) else (s.launchOf l).map (·.measure)
    match m with
    | none => s.status q 9
    | some m =>
      let b := s.reportBody q m
      (s.storeAt none dst (b ++ fit 96 (Config.sign (s.koyth.fwHash ++ hash48 b)) ++ List.replicate 64 0) none).status q 0

/-- CERTIFICATE_CHAIN (R427): DETAIL gives its length. -/
def execCertificateChain (q : HostReq) (s : State) : Out :=
  let dst := fld q.msg 16 8
  let chain := (Config.certChain s.koyth.fwHash).take 4096
  s.request11 q 0x13 s.koyth.recovery (zeros q.msg 2 2 && zeros q.msg 8 8 && zeros q.msg 24 232 && s.hostOk dst chain.length true) <|
    (s.storeAt none dst chain none).answer q 0 chain.length 0xFFFFFFFF 0

end Sys2Proof.Machine
end

