-- ==== Sys2Proof/Machine/Control.lean ====
section
/-! DEFINITION. Prepared transfers, hardware loops, TRAP, BRK, SYSC, ERET and the trap of an illegal encoding (spec/03 R56-R64,
spec/15 R258-R259, spec/02 R33-R34). DONE stands with the tasks. -/

namespace Sys2Proof.Machine

/-- NOP (R56). -/
def execNop (f : RF) (s : State) : Out := s.issue (.nop f) f.gd [] fun s => .done s

/-- PTB (R57). -/
def execPtb (f : IF) (s : State) : Out :=
  s.issue (.ptb f) f.gd [] fun s => .done (s.modMe fun x => x.setBt f.d.toNat (x.pc + 8 * f.x.signExtend 64))

/-- R57, R257: the checks of a branch target. -/
def checkTarget (t : Word) (ok : Issue) : Issue :=
  if t.extractLsb' 0 3 != 0 then .trap 0x08 t
  else if eaTop t then .trap 0x0E t
  else ok

/-- PTBR (R57). -/
def execPtbr (f : RF) (s : State) : Out :=
  s.issue (.ptbr f) f.gd [f.a.toNat] fun s =>
    checkTarget (s.getS f.a) <| .done (s.modMe fun x => x.setBt f.d.toNat (s.getS f.a))

/-- R59: instructions that may stand in a delay slot, unguarded. -/
def slotAllowed (i : Instr) : Bool :=
  match i with
  | .nop f | .add f | .sub f | .mul f | .mulh f | .mulhw f | .div f | .divw f | .rem f | .remw f | .and f | .or f | .xor f | .andn f
  | .shl f | .shr f | .sar f | .rot f | .clz f | .ctz f | .popc f | .min f | .max f | .minw f | .maxw f | .sext f | .zext f | .mov f
  | .cmp f | .addx f | .bfx f | .bfi f | .fadd f | .fsub f | .fmul f | .ffma f | .fdiv f | .fsqrt f | .fmin f | .fmax f | .fabs f
  | .fneg f | .fcmp f | .fcvt f | .psetClear f | .psetSet f | .psetGroup f | .plen f => f.gd.g == 31
  | .ptb f | .addi f | .andi f | .ori f | .li f | .lih f | .cmpi f => f.gd.g == 31
  | _ => false

/-- R59: a slot word is an allowed instruction. -/
def slotOk (w : Word) : Bool :=
  match decode w none with
  | .instr i _ => slotAllowed i
  | _ => false

/-- R59: both slot words are fetched and checked before anything else of BT or BTL. -/
def State.slotWords (s : State) : (Word × Word) ⊕ Issue :=
  let a1 := s.me.pc + 8
  let a2 := s.me.pc + 16
  match s.fetch s.curCore s.curCtx a1 with
  | .wait => .inr (.wait (s.modMe (·.ask a1)))
  | .miss => .inr (.park 0 a1)
  | .trap c => .inr (.trap c a1)
  | .word w1 =>
    match s.fetch s.curCore s.curCtx a2 with
    | .wait => .inr (.wait (s.modMe (·.ask a2)))
    | .miss => .inr (.park 0 a2)
    | .trap c => .inr (.trap c a2)
    | .word w2 => if !slotOk w1 then .inr (.trap 0x01 w1) else if !slotOk w2 then .inr (.trap 0x01 w2) else .inl (w1, w2)

/-- R58: the transfer after exactly two slots, with the target latched now; BTL writes lk when taken. -/
def Ctx.transfer (x : Ctx) (b : Nat) (taken link : Bool) (w : Word × Word) : Ctx :=
  let x' := if taken && link then (x.supersede 63).wr 63 (x.pc + 24) else x
  { x' with pc := x.pc + 8, delay := some { left := 2, taken := taken, target := x.bt b, w1 := w.1, w2 := w.2 } }

/-- R131: a load outstanding for which the slots of a transfer would count as the 256th instruction or later: the slots still issue after
its error (R59), so the transfer waits. -/
def Ctx.slotsLate (x : Ctx) : Bool := x.loads.any fun a => 252 < a.later

/-- BT and BTL (R58-R60): the guard only decides whether the transfer is taken; the slots are checked first. -/
def State.branch (s : State) (i : Instr) (f : RF) (link : Bool) : Out :=
  match s.slotWords with
  | .inr r => .next (s.finish 1 r)
  | .inl w =>
    s.issueGuard i 1 0 f.gd fun s g =>
      if s.me.slotsLate then .wait s else .jump (s.modMe fun x => x.transfer f.a.toNat g link w)

/-- BT (R58). -/
def execBt (f : RF) (s : State) : Out := s.branch (.bt f) f false

/-- BTL (R58). -/
def execBtl (f : RF) (s : State) : Out := s.branch (.btl f) f true

/-- A word of code of the context's program, by the page tables themselves: no query, no fetch. -/
def State.codeWord (s : State) (a : Word) : Option Word :=
  match s.walkSpace s.me.space (eaVa a) with
  | .hit e =>
    let pa := readAt (e.pa (eaVa a)) (if e.attr.d then (e.leaf.extractLsb' 8 8).toNat else 0) (dieOf s.curCore)
    if !eaTop a && eaAlias a == 0 && e.attr.x && placeOk pa false && !s.poisoned pa then some (s.codeAt s.curCore s.curCtx pa) else none
  | _ => none

/-- The instruction that covers `e` among those that follow one another from `p` on: its address and its words; none where a word on the
way cannot be read. -/
def State.coveringFrom (s : State) (e : Word) : Word → Nat → Option (Word × Nat)
  | _, 0 => some (e, 1)
  | p, n + 1 =>
    match s.codeWord p with
    | some w =>
      let len := if 0xC0 ≤ (w.extractLsb' 56 8).toNat then 2 else 1
      if covers p len e then some (p, len) else s.coveringFrom e (p + BitVec.ofNat 64 (8 * len)) n
    | none => none

/-- R62: the words of the instruction covering ENDW[L], found from the first word of the body on; where a word on the way cannot be read,
which of the three it can be is free (log 8). It is asked for only where a lower level ends beside ENDW[L]. -/
def State.exitAt (s : State) (x : Ctx) (l : Nat) : State × (Word → Bool) :=
  let e := (x.loop l).endw
  let p := (x.loop l).start
  if (List.range l).any fun m => (x.loop m).act && ((x.loop m).endw == e + 8 || (x.loop m).endw == e - 8) then
    match s.coveringFrom e p ((e - p).toNat / 8 % 65536 + 1) with
    | some q => (s, covers q.1 q.2)
    | none =>
      let (t, s) := s.next
      let q := [(e, 1), (e, 2), (e - 8, 2)].getD (Config.pick t % 3) (e, 1)
      (s, covers q.1 q.2)
  else (s, fun a => a == e)
def State.exitCovers (s : State) (x : Ctx) (l : Nat) : Word → Bool := (s.exitAt x l).2

/-- R62: EXIT(L): past the last body word, then the end test of the levels below. -/
def Ctx.exitLoop (x : Ctx) (cov : Word → Bool) (l : Nat) : Ctx × Bool := ({ x with pc := (x.loop l).endw + 8 } : Ctx).endTest cov l

/-- Levels from `l` up, or above, made inactive. -/
def Ctx.closeLoops (x : Ctx) (p : Nat → Bool) : Ctx :=
  [0, 1, 2, 3].foldl (fun x m => if p m then x.setLoop m { x.loop m with act := false } else x) x

/-- R62: the loop state that LOOP and LOOPR leave with trip count `n`. -/
def Ctx.armLoop (x : Ctx) (l : Nat) (fin : Nat) (n : Word) : Ctx :=
  (x.closeLoops fun m => l < m).setLoop l
    { act := n != 0, start := x.pc + 8, endw := x.pc + BitVec.ofNat 64 (8 * fin), trip := n, lc := 0 }

/-- R62: LOOP and LOOPR with trip count `n`: past the body, or into it as every instruction steps on, with the end test of the levels
that end at its own word. -/
def State.startLoop (s : State) (l : Nat) (fin : Nat) (n : Word) : Ctx × Bool :=
  let x := s.me.armLoop l fin n
  if n = 0 then x.exitLoop (s.exitCovers x l) l else ({ x with pc := x.pc + 8 } : Ctx).endTest (covers x.pc 1) 4

/-- A jump that loops back is a backward transfer of the spin detector (R203). -/
def State.loopJump (s : State) (r : Ctx × Bool) : Issue :=
  .jump (s.modMy fun y => let y := y.setCtx s.curCtx r.1; if r.2 then y.spinBack s.curCtx else y)

/-- LOOP and LOOPR with trip count `n`. -/
def State.loopStart (s : State) (f : LF) (n : Word) : Issue :=
  let t := if n = 0 then (s.exitAt (s.me.armLoop f.lvl.toNat f.fin.toNat n) f.lvl.toNat).1 else s
  t.loopJump (s.startLoop f.lvl.toNat f.fin.toNat n)

/-- LOOP (R62): a false guard makes the trip count 0. -/
def execLoop (f : LF) (s : State) : Out :=
  s.issueGuard (.loop f) 1 0 f.gd fun s g =>
    s.loopStart f (if g then f.cnt.setWidth 64 else 0)

/-- LOOPR (R62). -/
def execLoopr (f : LF) (s : State) : Out :=
  s.issueGuard (.loopr f) 1 0 f.gd fun s g =>
    s.interlock (if g then [f.a.toNat] else []) <|
      s.loopStart f (if g then s.getS f.a else 0)

/-- LBRK (R63). -/
def execLbrk (f : LF) (s : State) : Out :=
  s.issue (.lbrk f) f.gd [] fun s =>
    if (s.me.loop f.lvl.toNat).act then
      let x := s.me.closeLoops fun m => f.lvl.toNat ≤ m
      (s.exitAt x f.lvl.toNat).1.loopJump (x.exitLoop (s.exitCovers x f.lvl.toNat) f.lvl.toNat)
    else .done s

/-- TRAP (R64). -/
def execTrap (f : IF) (s : State) : Out := s.issue (.trap f) f.gd [] fun _ => .trap 0x12 (f.x.setWidth 64)

/-- BRK (R64). -/
def execBrk (f : IF) (s : State) : Out := s.issue (.brk f) f.gd [] fun _ => .trap 0x10 (f.x.setWidth 64)

/-- SYSC (R259). -/
def execSysc (f : IF) (s : State) : Out := s.issue (.sysc f) f.gd [] fun _ => .trap 0x11 (f.x.setWidth 64)

/-- ERET (R258): to trap.pc at the level PREV; both its levels belong to check 2 of R30. -/
def execEret (f : RF) (s : State) : Out :=
  s.issueAt (.eret f) 1 (max 1 (s.me.trapCause.extractLsb' 8 2).toNat) f.gd [] fun s =>
    if s.me.trapPc.extractLsb' 0 3 != 0 then .trap 0x08 s.me.trapPc
    else .jump (s.modMe Ctx.trapReturn)

/-- A word that is no instruction (R33, R34). -/
def execIllegalEncoding (w : Word) (s : State) : Out := .next (s.finish 1 (.trap 0x01 w))

end Sys2Proof.Machine
end

