-- ==== Sys2Proof/Machine/Predicates.lean ====
section
/-! DEFINITION. Predicates and votes (spec/03 R54-R55, R72-R73). -/

namespace Sys2Proof.Machine

/-- A predicate result of predicate sources: interlocked, read at check 6, with latency 1. -/
def State.predOp (s : State) (i : Instr) (f : RF) (srcs : List Nat) (v : Ctx → Lanes) (m : Ctx → Bool) : Out :=
  s.issue i f.gd (srcs.map (64 + ·)) fun s =>
    s.checkPreds srcs [] <| .done (s.putP f.d.toNat (v s.me) (m s.me) 1)

/-- R54: marks of two sources. -/
def orMarks (f : RF) (x : Ctx) : Bool := x.mark f.a.toNat || x.mark f.b.toNat

/-- PSET FN 0 (R72): every lane 0. -/
def execPsetClear (f : RF) (s : State) : Out := s.predOp (.psetClear f) f [] (fun _ => 0) (fun _ => false)

/-- PSET FN 1 (R72): every lane 1. -/
def execPsetSet (f : RF) (s : State) : Out := s.predOp (.psetSet f) f [] (fun _ => allLanes) (fun _ => false)

/-- R72: lanes 64g to 64g + 63 replaced, the others kept. -/
def putGroup (old : Lanes) (g : Nat) (v : Word) : Lanes :=
  let m : Lanes := (BitVec.allOnes 64).setWidth 192 <<< (64 * g)
  (old &&& ~~~m) ||| (v.setWidth 192 <<< (64 * g))

/-- The lanes of group g. -/
def groupLanes (g : Nat) : Lanes := putGroup 0 g (BitVec.allOnes 64)

/-- R72, R127: 64 lanes are written, to land in the next cycle; of a result in flight that lands no later the other lanes stay. -/
def State.putGroupP (s : State) (n g : Nat) (v : Word) : State :=
  (s.modMe fun x => x.wrP n (putGroup (x.rdP n) g v) false).modMy fun y => y.cover s.curCtx n 1 (groupLanes g)

/-- PSET FN 2 to 4 (R72): 64 lanes of the predicate from a scalar register. -/
def execPsetGroup (f : RF) (s : State) : Out :=
  s.issue (.psetGroup f) f.gd [f.a.toNat, 64 + f.d.toNat] fun s => .done (s.putGroupP f.d.toNat (f.fn.toNat - 2) (s.getS f.a))

/-- PAND (R72). -/
def execPand (f : RF) (s : State) : Out :=
  s.predOp (.pand f) f [f.a.toNat, f.b.toNat] (fun x => x.rdP f.a.toNat &&& x.rdP f.b.toNat) (orMarks f)

/-- POR (R72). -/
def execPor (f : RF) (s : State) : Out :=
  s.predOp (.por f) f [f.a.toNat, f.b.toNat] (fun x => x.rdP f.a.toNat ||| x.rdP f.b.toNat) (orMarks f)

/-- PXOR (R72). -/
def execPxor (f : RF) (s : State) : Out :=
  s.predOp (.pxor f) f [f.a.toNat, f.b.toNat] (fun x => x.rdP f.a.toNat ^^^ x.rdP f.b.toNat) (orMarks f)

/-- PANDN (R72). -/
def execPandn (f : RF) (s : State) : Out :=
  s.predOp (.pandn f) f [f.a.toNat, f.b.toNat] (fun x => x.rdP f.a.toNat &&& ~~~(x.rdP f.b.toNat)) (orMarks f)

/-- PNOT (R72); the mark is copied (R54). -/
def execPnot (f : RF) (s : State) : Out :=
  s.predOp (.pnot f) f [f.a.toNat] (fun x => ~~~(x.rdP f.a.toNat)) fun x => x.mark f.a.toNat

/-- The lowest set lane alone. -/
def firstLane (p : Lanes) : Lanes := p &&& (0 - p)

/-- PFIRST (R72); the mark is copied (R54). -/
def execPfirst (f : RF) (s : State) : Out :=
  s.predOp (.pfirst f) f [f.a.toNat] (fun x => firstLane (x.rdP f.a.toNat)) fun x => x.mark f.a.toNat

/-- Number of set lanes. -/
def countLanes (p : Lanes) : Nat := ((List.range 192).filter fun l => p.getLsbD l).length

/-- PCNT (R72): the source must be unmarked (R55). -/
def execPcnt (f : RF) (s : State) : Out :=
  s.issue (.pcnt f) f.gd [64 + f.a.toNat] fun s =>
    s.checkPreds [f.a.toNat] [f.a.toNat] <|
      .done (s.putS f.d.toNat (BitVec.ofNat 64 (countLanes (s.me.rdP f.a.toNat))) 1)

/-- Lanes below a length. -/
def lanesBelow (n : Nat) : Lanes := if 192 ≤ n then allLanes else BitVec.ofNat 192 (2 ^ n - 1)

/-- PLEN (R72). -/
def execPlen (f : RF) (s : State) : Out :=
  s.issue (.plen f) f.gd [f.a.toNat] fun s => .done (s.putP f.d.toNat (lanesBelow (s.getS f.a).toNat) false 1)

/-- R73: a vote reads its source and its mask unmarked and writes every lane 4 cycles later, mark cleared. -/
def State.vote (s : State) (i : Instr) (f : RF) (v : Lanes → Lanes → Bool) : Out :=
  s.issueV i f.gd [64 + f.a.toNat] fun s m =>
    s.checkRows [] (f.a.toNat :: maskPred f.gd) (f.a.toNat :: maskPred f.gd) <|
      .done (s.land 4 [.pred s.curCtx f.d.toNat (lanesOf (v m (s.me.rdP f.a.toNat))) allLanes false])

/-- VANY (R72). -/
def execVany (f : RF) (s : State) : Out := s.vote (.vany f) f fun m p => m &&& p != 0

/-- VALL (R72). -/
def execVall (f : RF) (s : State) : Out := s.vote (.vall f) f fun m p => m &&& ~~~p == 0

end Sys2Proof.Machine
end

