-- ==== Sys2Proof/Machine/ScalarFp.lean ====
section
/-! DEFINITION. The scalar floating-point instructions (spec/03 R69-R71). Sources are bits [31:0] of scalar registers; results are
zero-extended; rsr adds the generator word of the issue cycle unrotated. -/

namespace Sys2Proof.Machine

/-- A source read as f32 (R69). -/
def State.f32 (s : State) (n : BitVec 6) : Fv := fmtF32.value ((s.getS n).toNat % 2 ^ 32)

/-- A rounded result of two or three f32 sources (R70). -/
def State.fpRound (s : State) (f : RF) (v : Fv) (lat : Nat) : Issue :=
  .done (s.putS f.d.toNat (BitVec.ofNat 64 (fmtF32.round f.rm.toNat v s.rngWord.toNat)) lat)

/-- FADD (R70). -/
def execFadd (f : RF) (s : State) : Out :=
  s.issue (.fadd f) f.gd [f.a.toNat, f.b.toNat] fun s => s.fpRound f (Fv.add f.rm.toNat (s.f32 f.a) (s.f32 f.b)) 4

/-- FSUB (R70). -/
def execFsub (f : RF) (s : State) : Out :=
  s.issue (.fsub f) f.gd [f.a.toNat, f.b.toNat] fun s =>
    s.fpRound f (Fv.add f.rm.toNat (s.f32 f.a) (s.f32 f.b).negate) 4

/-- FMUL (R70). -/
def execFmul (f : RF) (s : State) : Out :=
  s.issue (.fmul f) f.gd [f.a.toNat, f.b.toNat] fun s => s.fpRound f (Fv.mul (s.f32 f.a) (s.f32 f.b)) 4

/-- FFMA (R70): one rounding. -/
def execFfma (f : RF) (s : State) : Out :=
  s.issue (.ffma f) f.gd [f.a.toNat, f.b.toNat, f.c.toNat] fun s =>
    s.fpRound f (Fv.add f.rm.toNat (Fv.mul (s.f32 f.a) (s.f32 f.b)) (s.f32 f.c)) 4

/-- FDIV (R70). -/
def execFdiv (f : RF) (s : State) : Out :=
  s.issue (.fdiv f) f.gd [f.a.toNat, f.b.toNat] fun s => s.fpRound f (Fv.div (s.f32 f.a) (s.f32 f.b)) 14

/-- FSQRT (R70). -/
def execFsqrt (f : RF) (s : State) : Out :=
  s.issue (.fsqrt f) f.gd [f.a.toNat] fun s =>
    .done (s.putS f.d.toNat (BitVec.ofNat 64 (fmtF32.sqrt f.rm.toNat (s.f32 f.a) s.rngWord.toNat)) 16)

/-- R70: FMIN and FMAX; the result is one of the operands, or the canonical NaN. -/
def State.fpPick (s : State) (i : Instr) (f : RF) (big : Bool) : Out :=
  s.issue i f.gd [f.a.toNat, f.b.toNat] fun s => s.fpRound f (Fv.pick big (s.f32 f.a) (s.f32 f.b)) 4

/-- FMIN (R70). -/
def execFmin (f : RF) (s : State) : Out := s.fpPick (.fmin f) f false

/-- FMAX (R70). -/
def execFmax (f : RF) (s : State) : Out := s.fpPick (.fmax f) f true

/-- FABS (R70): bit 31 cleared, NaNs included. -/
def execFabs (f : RF) (s : State) : Out :=
  s.issue (.fabs f) f.gd [f.a.toNat] fun s => .done (s.putS f.d.toNat (s.getS f.a &&& 0x7FFFFFFF) 1)

/-- FNEG (R70): bit 31 inverted, NaNs included. -/
def execFneg (f : RF) (s : State) : Out :=
  s.issue (.fneg f) f.gd [f.a.toNat] fun s =>
    .done (s.putS f.d.toNat ((s.getS f.a &&& 0xFFFFFFFF) ^^^ 0x80000000) 1)

/-- FCMP (R68, R70): every lane of the predicate, latency 2. -/
def execFcmp (f : RF) (s : State) : Out :=
  s.issue (.fcmp f) f.gd [f.a.toNat, f.b.toNat] fun s =>
    .done (s.putP f.d.toNat (lanesOf (ccFpEval f.fn.toNat (s.f32 f.a) (s.f32 f.b))) false 2)

/-- R71: the result bits of FCVT. An i32 result is sign-extended, every other narrow one zero-extended. -/
def fcvtValue (dst src rm : Nat) (a : Word) (g : Nat) : Word :=
  let r := (convert src dst rm (a.toNat % 2 ^ tyWidth src) g).1
  if dst == 2 then extend32 r else BitVec.ofNat 64 r
where extend32 (r : Nat) : Word := BitVec.ofInt 64 (sInt 32 r)

/-- FCVT (R71). The rules of R71 state no result from one integer type to another: that value is free (log 7). -/
def execFcvt (f : RF) (s : State) : Out :=
  s.issue (.fcvt f) f.gd [f.a.toNat] fun s =>
    if fmtOf f.ty.toNat = none ∧ fmtOf f.fn.toNat = none then
      .done (s.next.2.putS f.d.toNat (Config.word s.next.1 0) 4)
    else .done (s.putS f.d.toNat (fcvtValue f.ty.toNat f.fn.toNat f.rm.toNat (s.getS f.a) s.rngWord.toNat) 4)

end Sys2Proof.Machine
end

