-- ==== Sys2Proof/Machine/Table.lean ====
section
/-! DEFINITION. The table engine (spec/05 R113-R118). -/

namespace Sys2Proof.Machine

def Core.tab (x : Core) (n : Nat) : TabSlot := Tab.get (fun _ => TabSlot.init) x.tabs n
def Core.setTab (x : Core) (n : Nat) (v : TabSlot) : Core := { x with tabs := Tab.set (fun _ => TabSlot.init) x.tabs n v }

/-- A finite f32 code. -/
def f32Finite (v : BitVec 32) : Bool := v.extractLsb' 23 8 != 0xFF

/-- R114: the header at a physical address, as a slot about to load, if it keeps its limits. The header step sets both bits of R116: VALID
reads 1 while the slot is still loading (log 72). -/
def State.tableHeader (s : State) (pa : Nat) : Option TabSlot :=
  let w := fun o => BitVec.ofNat 32 (s.seenN (pa + o) 4)
  let nseg := s.seenN pa 2
  let below := (s.seenByte (pa + 2)).toNat
  let above := (s.seenByte (pa + 3)).toNat
  let value := fun o => fmtF32.value (w o).toNat
  if 1 ≤ nseg && nseg ≤ 256 && below < 4 && above < 4 && f32Finite (w 4) && f32Finite (w 8) && (value 4).rat < (value 8).rat &&
      f32Finite (w 12) && 0 < (value 12).rat && f32Finite (w 24) && 0 ≤ (value 24).rat &&
      (List.range 36).all fun i => s.seenByte (pa + 28 + i) == 0 then
    some { valid := true, loading := true, nseg := nseg, below := below, above := above, lo := w 4, hi := w 8, invw := w 12,
           cbelow := w 16, cabove := w 20, lip := w 24, coef := [], evUntil := 0 }
  else none

/-- R76, R115: the checks of every coefficient of a table set, a refusal told with the set's address; then the body with the physical
bit addresses of the segments, each with the HOLD bits of its page. -/
def State.checkCoefs (s : State) (f : MF) (ea : Word) (os : List Nat) (got : List (Nat × Nat)) (body : List (Nat × Nat) → Issue) : Issue :=
  match os with
  | [] => body got
  | o :: rest =>
    match s.checkAccess .peek (ea + BitVec.ofNat 64 o) 16 f.sc.toNat false fun pa at' =>
        s.checkCoefs f ea rest (got ++ [(8 * pa, if at'.d then s.holdOf (ea + BitVec.ofNat 64 o) else 0)]) body with
    | .trap cause _ => .trap cause ea
    | r => r

/-- TLD (R115): the header at issue, the coefficients in the background, both from the replica of the die where it holds one (R307). -/
def execTld (f : MF) (s : State) : Out :=
  s.issue (.tld f) f.gd [f.a.toNat, f.b.toNat] fun s =>
    let ea := s.eaIndexed f
    let n := f.d.toNat
    if ea.extractLsb' 0 6 != 0 then .trap 0x08 ea
    else if eaTop ea || eaAlias ea != 0 then .trap 0x0E ea
    else s.checkAccess .peek ea 64 f.sc.toNat false fun pa at' =>
      let b := s.newAccess (.table n) ea [8 * pa] 512 at' (s.holdOf ea) f.k.toNat f.sc.toNat f.aq false (modOf pa)
      if !s.orderOk b then .wait s
      else match s.tableHeader (readAt pa b.hold (dieOf s.curCore)) with
      | none => .trap 0x0D ea
      | some t =>
        s.checkCoefs f ea ((List.range t.nseg).map (64 + 16 * ·)) [] fun bits =>
          if (s.myCore.tab n).loading || s.now < (s.myCore.tab n).evUntil then .wait s
          else .done ((s.modMy fun x => x.setTab n t).modMe fun x => { x with acc :=
            x.acc ++ [{ b with bits := bits.map (·.1), holds := bits.map fun p => (p.1 / 8 / 0x10000, p.2), ew := 128 }] })

/-- TABLE_LOAD_COMPLETE (R115): the coefficients of slot `n` have arrived. A line poisoned meanwhile is an error of the TLD, as R131
gives it for a load (log 16). -/
def execTableLoadComplete (c n : Nat) (s : State) : Out :=
  .next <|
    let isIt := fun (a : Access) => a.kind == .table n
    let found := [0, 1, 2, 3].findSome? fun k => match (s.ctx c k).acc.findIdx? isIt with | some i => some (k, i) | none => none
    match found with
    | none => s
    | some (k, i) =>
      match (s.ctx c k).acc[i]? with
      | none => s
      | some a =>
        if !s.mayPerform c k i then s
        else
          let t := s.modCtx c k (·.takeAcc i)
          let place := fun b => readAt (b / 8) (a.holdAt (b / 8)) (dieOf c)
          if a.dead || a.bits.any fun b => s.poisoned (place b) then
            (t.modCore c fun x => x.setTab n TabSlot.init).loadError c k a
          else
            let coef := a.bits.flatMap fun b => (List.range 4).map fun j => BitVec.ofNat 32 (s.seenN (place b + 4 * j) 4)
            t.modCore c fun x => x.setTab n { x.tab n with loading := false, coef := coef }

/-! ## Evaluation (R117) -/

/-- The cubic of a segment at u, one fused rounding a step. -/
def TabSlot.cubic (t : TabSlot) (i u : Nat) : Nat :=
  let c := fun j => (t.coef.getD (4 * i + j) 0).toNat
  rneFma (rneFma (rneFma (c 3) u (c 2)) u (c 1)) u (c 0)

def f32One : Nat := 0x3F800000
/-- f32 code of a small natural number. -/
def f32Nat (n : Nat) : Nat := fmtF32.round 0 (.fin false n) 0

/-- EDGE: mode, constant, segment, the clamp's u and the extension's u; an infinite x is clamped under mode 2. -/
def TabSlot.edge (t : TabSlot) (mode : Nat) (c : BitVec 32) (seg uClamp u x : Nat) (inf : Bool) : Nat :=
  match mode with
  | 0 => t.cubic seg uClamp
  | 1 => c.toNat
  | 2 => if inf then t.cubic seg uClamp else t.cubic seg u
  | _ => x

/-- R117: y of an f32 code x. -/
def TabSlot.eval (t : TabSlot) (x : Nat) : Nat :=
  let v := fmtF32.value x
  let tt := rneMul (rneSub x t.lo.toNat) t.invw.toNat
  let lo := fmtF32.value t.lo.toNat
  let hi := fmtF32.value t.hi.toNat
  if v.isNan then fmtF32.canonNan
  else if Fv.cmp v lo < 0 then t.edge t.below t.cbelow 0 0 tt x (!v.isFin)
  else if 0 ≤ Fv.cmp v hi then
    t.edge t.above t.cabove (t.nseg - 1) f32One (rneSub tt (f32Nat (t.nseg - 1))) x (!v.isFin)
  else
    let i := match fmtF32.value tt with
      | .fin false q => min (q.num.natAbs / q.den) (t.nseg - 1)
      | .fin true _ => 0
      | _ => t.nseg - 1
    t.cubic i (rneSub tt (f32Nat i))

/-- TEV (R117). -/
def execTev (f : RF) (s : State) : Out :=
  s.issueV (.tev f) f.gd [] fun s m =>
    let n := (f.fn.extractLsb' 0 3).toNat
    let a := s.me.vRow f.a.toNat
    let d := s.me.vRow f.d.toNat
    let t := s.myCore.tab n
    if t.loading then .wait s
    else
      s.checkRows [useRead a m, useWrite d m] (maskPred f.gd) [] <|
        if !t.valid then .trap 0x0D (BitVec.ofNat 64 n)
        else
          let ty := f.ty.toNat
          let w := tyWidth ty
          let row := s.refRow a
          let data := mapElems w m fun k =>
            let x := if ty = 9 then elem w row k * 65536 else elem w row k
            match fmtOf ty with
            | some fm => fm.round f.rm.toNat (fmtF32.value (t.eval x)) (elemRandom s.rngWord w k)
            | none => 0
          let tag := Tag.result [s.refTag a] (optMul (some (fmtF32.value t.lip.toNat).rat) (s.refTag a).val)
          let s1 := s.landRow 12 d m data tag
          .done (s1.modMy fun x => x.setTab n { x.tab n with evUntil := s.now + 12 })

/-- TCFG FN 0 (R116). -/
def execTcfgInv (f : RF) (s : State) : Out :=
  s.issue (.tcfgInv f) f.gd [] fun s =>
    let n := f.c.toNat
    if (s.myCore.tab n).loading || s.now < (s.myCore.tab n).evUntil then .wait s
    else .done (s.modMy fun x => x.setTab n TabSlot.init)

/-- R116: the status word of a slot. -/
def TabSlot.stat (t : TabSlot) : Word :=
  BitVec.ofBool t.valid ++ BitVec.ofBool t.loading ++ (0 : BitVec 21) ++ BitVec.ofNat 9 t.nseg ++ t.lip

/-- TCFG FN 1 (R116). -/
def execTcfgStat (f : RF) (s : State) : Out :=
  s.issue (.tcfgStat f) f.gd [] fun s => .done (s.putS f.d.toNat (s.myCore.tab f.c.toNat).stat 1)

end Sys2Proof.Machine
end

