-- ==== Sys2Proof/Machine/Dispatch.lean ====
section
/-! DEFINITION. The dispatch: one arm per constructor of Instr, each one call of its meaning. -/

namespace Sys2Proof.Machine

/-- What an instruction or a device event does (the table of spec/opcode_table.json, row by row). -/
def exec (i : Instr) (s : State) : Host.Outcome State Fault Refusal :=
  match i with
  | .nop f => Sys2Proof.Machine.execNop f s
  | .ptb f => Sys2Proof.Machine.execPtb f s
  | .ptbr f => Sys2Proof.Machine.execPtbr f s
  | .bt f => Sys2Proof.Machine.execBt f s
  | .btl f => Sys2Proof.Machine.execBtl f s
  | .loop f => Sys2Proof.Machine.execLoop f s
  | .loopr f => Sys2Proof.Machine.execLoopr f s
  | .lbrk f => Sys2Proof.Machine.execLbrk f s
  | .trap f => Sys2Proof.Machine.execTrap f s
  | .brk f => Sys2Proof.Machine.execBrk f s
  | .done f => Sys2Proof.Machine.execDone f s
  | .add f => Sys2Proof.Machine.execAdd f s
  | .addi f => Sys2Proof.Machine.execAddi f s
  | .sub f => Sys2Proof.Machine.execSub f s
  | .mul f => Sys2Proof.Machine.execMul f s
  | .mulh f => Sys2Proof.Machine.execMulh f s
  | .mulhw f => Sys2Proof.Machine.execMulhw f s
  | .div f => Sys2Proof.Machine.execDiv f s
  | .divw f => Sys2Proof.Machine.execDivw f s
  | .rem f => Sys2Proof.Machine.execRem f s
  | .remw f => Sys2Proof.Machine.execRemw f s
  | .and f => Sys2Proof.Machine.execAnd f s
  | .andi f => Sys2Proof.Machine.execAndi f s
  | .or f => Sys2Proof.Machine.execOr f s
  | .ori f => Sys2Proof.Machine.execOri f s
  | .xor f => Sys2Proof.Machine.execXor f s
  | .andn f => Sys2Proof.Machine.execAndn f s
  | .shl f => Sys2Proof.Machine.execShl f s
  | .shr f => Sys2Proof.Machine.execShr f s
  | .sar f => Sys2Proof.Machine.execSar f s
  | .rot f => Sys2Proof.Machine.execRot f s
  | .clz f => Sys2Proof.Machine.execClz f s
  | .ctz f => Sys2Proof.Machine.execCtz f s
  | .popc f => Sys2Proof.Machine.execPopc f s
  | .min f => Sys2Proof.Machine.execMin f s
  | .max f => Sys2Proof.Machine.execMax f s
  | .minw f => Sys2Proof.Machine.execMinw f s
  | .maxw f => Sys2Proof.Machine.execMaxw f s
  | .sext f => Sys2Proof.Machine.execSext f s
  | .zext f => Sys2Proof.Machine.execZext f s
  | .li f => Sys2Proof.Machine.execLi f s
  | .lih f => Sys2Proof.Machine.execLih f s
  | .mov f => Sys2Proof.Machine.execMov f s
  | .sel f => Sys2Proof.Machine.execSel f s
  | .cmp f => Sys2Proof.Machine.execCmp f s
  | .cmpi f => Sys2Proof.Machine.execCmpi f s
  | .addx f => Sys2Proof.Machine.execAddx f s
  | .bfx f => Sys2Proof.Machine.execBfx f s
  | .bfi f => Sys2Proof.Machine.execBfi f s
  | .fadd f => Sys2Proof.Machine.execFadd f s
  | .fsub f => Sys2Proof.Machine.execFsub f s
  | .fmul f => Sys2Proof.Machine.execFmul f s
  | .ffma f => Sys2Proof.Machine.execFfma f s
  | .fdiv f => Sys2Proof.Machine.execFdiv f s
  | .fsqrt f => Sys2Proof.Machine.execFsqrt f s
  | .fmin f => Sys2Proof.Machine.execFmin f s
  | .fmax f => Sys2Proof.Machine.execFmax f s
  | .fabs f => Sys2Proof.Machine.execFabs f s
  | .fneg f => Sys2Proof.Machine.execFneg f s
  | .fcmp f => Sys2Proof.Machine.execFcmp f s
  | .fcvt f => Sys2Proof.Machine.execFcvt f s
  | .psetClear f => Sys2Proof.Machine.execPsetClear f s
  | .psetSet f => Sys2Proof.Machine.execPsetSet f s
  | .psetGroup f => Sys2Proof.Machine.execPsetGroup f s
  | .pand f => Sys2Proof.Machine.execPand f s
  | .por f => Sys2Proof.Machine.execPor f s
  | .pxor f => Sys2Proof.Machine.execPxor f s
  | .pandn f => Sys2Proof.Machine.execPandn f s
  | .pnot f => Sys2Proof.Machine.execPnot f s
  | .pfirst f => Sys2Proof.Machine.execPfirst f s
  | .pcnt f => Sys2Proof.Machine.execPcnt f s
  | .plen f => Sys2Proof.Machine.execPlen f s
  | .vany f => Sys2Proof.Machine.execVany f s
  | .vall f => Sys2Proof.Machine.execVall f s
  | .ld f => Sys2Proof.Machine.execLd f s
  | .lds f => Sys2Proof.Machine.execLds f s
  | .st f => Sys2Proof.Machine.execSt f s
  | .ldx f => Sys2Proof.Machine.execLdx f s
  | .stx f => Sys2Proof.Machine.execStx f s
  | .aadd f => Sys2Proof.Machine.execAadd f s
  | .amin f => Sys2Proof.Machine.execAmin f s
  | .amax f => Sys2Proof.Machine.execAmax f s
  | .aminw f => Sys2Proof.Machine.execAminw f s
  | .amaxw f => Sys2Proof.Machine.execAmaxw f s
  | .aand f => Sys2Proof.Machine.execAand f s
  | .aor f => Sys2Proof.Machine.execAor f s
  | .axor f => Sys2Proof.Machine.execAxor f s
  | .axch f => Sys2Proof.Machine.execAxch f s
  | .acas f => Sys2Proof.Machine.execAcas f s
  | .fence f => Sys2Proof.Machine.execFence f s
  | .fencel f => Sys2Proof.Machine.execFencel f s
  | .fenceh f => Sys2Proof.Machine.execFenceh f s
  | .mbr f => Sys2Proof.Machine.execMbr f s
  | .mbw f => Sys2Proof.Machine.execMbw f s
  | .mfc f => Sys2Proof.Machine.execMfc f s
  | .mtc f => Sys2Proof.Machine.execMtc f s
  | .rngSeedWrite f => Sys2Proof.Machine.execRngSeedWrite f s
  | .engPoisonClear f => Sys2Proof.Machine.execEngPoisonClear f s
  | .accGrantWrite f => Sys2Proof.Machine.execAccGrantWrite f s
  | .viewWordWrite f => Sys2Proof.Machine.execViewWordWrite f s
  | .loopCounterWrite f => Sys2Proof.Machine.execLoopCounterWrite f s
  | .branchTargetWrite f => Sys2Proof.Machine.execBranchTargetWrite f s
  | .xbGainWrite f => Sys2Proof.Machine.execXbGainWrite f s
  | .xbSymWrite f => Sys2Proof.Machine.execXbSymWrite f s
  | .eret f => Sys2Proof.Machine.execEret f s
  | .sysc f => Sys2Proof.Machine.execSysc f s
  | .tlbiPage f => Sys2Proof.Machine.execTlbiPage f s
  | .tlbiAll f => Sys2Proof.Machine.execTlbiAll f s
  | .pwrbOn f => Sys2Proof.Machine.execPwrbOn f s
  | .pwrbRet f => Sys2Proof.Machine.execPwrbRet f s
  | .pwrbOff f => Sys2Proof.Machine.execPwrbOff f s
  | .spawn f => Sys2Proof.Machine.execSpawn f s
  | .spawnG f => Sys2Proof.Machine.execSpawnG f s
  | .join f => Sys2Proof.Machine.execJoin f s
  | .waitf f => Sys2Proof.Machine.execWaitf f s
  | .futureWake c k => Sys2Proof.Machine.execFutureWake c k s
  | .yield f => Sys2Proof.Machine.execYield f s
  | .yieldQ f => Sys2Proof.Machine.execYieldQ f s
  | .renqCpy f => Sys2Proof.Machine.execRenqCpy f s
  | .renqGat f => Sys2Proof.Machine.execRenqGat f s
  | .rngtCfg f => Sys2Proof.Machine.execRngtCfg f s
  | .rngt f => Sys2Proof.Machine.execRngt f s
  | .pipewGet f => Sys2Proof.Machine.execPipewGet f s
  | .pipewPut f => Sys2Proof.Machine.execPipewPut f s
  | .piperGet f => Sys2Proof.Machine.execPiperGet f s
  | .piperPut f => Sys2Proof.Machine.execPiperPut f s
  | .pipeWake c k => Sys2Proof.Machine.execPipeWake c k s
  | .bar f => Sys2Proof.Machine.execBar f s
  | .barCfg f => Sys2Proof.Machine.execBarCfg f s
  | .gbar f => Sys2Proof.Machine.execGbar f s
  | .walk f => Sys2Proof.Machine.execWalk f s
  | .sendh f => Sys2Proof.Machine.execSendh f s
  | .vadd f => Sys2Proof.Machine.execVadd f s
  | .vsub f => Sys2Proof.Machine.execVsub f s
  | .vmul f => Sys2Proof.Machine.execVmul f s
  | .vfma f => Sys2Proof.Machine.execVfma f s
  | .vmin f => Sys2Proof.Machine.execVmin f s
  | .vmax f => Sys2Proof.Machine.execVmax f s
  | .vabs f => Sys2Proof.Machine.execVabs f s
  | .vneg f => Sys2Proof.Machine.execVneg f s
  | .vand f => Sys2Proof.Machine.execVand f s
  | .vor f => Sys2Proof.Machine.execVor f s
  | .vxor f => Sys2Proof.Machine.execVxor f s
  | .vshl f => Sys2Proof.Machine.execVshl f s
  | .vshr f => Sys2Proof.Machine.execVshr f s
  | .vsar f => Sys2Proof.Machine.execVsar f s
  | .vcmp f => Sys2Proof.Machine.execVcmp f s
  | .vsel f => Sys2Proof.Machine.execVsel f s
  | .vcvt f => Sys2Proof.Machine.execVcvt f s
  | .vclamp f => Sys2Proof.Machine.execVclamp f s
  | .vreds f => Sys2Proof.Machine.execVreds f s
  | .vredmMax f => Sys2Proof.Machine.execVredmMax f s
  | .vredmMin f => Sys2Proof.Machine.execVredmMin f s
  | .vscanInc f => Sys2Proof.Machine.execVscanInc f s
  | .vscanExc f => Sys2Proof.Machine.execVscanExc f s
  | .vperm f => Sys2Proof.Machine.execVperm f s
  | .vpermTwo f => Sys2Proof.Machine.execVpermTwo f s
  | .vbcast f => Sys2Proof.Machine.execVbcast f s
  | .vbcastElement f => Sys2Proof.Machine.execVbcastElement f s
  | .vins f => Sys2Proof.Machine.execVins f s
  | .vext f => Sys2Proof.Machine.execVext f s
  | .viota f => Sys2Proof.Machine.execViota f s
  | .vld f => Sys2Proof.Machine.execVld f s
  | .vst f => Sys2Proof.Machine.execVst f s
  | .vldt f => Sys2Proof.Machine.execVldt f s
  | .vrng f => Sys2Proof.Machine.execVrng f s
  | .vkrng f => Sys2Proof.Machine.execVkrng f s
  | .setvwV f => Sys2Proof.Machine.execSetvwV f s
  | .setvwT f => Sys2Proof.Machine.execSetvwT f s
  | .tld f => Sys2Proof.Machine.execTld f s
  | .tableLoadComplete c n => Sys2Proof.Machine.execTableLoadComplete c n s
  | .tev f => Sys2Proof.Machine.execTev f s
  | .tcfgInv f => Sys2Proof.Machine.execTcfgInv f s
  | .tcfgStat f => Sys2Proof.Machine.execTcfgStat f s
  | .amov f => Sys2Proof.Machine.execAmov f s
  | .aclr f => Sys2Proof.Machine.execAclr f s
  | .aldv f => Sys2Proof.Machine.execAldv f s
  | .aldvAdd f => Sys2Proof.Machine.execAldvAdd f s
  | .admitRow f => Sys2Proof.Machine.execAdmitRow f s
  | .admitView f => Sys2Proof.Machine.execAdmitView f s
  | .cpy f => Sys2Proof.Machine.execCpy f s
  | .cpyFill f => Sys2Proof.Machine.execCpyFill f s
  | .cpyFrom f => Sys2Proof.Machine.execCpyFrom f s
  | .cpyTo f => Sys2Proof.Machine.execCpyTo f s
  | .cpyw f => Sys2Proof.Machine.execCpyw f s
  | .cpywAll f => Sys2Proof.Machine.execCpywAll f s
  | .ccan f => Sys2Proof.Machine.execCcan f s
  | .cpoll f => Sys2Proof.Machine.execCpoll f s
  | .gath f => Sys2Proof.Machine.execGath f s
  | .gathSum f => Sys2Proof.Machine.execGathSum f s
  | .scad f => Sys2Proof.Machine.execScad f s
  | .collBcast f => Sys2Proof.Machine.execCollBcast f s
  | .collSum f => Sys2Proof.Machine.execCollSum f s
  | .collMax f => Sys2Proof.Machine.execCollMax f s
  | .collMin f => Sys2Proof.Machine.execCollMin f s
  | .collMatch c q => Sys2Proof.Machine.execCollMatch c q s
  | .evcfgCnt f => Sys2Proof.Machine.execEvcfgCnt f s
  | .evcfgTerm f => Sys2Proof.Machine.execEvcfgTerm f s
  | .evarm f => Sys2Proof.Machine.execEvarm f s
  | .evarmClr f => Sys2Proof.Machine.execEvarmClr f s
  | .evarmStat f => Sys2Proof.Machine.execEvarmStat f s
  | .eventTermFiring c t => Sys2Proof.Machine.execEventTermFiring c t s
  | .mstn f => Sys2Proof.Machine.execMstn f s
  | .mldw f => Sys2Proof.Machine.execMldw f s
  | .weightGroupLoadComplete c m => Sys2Proof.Machine.execWeightGroupLoadComplete c m s
  | .mms f => Sys2Proof.Machine.execMms f s
  | .mmsPairComplete c m => Sys2Proof.Machine.execMmsPairComplete c m s
  | .scacc f => Sys2Proof.Machine.execScacc f s
  | .mrls f => Sys2Proof.Machine.execMrls f s
  | .mhintMms f => Sys2Proof.Machine.execMhintMms f s
  | .mhintXmv f => Sys2Proof.Machine.execMhintXmv f s
  | .allowanceRise c u => Sys2Proof.Machine.execAllowanceRise c u s
  | .allowanceFall c u => Sys2Proof.Machine.execAllowanceFall c u s
  | .leadInEnd c u => Sys2Proof.Machine.execLeadInEnd c u s
  | .tailEnd c u => Sys2Proof.Machine.execTailEnd c u s
  | .xmv f => Sys2Proof.Machine.execXmv f s
  | .xmvt f => Sys2Proof.Machine.execXmvt f s
  | .xupd f => Sys2Proof.Machine.execXupd f s
  | .xdep f => Sys2Proof.Machine.execXdep f s
  | .xdepRst f => Sys2Proof.Machine.execXdepRst f s
  | .xcal f => Sys2Proof.Machine.execXcal f s
  | .xsym f => Sys2Proof.Machine.execXsym f s
  | .xrd f => Sys2Proof.Machine.execXrd f s
  | .xpgm f => Sys2Proof.Machine.execXpgm f s
  | .xstat f => Sys2Proof.Machine.execXstat f s
  | .xstatWait f => Sys2Proof.Machine.execXstatWait f s
  | .xstatBlk f => Sys2Proof.Machine.execXstatBlk f s
  | .crossbarCommandComplete c t => Sys2Proof.Machine.execCrossbarCommandComplete c t s
  | .idleSweep c t => Sys2Proof.Machine.execIdleSweep c t s
  | .pcfg f => Sys2Proof.Machine.execPcfg f s
  | .rjcfg f => Sys2Proof.Machine.execRjcfg f s
  | .rjcfgVer f => Sys2Proof.Machine.execRjcfgVer f s
  | .rjseal f => Sys2Proof.Machine.execRjseal f s
  | .rjsend f => Sys2Proof.Machine.execRjsend f s
  | .rjtake f => Sys2Proof.Machine.execRjtake f s
  | .strd f => Sys2Proof.Machine.execStrd f s
  | .mdec f => Sys2Proof.Machine.execMdec f s
  | .mrsz f => Sys2Proof.Machine.execMrsz f s
  | .engineCommandStart c q => Sys2Proof.Machine.execEngineCommandStart c q s
  | .engineCommandComplete c q => Sys2Proof.Machine.execEngineCommandComplete c q s
  | .rewardArrival d => Sys2Proof.Machine.execRewardArrival d s
  | .entryTimeout d => Sys2Proof.Machine.execEntryTimeout d s
  | .orphanLoss d => Sys2Proof.Machine.execOrphanLoss d s
  | .episodeScan d => Sys2Proof.Machine.execEpisodeScan d s
  | .episodeRelease d => Sys2Proof.Machine.execEpisodeRelease d s
  | .relayoutCommand w => Sys2Proof.Machine.execRelayoutCommand w s
  | .poolingCommand w => Sys2Proof.Machine.execPoolingCommand w s
  | .stackCommandComplete b => Sys2Proof.Machine.execStackCommandComplete b s
  | .statusWindowStore w => Sys2Proof.Machine.execStatusWindowStore w s
  | .reduceAddF32 w => Sys2Proof.Machine.execReduceAddF32 w s
  | .reduceAddBf16 w => Sys2Proof.Machine.execReduceAddBf16 w s
  | .reduceMaxF32 w => Sys2Proof.Machine.execReduceMaxF32 w s
  | .pearlDataAccess w => Sys2Proof.Machine.execPearlDataAccess w s
  | .computeRowRefresh b => Sys2Proof.Machine.execComputeRowRefresh b s
  | .computeRowForcedRefresh b r => Sys2Proof.Machine.execComputeRowForcedRefresh b r s
  | .resultLanding c => Sys2Proof.Machine.execResultLanding c s
  | .loadReturn c k j => Sys2Proof.Machine.execLoadReturn c k j s
  | .loadErrorReturn c k j => Sys2Proof.Machine.execLoadErrorReturn c k j s
  | .trapEntry c k => Sys2Proof.Machine.execTrapEntry c k s
  | .reservationExpiry c k => Sys2Proof.Machine.execReservationExpiry c k s
  | .faultRecordPlacement d => Sys2Proof.Machine.execFaultRecordPlacement d s
  | .faultAnswer d n => Sys2Proof.Machine.execFaultAnswer d n s
  | .preemptRequest d => Sys2Proof.Machine.execPreemptRequest d s
  | .restoreRequest d => Sys2Proof.Machine.execRestoreRequest d s
  | .migrationRequest => Sys2Proof.Machine.execMigrationRequest s
  | .grottoPop g => Sys2Proof.Machine.execGrottoPop g s
  | .steal g => Sys2Proof.Machine.execSteal g s
  | .handlerStart c => Sys2Proof.Machine.execHandlerStart c s
  | .spill c k => Sys2Proof.Machine.execSpill c k s
  | .waitResume g j => Sys2Proof.Machine.execWaitResume g j s
  | .gangAdmission => Sys2Proof.Machine.execGangAdmission s
  | .stepTake c => Sys2Proof.Machine.execStepTake c s
  | .walkComplete g j => Sys2Proof.Machine.execWalkComplete g j s
  | .launch q => Sys2Proof.Machine.execLaunch q s
  | .mailboxWrite q => Sys2Proof.Machine.execMailboxWrite q s
  | .mailboxRead q => Sys2Proof.Machine.execMailboxRead q s
  | .retireLaunch q => Sys2Proof.Machine.execRetireLaunch q s
  | .openStorageConnection q => Sys2Proof.Machine.execOpenStorageConnection q s
  | .closeStorageConnection q => Sys2Proof.Machine.execCloseStorageConnection q s
  | .hostRdmaWrite qp pa data => Sys2Proof.Machine.execHostRdmaWrite qp pa data s
  | .hostRdmaRead qp pa n => Sys2Proof.Machine.execHostRdmaRead qp pa n s
  | .nvmeTransportError conn => Sys2Proof.Machine.execNvmeTransportError conn s
  | .firmwareRecovery q => Sys2Proof.Machine.execFirmwareRecovery q s
  | .attestationReport q => Sys2Proof.Machine.execAttestationReport q s
  | .certificateChain q => Sys2Proof.Machine.execCertificateChain q s
  | .powerUp => Sys2Proof.Machine.execPowerUp s
  | .ioDieStart => Sys2Proof.Machine.execIoDieStart s
  | .computeDieStart d => Sys2Proof.Machine.execComputeDieStart d s
  | .grottoStart g => Sys2Proof.Machine.execGrottoStart g s
  | .linkTraining m domain => Sys2Proof.Machine.execLinkTraining m domain s
  | .moduleReady => Sys2Proof.Machine.execModuleReady s
  | .powerWindowEnd draw => Sys2Proof.Machine.execPowerWindowEnd draw s
  | .thermalThrottle sensor temp => Sys2Proof.Machine.execThermalThrottle sensor temp s
  | .thermalStop sensor temp => Sys2Proof.Machine.execThermalStop sensor temp s
  | .uncorrectableStorageError e => Sys2Proof.Machine.execUncorrectableStorageError e s
  | .errorWindowClose u => Sys2Proof.Machine.execErrorWindowClose u s
  | .lastingFaultDeclaration u => Sys2Proof.Machine.execLastingFaultDeclaration u s
  | .ringFlitRetransmit b => Sys2Proof.Machine.execRingFlitRetransmit b s
  | .ringBoundaryFault b => Sys2Proof.Machine.execRingBoundaryFault b s
  | .umaotFlitRetransmit l => Sys2Proof.Machine.execUmaotFlitRetransmit l s
  | .umaotRequestResend l m => Sys2Proof.Machine.execUmaotRequestResend l m s
  | .destinationUnreachable l m => Sys2Proof.Machine.execDestinationUnreachable l m s
  | .illegalEncoding w => Sys2Proof.Machine.execIllegalEncoding w s
  | .storePerform c k j => Sys2Proof.Machine.execStorePerform c k j s
  | .translationQueryAnswer c k => Sys2Proof.Machine.execTranslationQueryAnswer c k s
  | .coreClockCycle c => Sys2Proof.Machine.execCoreClockCycle c s
  | .hostQueuePairConnect qp => Sys2Proof.Machine.execHostQueuePairConnect qp s
  | .routeRestore m => Sys2Proof.Machine.execRouteRestore m s
  | .umaotLinkDown l => Sys2Proof.Machine.execUmaotLinkDown l s
  | .throttleEnd temps => Sys2Proof.Machine.execThrottleEnd temps s

end Sys2Proof.Machine
end

