-- ==== Sys2Proof/Machine/Drive.lean ====
section
/-! DEFINITION. What happens next: inputs, the start order, device steps that are due, device steps whose time is open, and the issue
of the next instruction of a core (spec/07 R124-R125, R129-R131, spec/13 R225, spec/18 R281, spec/32 R418; log 6). -/

namespace Sys2Proof.Machine

/-! ## Inputs (INVENTORY, Host interface) -/

/-- What the outside world may place. -/
def isInput (i : Instr) : Bool :=
  match i with
  | .launch _ | .mailboxWrite _ | .mailboxRead _ | .retireLaunch _ | .openStorageConnection _ | .closeStorageConnection _
  | .hostRdmaWrite _ _ _ | .hostRdmaRead _ _ _ | .nvmeTransportError _ | .firmwareRecovery _ | .attestationReport _ | .certificateChain _
  | .powerUp | .powerWindowEnd _ | .thermalThrottle _ _ | .thermalStop _ _ | .throttleEnd _ | .uncorrectableStorageError _
  | .rewardArrival ⟨_, some _⟩ | .errorWindowClose _ | .lastingFaultDeclaration _ | .ringFlitRetransmit _ | .umaotFlitRetransmit _ | .umaotRequestResend _ _
  | .destinationUnreachable _ _ | .routeRestore _ | .umaotLinkDown _ | .hostQueuePairConnect _ | .computeRowRefresh _ => true
  | _ => false

/-- The queue pair of a request. -/
def qpOf (i : Instr) : Option Nat :=
  match i with
  | .launch q | .mailboxWrite q | .mailboxRead q | .retireLaunch q | .openStorageConnection q | .closeStorageConnection q
  | .firmwareRecovery q | .attestationReport q | .certificateChain q => some q.qp
  | _ => none

/-- A request that cannot be taken up yet (R404, R406, R408, R418). -/
def State.stuck (s : State) (i : Instr) : Bool :=
  match qpOf i with
  | none => false
  | some qp =>
    s.hears qp && (s.qpWaits qp || (match i with
      | .launch q => s.launchStuck q
      | .attestationReport _ | .certificateChain _ => s.koyth.recovery
      | _ => false))

/-- Place of the first input that can be taken: in order, but for requests behind a stuck one of their own queue pair. -/
def State.inputAt (s : State) (qps : List Nat) (i : Nat) : List (Nat × Instr) → Option (Nat × Instr)
  | [] => none
  | (0, e) :: rest =>
    let held := match qpOf e with | some qp => qps.contains qp | none => false
    if held then s.inputAt qps (i + 1) rest
    else if s.stuck e then s.inputAt ((qpOf e).toList ++ qps) (i + 1) rest
    else some (i, e)
  | (_ + 1, _) :: _ => none

/-- One step of waiting passes for the first input that still has to wait. -/
def waitInputs : List (Nat × Instr) → List (Nat × Instr)
  | [] => []
  | (0, e) :: rest => (0, e) :: waitInputs rest
  | (n + 1, e) :: rest => (n, e) :: rest

/-- A device step, as its meaning under some instruction of the table. -/
abbrev Act := State → Out

/-! ## The start order (R418) -/

/-- The next step of the start order; `none` once it has ended. -/
def State.startStep (s : State) : Option Act :=
  let k := s.koyth
  if k.stage = 0 then some execPowerUp
  else if k.stage = 1 then some execIoDieStart
  else if k.stage = 2 then
    if k.recovery then some execModuleReady
    else match (List.range 64).find? fun g => !(s.grotto g).started with
    | some g => some (if (s.die (g / 8)).started then execGrottoStart g else execComputeDieStart (g / 8))
    | none => none
  else if k.stage = 3 then some (execLinkTraining (Config.trainedId % 1024) (Config.trainedDomain.map (· % 1024)))
  else if k.stage = 4 then some execModuleReady
  else none

/-! ## Device steps -/

/-- The device step does something here. -/
def State.stirs (s : State) (f : Act) : Bool := match f s with | .next t => decide (t ≠ s) | _ => true

/-- Steps that a condition lets through. -/
def actsIf (c : Bool) (l : List Act) : List Act := if c then l else []

/-- The step of a window access; its block is named by any address of its tiles. -/
def windowAct (c k : Nat) (a : Access) (al : Nat) (store : Bool) (data : Word) : Act :=
  let key := (dataPearl (a.bits.getD 0 0 / 8)).1
  let pa := if al = 6 then key / 48 * 2 ^ 54 + hbmPlace (key % 48 / 6 * 0xC00000000 + key % 6 * blockBytes) else a.bits.getD 0 0 / 8
  let w : WindowStore := { core := c, ctx := k, ea := a.ea, pa := pa, size := a.ew / 8, isStore := store, data := data, k := a.k }
  match al with
  | 1 => execReduceAddF32 w
  | 2 => execReduceAddBf16 w
  | 3 => execReduceMaxF32 w
  | 6 => execPearlDataAccess w
  | _ => .next

/-- The device steps by which a pending access may perform. -/
def accessTurns (c k i : Nat) (a : Access) : List Turn :=
  match a.kind with
  | .load _ _ | .amo _ _ _ _ | .mbr _ _ | .vload _ _ _ => [.loadReturn c k i, .loadErrorReturn c k i]
  | .wload _ _ _ => [.windowAccess c k i, .loadReturn c k i, .loadErrorReturn c k i]
  | .store _ | .vstore _ _ | .mbw _ _ => [.storePerform c k i]
  | .window _ _ => [.windowAccess c k i, .storePerform c k i]
  | .table n => [.tableLoadComplete c n]
  | .fencel => []

def State.accTurns (s : State) (c k : Nat) : List Turn :=
  (s.ctx c k).acc.zipIdx.flatMap fun p => if s.mayPerform c k p.2 then accessTurns c k p.2 p.1 else []

/-- The step that a turn other than a core's names. -/
def Turn.act (t : Turn) : Act := fun s =>
  match t with
  | .core _ => .next s
  | .translationQueryAnswer c k => execTranslationQueryAnswer c k s
  | .loadReturn c k i => execLoadReturn c k i s
  | .loadErrorReturn c k i => execLoadErrorReturn c k i s
  | .storePerform c k i => execStorePerform c k i s
  | .windowAccess c k i =>
    match (s.ctx c k).acc[i]? with
    | some a => (match a.kind with
      | .wload _ _ al => windowAct c k a al false 0 s
      | .window al v => windowAct c k a al true v s
      | _ => .next s)
    | none => .next s
  | .tableLoadComplete c n => execTableLoadComplete c n s
  | .relayoutCommand c k => match (s.ctx c k).win with | some q => execRelayoutCommand q.w s | none => .next s
  | .poolingCommand c k => match (s.ctx c k).win with | some q => execPoolingCommand q.w s | none => .next s
  | .statusWindowStore c k => match (s.ctx c k).win with | some q => execStatusWindowStore q.w s | none => .next s
  | .futureWake c k => execFutureWake c k s
  | .pipeWake c k => execPipeWake c k s
  | .spill c k => execSpill c k s
  | .crossbarCommandComplete c n => execCrossbarCommandComplete c n s
  | .engineCommandComplete c id => execEngineCommandComplete c id s
  | .engineCommandStart c id => execEngineCommandStart c id s
  | .collMatch c id => execCollMatch c id s
  | .handlerStart c => execHandlerStart c s
  | .stepTake c => execStepTake c s
  | .grottoPop g => execGrottoPop g s
  | .steal g => execSteal g s
  | .waitResume g i => execWaitResume g i s
  | .walkComplete g i => execWalkComplete g i s
  | .faultRecordPlacement d => execFaultRecordPlacement d s
  | .faultAnswer d i => execFaultAnswer d i s
  | .preemptRequest d => execPreemptRequest d s
  | .restoreRequest d => execRestoreRequest d s
  | .firmwareRecovery q => execFirmwareRecovery q s
  | .rewardArrival d => execRewardArrival ⟨d, none⟩ s
  | .episodeScan d => execEpisodeScan d s
  | .episodeRelease d => execEpisodeRelease d s
  | .stackCommandComplete b => execStackCommandComplete b s
  | .launch q => execLaunch q s
  | .closeStorageConnection n =>
    match (s.conn n).bind (·.closing) with
    | some (qp, tag) =>
      execCloseStorageConnection ⟨qp, [6, 0, 0, 0] ++ leBytes 4 tag.toNat ++ leBytes 2 n ++ List.replicate 246 0⟩ s
    | none => .next s
  | .migrationRequest => execMigrationRequest s

/-- Steps of a context that are due in this cycle. -/
def State.dueCtx (s : State) (c k : Nat) : List Act :=
  let x := s.ctx c k
  let now := (s.core c).clock
  actsIf (match x.resv with | some r => 256 < r.issued | none => false) [execReservationExpiry c k] ++
  (if x.acc.any fun a => match a.due with | some d => d ≤ now | none => false then (s.accTurns c k).map (·.act) else []) ++
  actsIf (match x.run with | .trapping _ _ _ => true | _ => false) [execTrapEntry c k]

/-- R296: a unit whose errors have reached their threshold is in lasting fault at once; a tile's window closes at its last access. -/
def State.dueFaults (s : State) (c : Nat) : List Act :=
  let x := s.core c
  (x.errs.flatMap fun p =>
    let u : UnitCode := match p.1 with | 0 => .accStore c | 1 => .windows c | 2 => .icache c | m + 3 => .scratchMacro c m
    actsIf (decide ((match p.1 with | 0 | 1 => 16 | 2 => 32 | _ => 8) ≤ p.2) && !s.koyth.retired.contains (unitCode u))
      [execLastingFaultDeclaration u]) ++
  [0, 1, 2, 3].flatMap fun t =>
    actsIf (decide (4 ≤ (x.tile t).winErr) && !(x.tile t).lf) [execLastingFaultDeclaration (.tile c t)] ++
    actsIf (decide (2 ^ 20 ≤ (x.tile t).winAcc)) [execErrorWindowClose (.tile c t)]

/-- The context may be chosen: its task is not stopped, and no cause of R125 that shows before its instruction is known holds it. -/
def Ctx.mayIssue (x : Ctx) (now : Nat) : Bool :=
  x.task.isSome && !x.held && decide (x.stall ≤ now) && x.loads.all (fun a => a.later < 255) &&
  -- a store or atomic to a D page holds its context until it has performed (R77, R199)
  (x.acc.all fun a => !(a.dpage && a.kind.writes)) &&
  (match x.run with
    -- a window store that the controller has answered completes before a pre-emption stops its context (R368, R379)
    | .ready => !(x.preempt && x.level == 0 && x.delay.isNone) || x.answered
    -- delay slots still issue before a stop (R59, R130)
    | .trapping _ _ _ => x.delay.isSome
    | _ => false)

/-- The context that issues next on a core: one between a BT and its slots (R124); else round robin after the last, leaving out
those that yielded to a ready one (R160). -/
def Core.chosen (x : Core) : Option Nat :=
  match [0, 1, 2, 3].find? fun k => (x.ctx k).delay.isSome && (x.ctx k).task.isSome with
  | some k => if (x.ctx k).mayIssue x.clock then some k else none
  | none =>
    let may := fun k => (x.ctx k).mayIssue x.clock
    let order := (List.range 4).map fun i => (x.last + 1 + i) % 4
    order.find? fun k => may k && !((x.ctx k).yieldTo.any may)

/-- Steps of a core that are due in this cycle (R126, R107, R82, R280, R243, R269-R276, R296, R316, R334). -/
def State.dueCore (s : State) (c : Nat) : List Act :=
  let x := s.core c
  s.dueFaults c ++
  actsIf (x.landings.any fun l => l.due ≤ x.clock) [execResultLanding c] ++
  [0, 1, 2, 3].flatMap (s.dueCtx c) ++
  -- configuration writes of a cycle come before its pulses (R243): terms fire once the cycle's instruction has issued
  x.evterm.flatMap (fun p => actsIf (p.2.armed && (x.issued || x.chosen.isNone)) [execEventTermFiring c p.1]) ++
  x.macs.flatMap (fun m => actsIf (m.due ≤ x.clock) [execWeightGroupLoadComplete c m.mac, execMmsPairComplete c m.mac]) ++
  x.cmds.flatMap (fun m => actsIf (m.st.running? && (m.past x.clock || isMms m.ins || isMldw m.ins || (m.fail.isSome && m.engine != .coll)))
    [match m.engine with | .tile t => execCrossbarCommandComplete c t | _ => execEngineCommandComplete c m.id]) ++
  -- matrix and crossbar commands start in the cycle in which they may (R276, R316); an MLDW once its source has arrived (R269)
  x.cmds.flatMap (fun m => actsIf (!m.st.running? && (m.engine.isTile || (m.engine == .matrix && !isMldw m.ins))) [execEngineCommandStart c m.id]) ++
  [AllowKind.macros, .tiles].flatMap (fun u => actsIf (x.allow u != Allow.init)
    [execLeadInEnd c u, execTailEnd c u, execAllowanceRise c u, execAllowanceFall c u]) ++
  [0, 1, 2, 3].flatMap fun t => actsIf (decide ((x.tile t).lastMeas + 65536 ≤ x.clock)) [execIdleSweep c t]

/-- Cores that run a clock. -/
def State.running (s : State) : List Nat := (s.cores.filter (·.2.started)).map (·.1)

/-- What an arrival at a join unit has still to judge (R393). -/
def dueDie (p : Nat × Die) : List Act :=
  actsIf (p.2.unit.judge == 1) [execEntryTimeout p.1] ++ actsIf (p.2.unit.judge == 2) [execOrphanLoss p.1]

/-- Compute rows to be refreshed at once (R376). -/
def dueBank (p : Nat × BankRows) : List Act :=
  let b : BankId := ⟨p.1 / 512 % 48 / 6, p.1 / 512 % 6 * 32 + p.1 % 512 / 16, p.1 % 16⟩
  p.2.counts.flatMap fun q => actsIf (decide (2048 ≤ q.2)) [execComputeRowForcedRefresh b q.1]

/-- The first device step that is due: no clock moves on before it. The search for a grotto that can hold the oldest waiting gang is made
again as soon as contexts have become free, before any pop takes them (R218, R225). -/
def State.due (s : State) : Option Act :=
  (s.dies.flatMap dueDie ++ actsIf (!s.pending.isEmpty) [execGangAdmission] ++ s.banks.flatMap dueBank ++
   s.koyth.retry.flatMap (fun p => actsIf (decide (16 ≤ p.2)) [execRingBoundaryFault p.1]) ++
   s.running.flatMap s.dueCore).find? s.stirs

/-- Turns that a condition lets through. -/
def turnsIf (c : Bool) (l : List Turn) : List Turn := if c then l else []

/-- Steps of a context whose time is open. -/
def State.openCtx (s : State) (c k : Nat) : List Turn :=
  let x := s.ctx c k
  (match x.query with | some q => turnsIf q.ans.isNone [.translationQueryAnswer c k] | none => []) ++ s.accTurns c k ++
  (match x.win with
    | some q => turnsIf q.ans.isNone [.relayoutCommand c k, .poolingCommand c k, .statusWindowStore c k]
    | none => []) ++
  (match x.run with
    | .waiting (.future _ _) => [.futureWake c k, .spill c k]
    | .waiting (.pipe _ _ _) => [.pipeWake c k, .spill c k]
    | .waiting _ | .parked _ _ => [.spill c k]
    | _ => [])

/-- Steps of a command in its queue. -/
def cmdTurns (c : Nat) (m : Cmd) : List Turn :=
  if m.st.running? then
    match m.engine with
    | .tile t => [.crossbarCommandComplete c t, .engineCommandComplete c m.id]
    | .coll => [.collMatch c m.id, .engineCommandComplete c m.id]
    | .matrix => [.engineCommandStart c m.id, .engineCommandComplete c m.id]
    | _ => [.engineCommandComplete c m.id]
  else [.engineCommandStart c m.id]

/-- Steps of a core whose time is open. -/
def State.openCore (s : State) (c : Nat) : List Turn :=
  let x := s.core c
  [0, 1, 2, 3].flatMap (s.openCtx c) ++ x.cmds.flatMap (cmdTurns c) ++ turnsIf (!x.handlers.isEmpty) [.handlerStart c]

/-- Steps of a grotto head and its walker. -/
def openGrotto (p : Nat × Grotto) : List Turn :=
  turnsIf (!p.2.queues.isEmpty) [.grottoPop p.1] ++ turnsIf (p.2.want != 0) [.steal p.1] ++
  p.2.waits.zipIdx.map (fun w => .waitResume p.1 w.2) ++ p.2.blocks.zipIdx.map fun b => .walkComplete p.1 b.2

/-- Steps of a die: its fault ring, requests of the runtime, and its join unit. -/
def State.openDie (s : State) (p : Nat × Die) : List Turn :=
  turnsIf (!p.2.waiting.isEmpty) [.faultRecordPlacement p.1] ++ p.2.placed.zipIdx.map (fun r => .faultAnswer p.1 r.2) ++
  turnsIf (p.2.started && (s.rhdr p.1).getLsbD 63) [.preemptRequest p.1, .restoreRequest p.1] ++
  turnsIf (!p.2.unit.inbox.isEmpty) [.rewardArrival p.1] ++ turnsIf (!p.2.unit.queued.isEmpty) [.episodeScan p.1] ++
  turnsIf (!p.2.unit.ready.isEmpty || p.2.unit.push.isSome) [.episodeRelease p.1]

/-- A close that waits for its requests in flight (R408). -/
def closeTurns (p : Nat × Option Conn) : List Turn := turnsIf (p.2.any fun k => k.closing.isSome) [.closeStorageConnection p.1]

/-- Device steps whose time the spec leaves open and that do something here. -/
def State.openSteps (s : State) : List Turn :=
  (s.running.flatMap s.openCore ++
   s.running.flatMap (fun c => turnsIf (!(s.grotto (grottoOf c)).offers.isEmpty) [.stepTake c]) ++
   s.grottos.flatMap openGrotto ++ s.dies.flatMap s.openDie ++
   s.pearls.flatMap (fun p => turnsIf (!p.2.queue.isEmpty) [.stackCommandComplete p.1]) ++
   s.launching.map (fun p => Turn.launch p.1) ++ s.koyth.loading.toList.map Turn.firmwareRecovery ++ s.io.conns.flatMap closeTurns ++
   turnsIf (s.koyth.stage == 5 && (s.readWord (s.migBlock + 16)).getLsbD 63) [.migrationRequest]).filter fun t => s.stirs t.act

/-! ## Issue (R124, R125, R281) -/

/-- The program counter stands at the entry of the handler of the last trap (R280, R281). -/
def Ctx.atEntry (x : Ctx) (fwvec : Word) : Bool :=
  x.level != 0 && (x.pc == x.trapBase + 64 * (x.trapCause &&& 0xFF) || (x.level == 2 && x.pc == fwvec + 64 * (x.trapCause &&& 0xFF)))

/-- R281: a handler that cannot be fetched stops its context for good. -/
def State.entryFault (s : State) : State :=
  let r : FaultRec := { ref := s.me.tid, kind := 6, acc := 0, ea := 0, pc := s.me.pc, idx := 0, core := s.curCore, ctx := s.curCtx }
  (s.modMe fun x => { x.stopClear with run := .stopped }).addFault (dieOf s.curCore) r

/-- A word that could not be fetched from `a`. -/
def State.noFetch (s : State) (a : Word) : Fetch → State
  | .word _ => s
  | .wait => s.finish 1 (.wait (s.modMe (·.ask a)))
  | .miss => s.finish 1 (.park 0 a)
  | .trap cause =>
    if a == s.me.pc && s.me.atEntry s.myCore.fwvec && cause != 0x04 then s.entryFault
    else (s.modMy fun x => { x with last := s.curCtx, issued := true }).raise s.curCore s.curCtx cause a a

/-- Run what the decoder has read. -/
def State.runDecoded (s : State) : Decoded → Out
  | .instr i _ => exec i s
  | .illegal _ w => execIllegalEncoding w s
  | .needWord1 => .next s

/-- The issuing context fetches, decodes and runs its next instruction. The spec does not say whether word 1 of an engine instruction is
fetched before the checks on word 0; here it is: a fetch fault or a miss of word 1 comes before a 0x01 of word 0 (log 72). -/
def State.issueNext (s : State) : Out :=
  match s.me.delay with
  | some d => s.runDecoded (decode (if d.left = 2 then d.w1 else d.w2) none)
  | none =>
    match s.fetch s.curCore s.curCtx s.me.pc with
    | .word w =>
      let t := s.keepCode s.curCore s.curCtx s.me.pc w
      match decode w none with
      | .needWord1 =>
        match s.fetch s.curCore s.curCtx (s.me.pc + 8) with
        | .word v => (t.keepCode s.curCore s.curCtx (s.me.pc + 8) v).runDecoded (decode w (some v))
        | f => .next (s.noFetch (s.me.pc + 8) f)
      | d => t.runDecoded d
    | f => .next (s.noFetch s.me.pc f)

/-- One core goes on: it issues once in a cycle, and then the cycle ends. -/
def State.runCore (s : State) (c : Nat) : Out :=
  if (s.core c).issued then execCoreClockCycle c s
  else match (s.core c).chosen with
  | some k => ({ s with curCore := c, curCtx := k } : State).issueNext
  | none => execCoreClockCycle c s

/-- One of the cores goes on: their clocks are not synchronised (R421). -/
def State.runSome (s : State) (l : List Nat) : Out :=
  let (n, s) := s.next
  match l[Config.pick n % l.length]? with
  | some c => s.runCore c
  | none => .next s

/-- A turn that is owed (log 68); a step that has been taken meanwhile does nothing. -/
def State.takeTurn (s : State) : Turn → Out
  | .core c => if s.running.contains c then s.runCore c else .next s
  | t => if s.stirs t.act then t.act s else .next s

/-- Bytes that are undefined need not read the same twice (R4). -/
def State.stir (s : State) : State := if s.rings.isEmpty then s else { s with blur := s.blur + 1 }

/-- What follows every step at once: discarded tasks leave their contexts (R285), surplus bits (R216), chains with no core left
and new offers (R221), queries on their way to the slices (R304), and undefined bytes read anew (R4, R211). -/
def State.settle (s : State) : State := s.endings.announce.stopChains.offer.lodge.stir

def settleOut : Out → Out
  | .next t => .next t.settle
  | o => o

/-- A step whose time is open, or the next core: by free choice, but that every so often each open step and each core has a turn, so that
none waits for ever (R171, R202, R225; log 68). -/
def State.goOn (s : State) : Out :=
  match s.openSteps, s.running with
  | [], [] => .next s
  | [], [c] => s.runCore c
  | l, cs =>
    match s.owed with
    | t :: rest => ({ s with owed := rest } : State).takeTurn t
    | [] =>
      let (n, s) := s.next
      if s.patience = 0 then .next { s with owed := l ++ cs.map .core, patience := Config.patience n + 1 }
      else
        let s := { s with patience := s.patience - 1 }
        match l[Config.pick n % (l.length + 1)]? with
        | some t => t.act s
        | none => s.runSome cs

/-- One step without an input: the start order, what is due, then what is open. -/
def State.drive (s : State) : Out :=
  match s.startStep with
  | some f => f s
  | none =>
    match s.due with
    | some f => f s
    | none => s.goOn

/-- One step: after a thermal stop only a power-up is heard (R422); else an input that has come, or the machine's own step. -/
def State.advance (s : State) : Out :=
  if s.koyth.state = 3 then
    match s.inputs with
    | (_, .powerUp) :: rest => execPowerUp { s with inputs := rest }
    | _ :: rest => .next { s with inputs := rest }
    | [] => .fault .thermalStop
  else
    match s.inputAt [] 0 s.inputs with
    | some (i, e) =>
      let t := { s with inputs := s.inputs.eraseIdx i }
      settleOut (if isInput e then exec e t else .next t)
    | none => settleOut ({ s with inputs := waitInputs s.inputs } : State).drive

/-! ## Placing an instruction -/

/-- A task at task level in space 0, whose code stands at virtual address 0x200000. -/
def probeTask : Task :=
  { r := { code := 0x200000, frame := 0, joina := 0, live := 0, pf := 0, space := 0, lid := 0, far := false, tid := none, got := none,
           views := none, fault := none, recorded := [] }
    gang := none, handler := false, step := none, tid := 0 }

/-- The page of the code: 2 MiB at physical 0x8000000, readable, writable and executable. -/
def probePage : TlbEntry := ⟨0, 0x200000, 0x200000, 0x8000087⟩

/-- The module as ready, core 0 started, its context 0 at the first instruction of a task, the words at its program counter. -/
def State.place (s : State) (bs : List Byte) : State :=
  let x := s.core 0
  let t := { x.ctx 0 with
    pc := 0x200000, task := some probeTask, run := .ready, delay := none, held := false, stall := 0, preempt := false, yieldTo := [] }
  let s := s.setCore 0
    { x.setCtx 0 t with icache := x.icache.filter (·.1.1 != 0), started := true, retired := false, issued := false, last := 3, tlb := probePage :: x.tlb.filter (· != probePage) }
  { s.putBytes 0x8000000 bs with koyth := { s.koyth with stage := 5, state := 1, recovery := false }, inputs := [] }

end Sys2Proof.Machine
end

