-- ==== Sys2Proof/Machine/Step.lean ====
section
/-! DEFINITION. The step of the machine, and how an instruction is placed where the next step fetches it. -/

namespace Sys2Proof.Machine

/-- One step of the module (Drive.lean). -/
def step (s : State) : Host.Outcome State Fault Refusal := s.advance

/-- `s` with an instruction's words, numbered as the opcode table numbers them, at the program counter of context 0 of core 0, all
that the next step needs to issue it set with it (log 41). -/
def State.withFetchWord (s : State) (nbits w : Nat) : State := s.place (leBytes 16 (w % 2 ^ nbits))

end Sys2Proof.Machine
end

