-- ==== Sys2Proof/Safety.lean ====
section
/-! DEFINITION. What counts as a safe run, and the words the statements use: when an instruction of each shape goes on at issue
(spec/02 R29-R30), what issuing leaves alone, and what lands. Nothing in the machine depends on this file. -/

namespace Sys2Proof.Machine

/-- The invariant of every step: memory keeps its canonical form. -/
def State.Inv (s : State) : Prop := Memory.wf s.mem = true

/-! ## Going on at issue (R29, R30) -/

/-- Check 3 of R30 passes: no guard, or a guard register that may be read, with no pending write under dbg.pend, unmarked. -/
def State.guardOk (s : State) (gd : Guard) : Bool :=
  gd.g == 31 ||
    (s.myCore.ready s.curCtx (64 + gd.g.toNat) && !(s.me.dbgPend.getLsbD 0 && s.myCore.predPending s.curCtx gd.g.toNat) &&
      !s.me.mark gd.g.toNat)

/-- The next step is the turn of core `c`, taken in `u` (log 6, log 68): the only core with no device step open, the core whose turn is owed,
or the core that the free choice names. Nothing else of the state differs. -/
def State.coreTurn (s : State) (c : Nat) (u : State) : Prop :=
  (s.openSteps = [] ∧ s.running = [c] ∧ u = s) ∨
  (¬(s.openSteps = [] ∧ s.running.length ≤ 1) ∧ s.running.contains c = true ∧
    ((∃ rest, s.owed = .core c :: rest ∧ u = { s with owed := rest }) ∨
     (s.owed = [] ∧ s.patience ≠ 0 ∧ s.openSteps[Config.pick s.tick % (s.openSteps.length + 1)]? = none ∧
      s.running[Config.pick (s.tick + 1) % s.running.length]? = some c ∧ u = { s with tick := s.tick + 2, patience := s.patience - 1 })))

/-- A scalar-guarded instruction that needs level `lvl` goes on: level, guard, registers read (R29, R65). -/
def State.goes (s : State) (lvl : Nat) (gd : Guard) (rd : List Nat) : Bool :=
  decide (lvl ≤ s.me.level) && s.guardOk gd && s.me.guardTrue gd && rd.all (s.myCore.ready s.curCtx)

/-- A vector instruction goes on: its mask register and its scalars may be read (R29). -/
def State.goesV (s : State) (gd : Guard) (rd : List Nat) : Bool :=
  (gd.g == 31 || s.myCore.ready s.curCtx (64 + gd.g.toNat)) && rd.all (s.myCore.ready s.curCtx)

/-- Predicates read at check 6 and, where exactness is asked for, check 7 (R55, R128). -/
def State.predsPass (s : State) (ps exact : List Nat) : Bool :=
  (ps.all fun n => !(s.me.dbgPend.getLsbD 0 && s.myCore.predPending s.curCtx n)) && exact.all fun n => !s.me.mark n

/-- Rows and predicates pass checks 4 to 8 of R30, with nothing that holds them. -/
def State.rowsPass (s : State) (us : List RowUse) (preds exactPreds : List Nat) : Bool :=
  (us.all fun u => !s.me.loadingGran (s.me.rowGran s.curCtx u.ref) u.lanes) && (s.bankOff us).isNone && (s.bankAsleep us).isEmpty &&
  (s.viewOut us).isNone && !s.myCore.rangeHold (s.useParts us) && (s.pendingWord us).isNone &&
  s.predsPass preds exactPreds && (s.boundedUse us).isNone &&
  (us.all fun u => match u.ref with
    | .acc n => !(u.poison && sidePoison (s.myCore.side (s.me.accRow n)))
    | .win _ _ => true) &&
  us.all fun u => !(u.read && (s.badIn u.ref u.lanes).isSome)

/-! ## What an issued instruction leaves (R58, R62, R82, R124) -/

/-- The instruction has issued and control has gone past its `len` words. -/
def State.stepped (u : State) (len : Nat) : State := u.modMy fun x => (x.countIssue u.curCtx).advance u.curCtx len

/-- The instruction has issued and has set the program counter itself. -/
def State.jumped (u : State) : State := u.modMy fun x => x.countIssue u.curCtx

/-- The instruction has raised a trap at issue (R129). -/
def State.trapped (s : State) (cause : Nat) (info : Word) : State :=
  (s.modMy fun x => { x with last := s.curCtx, issued := true }).raise s.curCore s.curCtx cause info s.me.pc

/-- `t` differs from `s` in the issuing core alone. -/
def State.sameElsewhere (s t : State) : Prop :=
  { t with cores := s.cores } = s ∧ ∀ c, c ≠ s.curCore → t.core c = s.core c

/-- Context `k` and turn taking aside, a core is as it was: `last` and `issued` say who issued; other contexts change in `yieldTo`. -/
def Core.sameBut (x y : Core) (k : Nat) : Prop :=
  { y with ctxs := x.ctxs, last := x.last, issued := x.issued } = x ∧
  ∀ j, j ≠ k → { y.ctx j with yieldTo := (x.ctx j).yieldTo } = x.ctx j

/-- What issuing moves on in a context, left out: program counter, delay slots, loop levels, spin detector, the counts of the
reservation and of pending accesses, turn taking. Everything else is as it was. -/
def Ctx.sameBut (x y : Ctx) : Prop :=
  { y with pc := x.pc, delay := x.delay, loops := x.loops, spin := x.spin, resv := x.resv, acc := x.acc, yieldTo := x.yieldTo } = x

/-- No register, flag, status word, memory byte or anything else of the machine has changed but what issuing itself moves on. -/
def State.onlyIssued (s t : State) : Prop :=
  s.sameElsewhere t ∧ s.myCore.sameBut t.myCore s.curCtx ∧ s.me.sameBut t.me

/-- What a scalar result leaves: register `d` holds `v` unless it is s0, every other register, every predicate and mark, every status,
control and trap word, every row, every byte of memory is as it was. -/
def State.scalarDone (s t : State) (d : Nat) (v : Word) : Prop :=
  (∀ n, t.me.rd n = if n = 0 then 0 else if n = d then v else s.me.rd n) ∧
  s.sameElsewhere t ∧ s.myCore.sameBut t.myCore s.curCtx ∧
  ({ s.me with sregs := t.me.sregs, busy := t.me.busy } : Ctx).sameBut t.me ∧ ∀ a, t.byte a = s.byte a

/-- What a predicate result that lands in `lat` cycles leaves: predicate `d` holds `v` with mark `m`, p0 stays all ones and unmarked,
results in flight that land no later no longer write `d` (R127), everything else is as it was. -/
def State.predDone (s t : State) (d : Nat) (v : Lanes) (m : Bool) (lat : Nat) : Prop :=
  (∀ n, t.me.rdP n = if n = 0 then allLanes else if n = d then v else s.me.rdP n) ∧
  (∀ n, t.me.mark n = if n = 0 then false else if n = d then m else s.me.mark n) ∧
  s.sameElsewhere t ∧ (s.myCore.cover s.curCtx d lat allLanes).sameBut t.myCore s.curCtx ∧
  ({ s.me with preds := t.me.preds, marks := t.me.marks, busy := t.me.busy } : Ctx).sameBut t.me ∧ ∀ a, t.byte a = s.byte a

/-! ## The results of the scalar tables (R66, R70), as the statements list them: instruction, value, latency -/

/-- Results of two registers. -/
def scalarResults2 (s : State) (f : RF) : List (Instr × Word × Nat) :=
  let a := s.getS f.a
  let b := s.getS f.b
  [(.add f, a + b, 1), (.sub f, a - b, 1), (.mul f, a * b, 3), (.mulh f, mulHighS a b, 3), (.mulhw f, mulHighU a b, 3),
   (.div f, divS a b, 34), (.divw f, divU a b, 34), (.rem f, remS a b, 34), (.remw f, remU a b, 34), (.and f, a &&& b, 1),
   (.or f, a ||| b, 1), (.xor f, a ^^^ b, 1), (.andn f, a &&& ~~~b, 1), (.shl f, shiftL a b, 1), (.shr f, shiftR a b, 1),
   (.sar f, shiftA a b, 1), (.rot f, rotL a b, 1), (.min f, minS a b, 1), (.max f, maxS a b, 1), (.minw f, minU a b, 1),
   (.maxw f, maxU a b, 1), (.addx f, a + (b <<< f.fn.toNat), 1)]

/-- Results of one register. -/
def scalarResults1 (s : State) (f : RF) : List (Instr × Word × Nat) :=
  let a := s.getS f.a
  [(.clz f, clz a, 1), (.ctz f, ctz a, 1), (.popc f, popc a, 1), (.sext f, extend true (tyWidth f.ty.toNat) a, 1),
   (.zext f, extend false (tyWidth f.ty.toNat) a, 1), (.mov f, a, 1),
   (.bfx f, extend (f.ty == 3) f.fn.toNat (a >>> f.c.toNat), 1), (.fabs f, a &&& 0x7FFFFFFF, 1),
   (.fneg f, (a &&& 0xFFFFFFFF) ^^^ 0x80000000, 1)]

/-- Results of a register and an immediate. -/
def scalarResultsI (s : State) (f : IF) : List (Instr × Word × Nat) :=
  let a := s.getS f.a
  let m := f.x.signExtend 64
  [(.addi f, a + m, 1), (.andi f, a &&& m, 1), (.ori f, a ||| m, 1), (.li f, m, 1)]

/-- Rounded f32 results of two registers (R70): the exact value, rounded once under RM with the generator word of the cycle. -/
def fpResults (s : State) (f : RF) : List (Instr × Fv × Nat) :=
  let a := s.f32 f.a
  let b := s.f32 f.b
  let rm := f.rm.toNat
  [(.fadd f, Fv.add rm a b, 4), (.fsub f, Fv.add rm a b.negate, 4), (.fmul f, Fv.mul a b, 4), (.fdiv f, Fv.div a b, 14),
   (.fmin f, Fv.pick false a b, 4), (.fmax f, Fv.pick true a b, 4)]

/-- Predicate results of two predicates (R72, R54). -/
def predResults2 (s : State) (f : RF) : List (Instr × Lanes) :=
  let a := s.me.rdP f.a.toNat
  let b := s.me.rdP f.b.toNat
  [(.pand f, a &&& b), (.por f, a ||| b), (.pxor f, a ^^^ b), (.pandn f, a &&& ~~~b)]

/-! ## Rows (R92-R97) -/

/-- Rows that an elementwise instruction names: its sources, refused when bounded where `exact` says so, and its destination. -/
def State.elementUses (s : State) (f : RF) (b c exact : Bool) : List RowUse :=
  let m := s.me.mask f.gd
  let use := fun (n : BitVec 6) => if exact then useExact (s.me.vRow n.toNat) m else useRead (s.me.vRow n.toNat) m
  ([use f.a] ++ (if b && !scalarB f then [use f.b] else []) ++ (if c then [use f.c] else [])) ++ [useWrite (s.me.vRow f.d.toNat) m]

/-- Scalars read as source B. -/
def scalarRegs (f : RF) : List Nat := if scalarB f then [f.b.toNat] else []

/-- Two-source elementwise instructions of a type: instruction, whether a bounded source is refused, element type, latency, bound of
the result, and the result of element k from the elements of A and B. -/
def elementResults (s : State) (f : RF) :
    List (Instr × Bool × Nat × Nat × ((a b c ma mb : Option Rat) → Option Rat) × (Nat → Nat → Nat → Nat)) :=
  let ty := f.ty.toNat
  let w := tyWidth ty
  let ex := !isFloatTy f.ty
  [(.vadd f, ex, ty, 3, boundSum, fun k a b => arith f (fun a b _ => Fv.add f.rm.toNat a b) (fun a b => a + b) s k a b 0),
   (.vsub f, ex, ty, 3, boundSum, fun k a b => arith f (fun a b _ => Fv.add f.rm.toNat a b.negate) (fun a b => a - b) s k a b 0),
   (.vmul f, ex, ty, 4, boundProd, fun k a b => arith f (fun a b _ => Fv.mul a b) (fun a b => a * b) s k a b 0),
   (.vmin f, ex, ty, 3, boundMax, fun _ a b => pickElem ty false a b), (.vmax f, ex, ty, 3, boundMax, fun _ a b => pickElem ty true a b),
   (.vand f, true, 6, 3, boundMax, fun _ a b => a &&& b), (.vor f, true, 6, 3, boundMax, fun _ a b => a ||| b),
   (.vxor f, true, 6, 3, boundMax, fun _ a b => a ^^^ b), (.vshl f, true, ty, 3, boundMax, fun _ a b => if w ≤ b then 0 else a * 2 ^ b % 2 ^ w),
   (.vshr f, true, ty, 3, boundMax, fun _ a b => if w ≤ b then 0 else a / 2 ^ b),
   (.vsar f, true, ty, 3, boundMax, fun _ a b => wrapInt w (sInt w a / ((2 ^ min b w : Nat) : Int)))]

/-- A row result has been scheduled: in `lat` cycles the masked-in lanes of the row take `data` and its granules `tag`; until it lands
nothing else has changed. -/
def State.rowComing (s : State) (gd : Guard) (lat : Nat) (d : BitVec 6) (data : Row) (tag : Tag) : State :=
  (s.landRow lat (s.me.vRow d.toNat) (s.me.mask gd) data tag).stepped 1

/-! ## Memory accesses (R75-R77) -/

/-- What a program's write of `v` leaves in a byte: its read-only bits stay as they are (R2). -/
def State.wrote (s : State) (a : Nat) (v : Byte) : Byte := (s.byte a &&& s.roByte a) ||| (v &&& ~~~(s.roByte a))

/-- A scalar access passes checks 9 to 11 of R30 and the interlocks: its address has physical address `pa` and attributes `at'`. -/
def State.accessPass (s : State) (cl : AccClass) (ea : Word) (n sc : Nat) (rel : Bool) (pa : Nat) (at' : Attr) : Bool :=
  ea.toNat % n == 0 && !eaTop ea && eaAlias ea < 7 && (eaAlias ea == 0 || !cl.plain) &&
  s.look s.curCore s.curCtx ea == .ok pa at' && (eaAlias ea == 0 || at'.c) &&
  s.inDomain (modOf pa) &&
  copiesOk pa (if at'.d then s.leafHold s.curCore s.curCtx ea else 0) (dieOf s.curCore) cl.writes && !s.markedByte pa &&
  (!cl.reads || at'.r) && (!cl.writes || at'.w) && (!cl.brings || !at'.a) &&
  !(s.me.inStep && (cl.plain && 1 < sc || cl == .store && !s.ownSlice s.curCore pa)) &&
  !(!cl.inWindow ea && (s.retiredByte (s.metAt cl ea pa at') || s.anyPoison (s.metAt cl ea pa at') n)) &&
  (s.me.discard.isNone || !(rel || s.discardMod == some (modOf pa))) &&
  !s.myCore.rangeHold (s.sliceParts pa n cl.writes)

/-- No discarded write is waiting to be told (R416). -/
def State.noDiscard (s : State) : Bool := s.me.discard.isNone

/-- What a release waits for has happened: no discard to tell, every earlier access performed, no engine command but retire copies and no
command of a compute-capable block (R168, R192). -/
def State.releasePass (s : State) : Bool :=
  s.me.discard.isNone && s.me.acc.isEmpty && (s.myCore.cmds.all fun m => m.ctx != s.curCtx || m.retire.isSome) && !s.stackBusy s.curCore s.curCtx 0xFFFF

/-- An acquire of `n` bytes would read at once: everything that must come first has performed (R189-R193). -/
def State.readReady (s : State) (ea : Word) (pa n : Nat) (at' : Attr) : Bool :=
  s.orderOk (s.newAccess (.load 0 false) ea [8 * pa] (8 * n) at' 0 0 3 true false (modOf pa))

/-- A trap whose trap.info no rule states: a free value (log 20). -/
def State.trappedFree (s : State) (cause : Nat) : State := ({ s with tick := s.tick + 1 } : State).trapped cause (Config.word s.tick 0)

/-! ## What engines write (R229, R231) -/

/-- The home slices hold the translations by which `n` pieces of `w` bytes from `va` on lie at `d`, away from replicated pages, and nothing
refuses an engine's write there, of data of pages with A where `needA` says so; `own` is the core whose slice bounds it, if one does
(R168). -/
def State.placesAt (s : State) (own : Option Nat) (space va w n : Nat) (needA : Bool) (d : Nat → Nat) : Prop :=
  ∀ i, i < n → s.inSlice space (va + w * i) = true ∧ (∃ a, s.reach space (va + w * i) true = .ok (d i) a 0) ∧
    (s.writeGot own space (va + w * i) needA).bad = 0

/-- `t` holds `n` pieces at `d`, written in their order: piece `i` is `bs i`, read-only bits aside (R2), but where a later piece overlaps
it; every other byte is that of `s`. -/
def State.piecesIn (s t : State) (n : Nat) (d : Nat → Nat) (bs : Nat → List Byte) : Prop :=
  (∀ b, (∀ i, i < n → b < d i ∨ d i + (bs i).length ≤ b) → t.byte b = s.byte b) ∧
  ∀ i, i < n → (∀ j, i < j → j < n → d j + (bs j).length ≤ d i ∨ d i + (bs i).length ≤ d j) →
    ∀ x v, (bs i)[x]? = some v → t.byte (d i + x) = s.wrote (d i + x) v

/-- Piece `i` of 64 bytes of some bytes. -/
def piece64 (bs : List Byte) (i : Nat) : List Byte := (bs.drop (64 * i)).take 64

/-- Every place of some reads gives its bytes, none of them from a page with A. -/
def Got.clean (g : Got) : Bool := g.bad == 0 && !g.a

/-- The bytes of table elements with those of a source row added (R146). -/
def addBytes (ty : Nat) (old add : List Byte) : List Byte :=
  (List.zip (elemsOf (tyWidth ty) old) (elemsOf (tyWidth ty) add)).flatMap fun p => leBytes (tyWidth ty / 8) (addRound ty ty p.1 p.2)

/-! ## Engine commands (R227-R229, R244) -/

/-- A command may enter engine `e`: an event term that is configured, no discard to tell, and `n` the lowest free slot. -/
def State.slotFree (s : State) (f : EF) (e n : Nat) : Bool :=
  !(f.ev && (s.myCore.term f.term.toNat).masks == 0) && (s.me.discard.isNone || !f.rl) && (s.myCore.freeSlots e).head? == some n

/-- The command `m` has entered slot `n` of engine `e`: the slot is in use with its generation risen and its status clear, the command
stands behind those queued, its handle in D (R186, R228). -/
def State.entered (s : State) (f : EF) (e n : Nat) (m : Cmd) : State :=
  let h := mkHandle s.curCore e ((s.myCore.slot e n).gen + 1) n
  (((s.modMy fun x => (x.takeSlot e n m.owner).enqueue { m with slot := some n, handle := h }).putS f.r.d.toNat h 1).noteStore).stepped 2

/-- The footprint of a copy or gather command as its context issues it (R185, R241). -/
def State.moveParts (s : State) (f : EF) (i : Instr) : List Part :=
  s.cmdParts s.curCore s.me.space (grantBase s.me.grant) i (s.vals f)

/-- Copy and gather commands: instruction, engine number, queue, registers read. -/
def moveCommands (f : EF) : List (Instr × Nat × Engine × List Nat) :=
  let abc := [f.r.a.toNat, f.r.b.toNat, f.r.c.toNat]
  [(.cpy f, 0, .copy, abc ++ [(Machine.EF.lsrc f).toNat, (Machine.EF.ldst f).toNat]), (.cpyFill f, 0, .copy, abc),
   (.cpyFrom f, 0, .copy, abc), (.cpyTo f, 0, .copy, abc), (.gath f, 1, .gather, abc), (.gathSum f, 1, .gather, abc),
   (.scad f, 1, .gather, abc)]

/-- COLL commands: instruction, whether it broadcasts. -/
def collCommands (f : EF) : List (Instr × Bool) := [(.collBcast f, true), (.collSum f, false), (.collMax f, false), (.collMin f, false)]

/-- A matrix command may enter its queue: an event term that is configured, no discard to tell, a place in the queue (R246). -/
def State.matrixFree (s : State) (f : EF) : Bool :=
  !(f.ev && (s.myCore.term f.term.toNat).masks == 0) && (s.me.discard.isNone || !f.rl) &&
  decide ((s.myCore.cmds.filter fun m => m.engine == .matrix).length < 32)

/-- The matrix command `m` stands behind those queued, and `mark` has been done to the core at issue. -/
def State.enteredMatrix (s : State) (m : Cmd) (mark : Core → Core) : State :=
  ((s.modMy fun x => mark (x.enqueue m)).noteStore).stepped 2

/-- The limits of an MSTN (R247). -/
def State.stationLegal (s : State) (f : EF) : Bool :=
  let m0 := Machine.EF.m0 f
  let nm := (f.eng.extractLsb' 28 6).toNat
  let ng := (f.eng.extractLsb' 18 10).toNat
  let lsg := (f.eng.extractLsb' 15 3).toNat
  1 ≤ nm && nm ≤ 32 && m0 + nm ≤ 64 && 1 ≤ ng && ng ≤ 21 * nm && lsg ≤ 5 && ng % 2 ^ lsg == 0 && f.eng.extractLsb' 0 15 == 0 &&
  !s.myCore.runMarked m0 nm && !s.macroRetired s.curCore m0 nm && s.myCore.markedMacros + nm ≤ 32

/-- The limits of an MMS over region `r` (R250). -/
def passLegal (f : EF) (r : Region) : Bool :=
  let ng := Machine.EF.mmsNg f
  let nv := Machine.EF.mmsNv f
  f.eng.extractLsb' 0 8 == 0 && Machine.EF.g0 f % 2 ^ r.lsg == 0 && ng % 2 ^ r.lsg == 0 && 1 ≤ ng &&
  ng ≤ (if f.r.ty = 9 then 12 else 24) && Machine.EF.g0 f + ng ≤ r.ng && 1 ≤ nv && nv ≤ 1024

/-- A crossbar command may enter the queue of its tile (R315). -/
def State.tileFree (s : State) (f : EF) : Bool :=
  let t := Machine.EF.tileNo f
  !(f.ev && (s.myCore.term f.term.toNat).masks == 0) && (s.me.discard.isNone || !f.rl) && decide (s.myCore.tileQ t < 8)

/-- Crossbar commands that enter a queue: instruction, level, registers read. -/
def tileCommands (f : EF) : List (Instr × Nat × List Nat) :=
  let a := f.r.a.toNat
  let c := f.r.c.toNat
  let d := f.r.d.toNat
  [(.xmv f, 0, [d, a]), (.xmvt f, 0, [d, a]), (.xupd f, 0, [d, a, f.r.b.toNat, c]), (.xdep f, 0, [c]), (.xdepRst f, 0, [c]),
   (.xcal f, 1, []), (.xsym f, 1, [a]), (.xrd f, 0, [a]), (.xpgm f, 1, [a]), (.xstatBlk f, 0, [a])]

/-- A control block of `n` granules at `a` may be read at once: outside a tile step, own accesses performed, no engine in its way; its
bytes, and whether a page of it carries A (R355). -/
def State.blockReady (s : State) (a : Word) (n : Nat) (bs : List Byte) (apx : Bool) : Bool :=
  eaAligned a && eaPlain a && !s.me.inStep && s.me.acc.isEmpty &&
  !s.myCore.rangeHold (s.rangeParts s.curCore s.me.space a.toNat (64 * n) false) && s.block a n == .ok bs apx

/-- The commands that carry a request block: instruction, granules, the block's limits, where it writes (R364-R366). -/
def requestCommands (s : State) (f : EF) : List (Instr × Nat × (List Byte → Bool) × (List Byte → Word × Nat)) :=
  [(.strd f, 1, s.strdLimits, fun bs => (wordAt bs 24, s.strdBytes bs)),
   (.mdec f, 1, s.mdecLimits, fun bs => (wordAt bs 24, (fld bs 4 4 - 1) * mdecPitch bs + surface (mdecRowp bs) (mdecH bs))),
   (.mrsz f, 2, mrszOk (Machine.EF.outBytes f),
     fun bs => (BitVec.ofNat 64 (resizeOf bs).dst, (resizeOf bs).outLen (Machine.EF.outBytes f)))]

/-- A fault-ring answer is done: its record leaves the list of placed ones and its slot is free (R285). -/
def State.answered (s : State) (d n a : Nat) (r : FaultRec) : State :=
  (s.setDie d { s.die d with placed := (s.die d).placed.eraseIdx n }).storeAt none a (leBytes 8 r.hdr) none

/-- A counter of an Umaot link (R417). -/
def State.linkAt (s : State) (l k : Nat) : Nat := Tab.get (fun _ => 0) s.koyth.links (8 * l + k)

/-- A tile's command reads `n` bytes at `a` as they stand: no party is kept from them and none of them is undefined (R4, R211, R419). -/
def State.tilePlain (s : State) (a n : Nat) : Prop := ∀ i, i < n → placeOk (a + i) false = true ∧ s.blurred (a + i) = false

/-- Counter `n` of a reward join unit (R397). -/
def State.rjCounterOf (s : State) (d n : Nat) : Nat := Tab.get (fun _ => 0) (s.die d).unit.counters n

/-- From `s` to `t` the unit of die `d` has counted the events of the counters `ns`, one each, stored each counter it has raised at its
place, and written nothing else (R397). -/
def State.rjCounted (s t : State) (d : Nat) (ns : List Nat) : Prop :=
  (∀ n, n ∉ ns → t.rjCounterOf d n = s.rjCounterOf d n) ∧
  (∀ n, n ∈ ns → t.rjCounterOf d n = (s.rjCounterOf d n + ns.count n) % 2 ^ 64 ∧
    t.readN (s.rjCounter d n) 8 = t.rjCounterOf d n) ∧
  ∀ b, (∀ n, n ∈ ns → b < s.rjCounter d n ∨ s.rjCounter d n + 8 ≤ b) → t.byte b = s.byte b

/-- Every core is as reset leaves it, but the conductances of its tiles, which are those it had (R310). -/
def State.keepsTiles (s t : State) : Prop :=
  ∀ c, { t.core c with tiles := [] } = Core.init c ∧ ∀ k, k < 4 →
    ((t.core c).tile k).drip = ((s.core c).tile k).drip ∧ ((t.core c).tile k).stone = ((s.core c).tile k).stone ∧
    ((t.core c).tile k).calv = false ∧ ((t.core c).tile k).rcal = false ∧ ((t.core c).tile k).lf = false ∧
    ((t.core c).tile k).gain = 0 ∧ ∀ j, ((t.core c).tile k).sym j = 0

/-- A request may be taken up: its pair is served, its TYPE is `type`, no earlier one of the pair waits (R402, R404). -/
def State.takes (s : State) (q : HostReq) (type : Nat) : Bool := s.hears q.qp && fld q.msg 0 2 == type && !s.qpWaits q.qp

end Sys2Proof.Machine
end

