-- ==== Sys2Proof/Certificates/Slice0/Obligations.lean ====
section
/-! DEFINITION. The statements for the provers (OBLIGATIONS.json lists them). Each says which rules of the spec it states or rests
on; `goes`, `goesV`, `rowsPass`, `accessPass` and their like (Safety.lean) are the conditions on state and operands under which an
instruction is not held, not refused and not turned away. -/

open Sys2Proof Sys2Proof.Machine

/-! ## Encoding (spec/02 R20-R34) -/

/-- Decoding the words of any well-formed instruction gives it back, with every operand at every value its encoding admits. -/
def Obligations.DecodeInvertsEncode : Prop :=
  ∀ (i : Instr) (ws : List Word), i.wf = true → encode i = some ws →
    decode (ws.headD 0) (ws.drop 1).head? = .instr i ws.length

/-- What decodes to an instruction is well formed, and is the word or words that the encoder writes for it: no bit is dropped and no
reserved encoding is taken for a neighbour. -/
def Obligations.EncodeInvertsDecode : Prop :=
  ∀ (w v : Word) (i : Instr) (n : Nat), decode w (some v) = .instr i n →
    i.wf = true ∧ ((n = 1 ∧ encode i = some [w]) ∨ (n = 2 ∧ encode i = some [w, v]))

/-- Words that the spec spells out decode to the instructions they stand for (R34, R61, R64, R66, R117, R259). -/
def Obligations.SpelledWords : Prop :=
  decode 0x0100001F00000000 none = .instr (.nop ⟨.always, 0, 0, 0, 0, 0, 0, 0⟩) 1 ∧
  decode 0x0D10401F00000064 none = .instr (.addi ⟨.always, 4, 4, 0, 100⟩) 1 ∧
  decode 0x0700201F00000003 none = .instr (.loopr ⟨.always, 0, 2, 0, 0, 0, 3⟩) 1 ∧
  decode 0x6F08311F02800000 none = .instr (.vadd ⟨.always, 2, 3, 4, 0, 10, 0, 0⟩) 1 ∧
  decode 0x6000001F00000003 none = .instr (.sysc ⟨.always, 0, 0, 0, 3⟩) 1

/-- A word with OP 0x00 or a reserved opcode is no instruction: it raises trap 0x01 with the word as trap.info and has no effect of
its own (R33, R34).
Concludes that exec answers a next state for: illegalEncoding. -/
def Obligations.ReservedOpcodeTraps : Prop :=
  ∀ (s : State) (w : Word) (v : Option Word), formatOf (opOf w) = none →
    decode w v = .illegal .reservedOpcode w ∧ exec (.illegalEncoding w) s = .next (s.trapped 0x01 w)

/-! ## The step, its invariant, reset -/

/-- A step runs the decoded instruction: with nothing from outside and no device step due, when it is the turn of a core, one of any number
that run (which core and which open device step comes next is the model's free choice, log 6, log 68), whose context `k` is chosen, a step
is `exec` of what the words at the program counter decode to, of the latched slot word between a BT and its slots
(R59), or the trap of an illegal encoding (R33); the instruction cache has kept the words (R13), which changes nothing else, and the
announcements that follow every step come after it (R216, R221). -/
def Obligations.StepRunsDecoded : Prop :=
  ∀ (s v : State) (c k : Nat), s.koyth.state ≠ 3 → s.inputs = [] → s.startStep = none → s.due = none → s.coreTurn c v →
    (s.core c).issued = false → (s.core c).chosen = some k →
    let t : State := { v with curCore := c, curCtx := k }
    (t.me.delay = none → ∀ w, t.fetch c k t.me.pc = .word w → let u := t.keepCode c k t.me.pc w
      (∀ i, decode w none = .instr i 1 → step s = settleOut (exec i u)) ∧
      (∀ why x, decode w none = .illegal why x → step s = settleOut (exec (.illegalEncoding x) u)) ∧
      (decode w none = .needWord1 → ∀ v, t.fetch c k (t.me.pc + 8) = .word v → ∀ i, decode w (some v) = .instr i 2 →
        step s = settleOut (exec i (u.keepCode c k (t.me.pc + 8) v)))) ∧
    (∀ d, t.me.delay = some d → ∀ i, decode (if d.left = 2 then d.w1 else d.w2) none = .instr i 1 → step s = settleOut (exec i t)) ∧
    ∀ (a w : Word) (x : Nat), { t.keepCode c k a w with cores := t.cores, tick := t.tick } = t ∧
      { (t.keepCode c k a w).core x with icache := (t.core x).icache } = t.core x

/-- Every step keeps memory in its canonical form: addresses strictly rising, no listed byte equal to what an unlisted one reads as. -/
def Obligations.StepKeepsMemoryForm : Prop :=
  ∀ s t : State, s.Inv → step s = .next t → t.Inv

/-- Memory right after reset has the canonical form. -/
def Obligations.ResetMemoryForm : Prop := State.reset.Inv

/-! ## Issue (R29, R30, R58, R62, R124) -/

/-- Issuing an instruction and stepping past it changes no register, predicate, mark, status, control or trap word, no row, no byte
of memory and nothing of another core; outside a loop's last word and a delay slot the program counter moves by its words, and after
the second slot it goes to the latched target (R58). NOP does this alone, whatever its guard (R56).
Concludes that exec answers a next state for: nop. -/
def Obligations.SteppingPast : Prop :=
  (∀ (u : State) (len : Nat), u.onlyIssued (u.stepped len) ∧ u.onlyIssued u.jumped ∧ (∀ a, (u.stepped len).byte a = u.byte a) ∧
     (u.me.delay = none → (∀ l, (u.me.loop l).act = true → covers u.me.pc len (u.me.loop l).endw = false) →
       (u.stepped len).me.pc = u.me.pc + BitVec.ofNat 64 (8 * len))) ∧
  (∀ (u : State) (d : Delay), u.me.delay = some d →
     (d.left = 2 → (u.stepped 1).me.pc = u.me.pc + 8 ∧ (u.stepped 1).me.delay = some { d with left := 1 }) ∧
     (d.left = 1 → d.taken = true → (u.stepped 1).me.pc = d.target ∧ (u.stepped 1).me.delay = none)) ∧
  (∀ (s : State) (f : RF), s.guardOk f.gd = true → exec (.nop f) s = .next (s.stepped 1))

/-- A scalar-guarded instruction whose guard is false advances the program counter, by its one word or the two of an engine instruction,
and has no other effect (R29), where its level is allowed (R30): every such instruction but BT and BTL, which latch their slots, and LOOP
and LOOPR, which leave their loop (`Branches`, `Loops`). -/
def Obligations.FalseGuard : Prop :=
  ∀ (s : State) (f : RF) (g : IF) (m : MF) (l : LF) (e : EF), s.guardOk f.gd = true → s.me.guardTrue f.gd = false →
    g.gd = f.gd → m.gd = f.gd → l.gd = f.gd → e.r.gd = f.gd →
    (∀ i ∈ [Instr.nop f, .ptbr f, .ptb g, .lbrk l, .trap g, .brk g, .sysc g, .done f, .add f, .sub f, .mul f, .mulh f, .mulhw f, .div f,
        .divw f, .rem f, .remw f, .and f, .or f, .xor f, .andn f, .shl f, .shr f, .sar f, .rot f, .clz f, .ctz f, .popc f, .min f, .max f,
        .minw f, .maxw f, .sext f, .zext f, .mov f, .sel f, .cmp f, .addx f, .bfx f, .bfi f, .addi g, .andi g, .ori g, .li g, .lih g,
        .cmpi g], exec i s = .next (s.stepped 1)) ∧
    (∀ i ∈ [Instr.fadd f, .fsub f, .fmul f, .ffma f, .fdiv f, .fsqrt f, .fmin f, .fmax f, .fabs f, .fneg f, .fcmp f, .fcvt f, .psetClear f,
        .psetSet f, .psetGroup f, .pand f, .por f, .pxor f, .pandn f, .pnot f, .pfirst f, .pcnt f, .plen f, .vext f, .setvwV f, .setvwT f,
        .tld m, .tcfgInv f, .tcfgStat f, .admitRow f, .admitView f], exec i s = .next (s.stepped 1)) ∧
    (∀ i ∈ [Instr.mbr g, .mbw g, .ld m, .lds m, .st m, .ldx m, .stx m, .aadd m, .amin m, .amax m, .aminw m, .amaxw m, .aand m, .aor m,
        .axor m, .axch m, .acas m, .fence m, .fencel m, .fenceh m, .rngSeedWrite g, .engPoisonClear g, .viewWordWrite g],
      exec i s = .next (s.stepped 1)) ∧
    (∀ i ∈ [Instr.spawn f, .spawnG f, .join f, .waitf f, .yield f, .yieldQ f, .renqCpy f, .renqGat f, .rngtCfg f, .rngt f, .pipewGet f,
        .pipewPut f, .piperGet f, .piperPut f, .bar f, .barCfg f, .gbar f, .walk f, .sendh f], exec i s = .next (s.stepped 1)) ∧
    (readLevel g.x.toNat ≤ s.me.level → exec (.mfc g) s = .next (s.stepped 1)) ∧
    ((if (g.x.extractLsb' 8 2).toNat = s.curCtx then 0 else 1) ≤ s.me.level → ∀ i ∈ [Instr.pwrbOn g, .pwrbRet g, .pwrbOff g],
      exec i s = .next (s.stepped 1)) ∧
    (1 ≤ s.me.level → ∀ i ∈ [Instr.mtc g, .accGrantWrite g, .loopCounterWrite g, .branchTargetWrite g, .xbGainWrite g, .xbSymWrite g,
        .tlbiPage m, .tlbiAll m], exec i s = .next (s.stepped 1)) ∧
    (1 ≤ s.me.level → (s.me.trapCause.extractLsb' 8 2).toNat ≤ s.me.level → exec (.eret f) s = .next (s.stepped 1)) ∧
    (∀ i ∈ [Instr.cpy e, .cpyFill e, .cpyFrom e, .cpyTo e, .cpyw e, .cpywAll e, .ccan e, .cpoll e, .gath e, .gathSum e, .scad e,
        .collBcast e, .collSum e, .collMax e, .collMin e, .evcfgCnt e, .evcfgTerm e, .evarm e, .evarmClr e, .evarmStat e, .mstn e, .mldw e,
        .mms e, .scacc e, .mrls e, .mhintMms e, .mhintXmv e], exec i s = .next (s.stepped 2)) ∧
    (∀ i ∈ [Instr.xmv e, .xmvt e, .xupd e, .xdep e, .xdepRst e, .xrd e, .xstat e, .xstatWait e, .xstatBlk e, .pcfg e, .rjcfgVer e,
        .rjseal e, .rjsend e, .rjtake e, .strd e, .mdec e, .mrsz e], exec i s = .next (s.stepped 2)) ∧
    (1 ≤ s.me.level → ∀ i ∈ [Instr.xcal e, .xsym e, .xpgm e, .rjcfg e], exec i s = .next (s.stepped 2))

/-! ## Scalar instructions (spec/03 R65-R71) -/

/-- The integer instructions (R65, R66, R67): of two registers, of one, of a register and an immediate, and those that read their
destination or a predicate (LIH, BFI, SEL): the result stands in s[D], one reader latency later, unless D is s0; nothing else changes
but the program counter and the marks of issue. The functions as numbers: products and quotients in the integers, shifts
past the width, counts of bits.
Concludes that exec answers a next state for: add, addi, sub, mul, mulh, mulhw, div, divw, rem, remw, and, andi, or, ori, xor, andn, shl,
shr, sar, rot, clz, ctz, popc, min, max, minw, maxw, sext, zext, li, lih, mov, sel, addx, bfx, bfi, fabs, fneg. -/
def Obligations.ScalarResults : Prop :=
  (∀ (s : State) (f : RF) (g : IF),
     (s.goes 0 f.gd [f.a.toNat, f.b.toNat] = true → ∀ p ∈ scalarResults2 s f,
       exec p.1 s = .next ((s.putS f.d.toNat p.2.1 p.2.2).stepped 1) ∧
       s.scalarDone ((s.putS f.d.toNat p.2.1 p.2.2).stepped 1) f.d.toNat p.2.1) ∧
     (s.goes 0 f.gd [f.a.toNat] = true → ∀ p ∈ scalarResults1 s f,
       exec p.1 s = .next ((s.putS f.d.toNat p.2.1 p.2.2).stepped 1) ∧
       s.scalarDone ((s.putS f.d.toNat p.2.1 p.2.2).stepped 1) f.d.toNat p.2.1) ∧
     (s.goes 0 g.gd [g.a.toNat] = true → ∀ p ∈ scalarResultsI s g,
       exec p.1 s = .next ((s.putS g.d.toNat p.2.1 p.2.2).stepped 1) ∧
       s.scalarDone ((s.putS g.d.toNat p.2.1 p.2.2).stepped 1) g.d.toNat p.2.1)) ∧
  (∀ (s : State) (f : RF) (g : IF),
     (s.goes 0 g.gd [g.d.toNat] = true →
       exec (.lih g) s = .next ((s.putS g.d.toNat (g.x ++ (s.getS g.d).extractLsb' 0 32) 1).stepped 1)) ∧
     (s.goes 0 f.gd [f.a.toNat, f.d.toNat] = true →
       exec (.bfi f) s = .next ((s.putS f.d.toNat (fieldPut f.c.toNat f.fn.toNat (s.getS f.d) (s.getS f.a)) 1).stepped 1)) ∧
     (s.goes 0 f.gd [f.a.toNat, f.b.toNat, 64 + f.c.toNat] = true → s.predsPass [f.c.toNat] [f.c.toNat] = true →
       exec (.sel f) s =
         .next ((s.putS f.d.toNat (if (s.me.rdP f.c.toNat).getLsbD 0 then s.getS f.a else s.getS f.b) 1).stepped 1))) ∧
  ∀ a b : Word,
    mulHighS a b = BitVec.ofInt 64 (a.toInt * b.toInt / 2 ^ 64) ∧ mulHighU a b = BitVec.ofNat 64 (a.toNat * b.toNat / 2 ^ 64) ∧
    divS a b = (if b = 0 then BitVec.allOnes 64 else BitVec.ofInt 64 (a.toInt.tdiv b.toInt)) ∧
    divU a b = (if b = 0 then BitVec.allOnes 64 else BitVec.ofNat 64 (a.toNat / b.toNat)) ∧
    remS a b = (if b = 0 then a else BitVec.ofInt 64 (a.toInt.tmod b.toInt)) ∧
    remU a b = (if b = 0 then a else BitVec.ofNat 64 (a.toNat % b.toNat)) ∧
    divS (BitVec.ofInt 64 (-(2 ^ 63))) (-1) = BitVec.ofInt 64 (-(2 ^ 63)) ∧ remS (BitVec.ofInt 64 (-(2 ^ 63))) (-1) = 0 ∧
    (64 ≤ b.toNat → shiftL a b = 0 ∧ shiftR a b = 0 ∧ ∀ n, n < 64 → (shiftA a b).getLsbD n = a.getLsbD 63) ∧
    (b.toNat < 64 → ∀ n, n < 64 →
      (shiftL a b).getLsbD n = (decide (b.toNat ≤ n) && a.getLsbD (n - b.toNat)) ∧
      (shiftR a b).getLsbD n = a.getLsbD (n + b.toNat) ∧
      (shiftA a b).getLsbD n = (if n + b.toNat < 64 then a.getLsbD (n + b.toNat) else a.getLsbD 63)) ∧
    (∀ n, n < 64 → (rotL a b).getLsbD ((n + b.toNat) % 64) = a.getLsbD n) ∧
    clz 0 = 64 ∧ ctz 0 = 64 ∧
    (a ≠ 0 → a.getLsbD (63 - (clz a).toNat) = true ∧ (∀ n, 63 - (clz a).toNat < n → a.getLsbD n = false) ∧
      a.getLsbD (ctz a).toNat = true ∧ ∀ n, n < (ctz a).toNat → a.getLsbD n = false) ∧
    (popc a).toNat = ((List.range 64).filter fun n => a.getLsbD n).length ∧
    (minS a b).toInt = min a.toInt b.toInt ∧ (maxS a b).toInt = max a.toInt b.toInt ∧
    (minU a b).toNat = min a.toNat b.toNat ∧ (maxU a b).toNat = max a.toNat b.toNat

/-- Compares set every lane of p[D] to the condition of R68 and clear its mark (R54, R66, R70): CMP, CMPI and FCMP; the integer
condition codes of R68 are the signed and unsigned orders of the two words.
Concludes that exec answers a next state for: cmp, cmpi, fcmp. -/
def Obligations.Compares : Prop :=
  (∀ (s : State) (f : RF) (g : IF),
     (s.goes 0 f.gd [f.a.toNat, f.b.toNat] = true →
       let v := lanesOf (ccIntEval f.fn.toNat 64 (s.getS f.a).toNat (s.getS f.b).toNat)
       let w := lanesOf (ccFpEval f.fn.toNat (s.f32 f.a) (s.f32 f.b))
       exec (.cmp f) s = .next ((s.putP f.d.toNat v false 1).stepped 1) ∧ s.predDone ((s.putP f.d.toNat v false 1).stepped 1) f.d.toNat v false 1 ∧
       exec (.fcmp f) s = .next ((s.putP f.d.toNat w false 2).stepped 1) ∧
       s.predDone ((s.putP f.d.toNat w false 2).stepped 1) f.d.toNat w false 2) ∧
     (s.goes 0 g.gd [g.a.toNat] = true →
       exec (.cmpi g) s = .next ((s.putP g.d.toNat
         (lanesOf (ccIntEval g.b.toNat 64 (s.getS g.a).toNat (g.x.signExtend 64).toNat)) false 1).stepped 1))) ∧
  (∀ a b : Word,
     ccIntEval 0 64 a.toNat b.toNat = decide (a = b) ∧ ccIntEval 1 64 a.toNat b.toNat = decide (a ≠ b) ∧
     ccIntEval 2 64 a.toNat b.toNat = decide (a.toInt < b.toInt) ∧ ccIntEval 3 64 a.toNat b.toNat = decide (b.toInt ≤ a.toInt) ∧
     ccIntEval 4 64 a.toNat b.toNat = decide (a.toInt ≤ b.toInt) ∧ ccIntEval 5 64 a.toNat b.toNat = decide (b.toInt < a.toInt) ∧
     ccIntEval 6 64 a.toNat b.toNat = decide (a.toNat < b.toNat) ∧ ccIntEval 7 64 a.toNat b.toNat = decide (b.toNat ≤ a.toNat) ∧
     ccIntEval 8 64 a.toNat b.toNat = decide (a.toNat ≤ b.toNat) ∧ ccIntEval 9 64 a.toNat b.toNat = decide (b.toNat < a.toNat))

/-- Scalar floating point (R69, R70, R71): the exact value of each operation rounded once under RM with the generator word of the
issue cycle, in bits [31:0] of s[D] with the high half zero; FFMA rounds once; FCVT converts, and from one integer type to another,
which R71 does not state, it writes a free value (log 7).
Concludes that exec answers a next state for: fadd, fsub, fmul, ffma, fdiv, fsqrt, fmin, fmax, fcvt. -/
def Obligations.ScalarFloat : Prop :=
  ∀ (s : State) (f : RF),
    (s.goes 0 f.gd [f.a.toNat, f.b.toNat] = true → ∀ p ∈ fpResults s f,
      let v := BitVec.ofNat 64 (fmtF32.round f.rm.toNat p.2.1 s.rngWord.toNat)
      exec p.1 s = .next ((s.putS f.d.toNat v p.2.2).stepped 1) ∧ s.scalarDone ((s.putS f.d.toNat v p.2.2).stepped 1) f.d.toNat v) ∧
    (s.goes 0 f.gd [f.a.toNat, f.b.toNat, f.c.toNat] = true →
      exec (.ffma f) s = .next ((s.putS f.d.toNat (BitVec.ofNat 64 (fmtF32.round f.rm.toNat
        (Fv.add f.rm.toNat (Fv.mul (s.f32 f.a) (s.f32 f.b)) (s.f32 f.c)) s.rngWord.toNat)) 4).stepped 1)) ∧
    (s.goes 0 f.gd [f.a.toNat] = true →
      exec (.fsqrt f) s =
        .next ((s.putS f.d.toNat (BitVec.ofNat 64 (fmtF32.sqrt f.rm.toNat (s.f32 f.a) s.rngWord.toNat)) 16).stepped 1) ∧
      (fmtOf f.ty.toNat ≠ none ∨ fmtOf f.fn.toNat ≠ none → exec (.fcvt f) s =
        .next ((s.putS f.d.toNat (fcvtValue f.ty.toNat f.fn.toNat f.rm.toNat (s.getS f.a) s.rngWord.toNat) 4).stepped 1)) ∧
      (fmtOf f.ty.toNat = none → fmtOf f.fn.toNat = none → exec (.fcvt f) s =
        .next ((({ s with tick := s.tick + 1 } : State).putS f.d.toNat (Config.word s.tick 0) 4).stepped 1)))

/-! ## Predicates and votes (spec/03 R54, R55, R72, R73) -/

/-- Predicate instructions (R72, R54): the lanes of p[D] and its mark from PSET, PAND to PANDN, PNOT, PFIRST, PCNT, PLEN, and the lane
functions lane by lane; VANY and VALL land the vote of the masked lanes in every lane of p[D] 4 cycles after issue, mark cleared.
Concludes that exec answers a next state for: psetClear, psetSet, psetGroup, pand, por, pxor, pandn, pnot, pfirst, pcnt, plen, vany, vall. -/
def Obligations.PredicateResults : Prop :=
  ((∀ (s : State) (f : RF),
      (s.goes 0 f.gd [64 + f.a.toNat, 64 + f.b.toNat] = true → s.predsPass [f.a.toNat, f.b.toNat] [] = true → ∀ p ∈ predResults2 s f,
        let t := (s.putP f.d.toNat p.2 (s.me.mark f.a.toNat || s.me.mark f.b.toNat) 1).stepped 1
        exec p.1 s = .next t ∧ s.predDone t f.d.toNat p.2 (s.me.mark f.a.toNat || s.me.mark f.b.toNat) 1) ∧
      (s.goes 0 f.gd [64 + f.a.toNat] = true → s.predsPass [f.a.toNat] [] = true →
        exec (.pnot f) s = .next ((s.putP f.d.toNat (~~~(s.me.rdP f.a.toNat)) (s.me.mark f.a.toNat) 1).stepped 1) ∧
        exec (.pfirst f) s = .next ((s.putP f.d.toNat (firstLane (s.me.rdP f.a.toNat)) (s.me.mark f.a.toNat) 1).stepped 1)) ∧
      (s.goes 0 f.gd [] = true →
        exec (.psetClear f) s = .next ((s.putP f.d.toNat 0 false 1).stepped 1) ∧
        exec (.psetSet f) s = .next ((s.putP f.d.toNat allLanes false 1).stepped 1)) ∧
      (s.goes 0 f.gd [f.a.toNat, 64 + f.d.toNat] = true →
        exec (.psetGroup f) s = .next ((s.putGroupP f.d.toNat (f.fn.toNat - 2) (s.getS f.a)).stepped 1) ∧
        ∀ n, (s.putGroupP f.d.toNat (f.fn.toNat - 2) (s.getS f.a)).me.rdP n = if n = 0 then allLanes
          else if n = f.d.toNat then putGroup (s.me.rdP n) (f.fn.toNat - 2) (s.getS f.a) else s.me.rdP n) ∧
      (s.goes 0 f.gd [f.a.toNat] = true →
        exec (.plen f) s = .next ((s.putP f.d.toNat (lanesBelow (s.getS f.a).toNat) false 1).stepped 1)) ∧
      (s.goes 0 f.gd [64 + f.a.toNat] = true → s.predsPass [f.a.toNat] [f.a.toNat] = true →
        exec (.pcnt f) s = .next ((s.putS f.d.toNat (BitVec.ofNat 64 (countLanes (s.me.rdP f.a.toNat))) 1).stepped 1))) ∧
   (∀ (p : Lanes) (v : Word) (n l : Nat), l < 192 →
      ((firstLane p).getLsbD l = (p.getLsbD l && decide (∀ m, m < l → p.getLsbD m = false))) ∧
      ((lanesBelow n).getLsbD l = decide (l < n)) ∧ countLanes p ≤ 192 ∧
      (∀ g, g < 3 → (putGroup p g v).getLsbD l = if l / 64 = g then v.getLsbD (l % 64) else p.getLsbD l))) ∧
  (∀ (s : State) (f : RF), s.goesV f.gd [64 + f.a.toNat] = true →
     let m := s.me.mask f.gd
     let p := s.me.rdP f.a.toNat
     (s.rowsPass [] (f.a.toNat :: maskPred f.gd) (f.a.toNat :: maskPred f.gd) = true →
       exec (.vany f) s = .next ((s.land 4 [.pred s.curCtx f.d.toNat (lanesOf (m &&& p != 0)) allLanes false]).stepped 1) ∧
       exec (.vall f) s = .next ((s.land 4 [.pred s.curCtx f.d.toNat (lanesOf (m &&& ~~~p == 0)) allLanes false]).stepped 1)))

/-! ## Control transfers (spec/03 R56-R64, spec/15 R258, R259) -/

/-- PTB and PTBR (R57): the branch target; the two traps of PTBR, which leave every target as it was; from an aligned program counter
a target of PTB is aligned.
Concludes that exec answers a next state for: ptb, ptbr. -/
def Obligations.BranchTargets : Prop :=
  ∀ (s : State) (f : RF) (g : IF),
    (s.goes 0 g.gd [] = true →
      exec (.ptb g) s = .next ((s.modMe fun x => x.setBt g.d.toNat (x.pc + 8 * g.x.signExtend 64)).stepped 1)) ∧
    (s.goes 0 f.gd [f.a.toNat] = true →
      ((s.getS f.a).extractLsb' 0 3 ≠ 0 → exec (.ptbr f) s = .next (s.trapped 0x08 (s.getS f.a))) ∧
      ((s.getS f.a).extractLsb' 0 3 = 0 → (s.getS f.a).extractLsb' 56 8 ≠ 0 → exec (.ptbr f) s = .next (s.trapped 0x0E (s.getS f.a))) ∧
      ((s.getS f.a).extractLsb' 0 3 = 0 → (s.getS f.a).extractLsb' 56 8 = 0 →
        exec (.ptbr f) s = .next ((s.modMe fun x => x.setBt f.d.toNat (s.getS f.a)).stepped 1))) ∧
    (∀ cause info n, (s.trapped cause info).me.bt n = s.me.bt n) ∧
    (s.me.pc.extractLsb' 0 3 = 0 → (s.me.pc + 8 * g.x.signExtend 64).extractLsb' 0 3 = 0)

/-- BT and BTL (R58, R59, R60): with both slot words fetched and allowed the two slots follow, and the target latched now is taken
after them when the guard holds; BTL writes lk := a + 24 only when taken.
Concludes that exec answers a next state for: bt, btl. -/
def Obligations.Branches : Prop :=
  ∀ (s : State) (f : RF) (w1 w2 : Word), s.guardOk f.gd = true →
    s.fetch s.curCore s.curCtx (s.me.pc + 8) = .word w1 → s.fetch s.curCore s.curCtx (s.me.pc + 16) = .word w2 →
    -- no load is so long outstanding that its error would find the slots beyond the count of R131
    s.me.slotsLate = false →
    (slotOk w1 = false → exec (.bt f) s = .next (s.trapped 0x01 w1) ∧ exec (.btl f) s = .next (s.trapped 0x01 w1)) ∧
    (slotOk w1 = true → slotOk w2 = false →
      exec (.bt f) s = .next (s.trapped 0x01 w2) ∧ exec (.btl f) s = .next (s.trapped 0x01 w2)) ∧
    (slotOk w1 = true → slotOk w2 = true →
      exec (.bt f) s = .next (s.modMe fun x => { x with
        pc := x.pc + 8
        delay := some { left := 2, taken := x.guardTrue f.gd, target := x.bt f.a.toNat, w1 := w1, w2 := w2 } }).jumped ∧
      (∃ t, exec (.btl f) s = .next t ∧ t.me.pc = s.me.pc + 8 ∧
        t.me.delay = some { left := 2, taken := s.me.guardTrue f.gd, target := s.me.bt f.a.toNat, w1 := w1, w2 := w2 } ∧
        (∀ n, t.me.rd n = if n = 63 ∧ s.me.guardTrue f.gd = true then s.me.pc + 24 else s.me.rd n)))

/-- LOOP, LOOPR and LBRK (R62, R63): with a trip count other than 0 the level opens, every level above it closes and control steps to
the body, or back to the start of a level below whose last word is the LOOP's own; a loop with no iterations is left at once and LBRK
leaves an active level, past the last body word, with the level and those above it inactive (where no level below ends beside it); LBRK at
an inactive level changes nothing but the program counter, and the end test of its own word is run (the model's choice, log 10: R63 gives
only the LBRK that breaks). The end test of R62 at the last word of an
active level, no level above it ending there: while the count is below the trip count control goes back to the body's first word with the
counter raised, and every other level is as it was.
Concludes that exec answers a next state for: loop, loopr, lbrk. -/
def Obligations.Loops : Prop :=
  (∀ (s : State) (f : LF), s.guardOk f.gd = true → s.me.guardTrue f.gd = true → f.fin ≠ 0 →
     ∀ p ∈ [(Instr.loop f, f.cnt.setWidth 64), (.loopr f, s.getS f.a)], p.2 ≠ 0 → s.myCore.ready s.curCtx f.a.toNat = true →
       ∃ t, exec p.1 s = .next t ∧
         t.me.loop f.lvl.toNat = { act := true, start := s.me.pc + 8, endw := s.me.pc + BitVec.ofNat 64 (8 * f.fin.toNat),
                                   trip := p.2, lc := 0 } ∧
         (∀ m, f.lvl.toNat < m → m < 4 → (t.me.loop m).act = false) ∧
         ((∀ m, m < f.lvl.toNat → (s.me.loop m).act = true → (s.me.loop m).endw ≠ s.me.pc) → t.me.pc = s.me.pc + 8) ∧
         ∀ m, m < f.lvl.toNat → (s.me.loop m).act = true → (s.me.loop m).endw = s.me.pc →
           ((s.me.loop m).lc + 1).toNat < (s.me.loop m).trip.toNat →
           (∀ j, m < j → j < f.lvl.toNat → (s.me.loop j).act = true → (s.me.loop j).endw ≠ s.me.pc) → t.me.pc = (s.me.loop m).start) ∧
  (∀ (s : State) (f : LF), s.guardOk f.gd = true →
     (let e := s.me.pc + BitVec.ofNat 64 (8 * f.fin.toNat)
      (∀ m, m < f.lvl.toNat → (s.me.loop m).act = true → ∀ d : Word, d = 0 ∨ d = 8 ∨ d = -8 → (s.me.loop m).endw ≠ e + d) →
       (f.cnt = 0 ∨ s.me.guardTrue f.gd = false → ∃ t, exec (.loop f) s = .next t ∧
         t.me.pc = s.me.pc + BitVec.ofNat 64 (8 * f.fin.toNat) + 8 ∧ (t.me.loop f.lvl.toNat).lc = 0 ∧
         ∀ m, f.lvl.toNat ≤ m → m < 4 → (t.me.loop m).act = false) ∧
       (s.me.guardTrue f.gd = false ∨ (s.myCore.ready s.curCtx f.a.toNat = true ∧ s.getS f.a = 0) → ∃ t, exec (.loopr f) s = .next t ∧
         t.me.pc = s.me.pc + BitVec.ofNat 64 (8 * f.fin.toNat) + 8 ∧ (t.me.loop f.lvl.toNat).lc = 0 ∧
         ∀ m, f.lvl.toNat ≤ m → m < 4 → (t.me.loop m).act = false)) ∧
     (s.me.guardTrue f.gd = true → (s.me.loop f.lvl.toNat).act = true →
       (∀ m, m < f.lvl.toNat → (s.me.loop m).act = true → ∀ d : Word, d = 0 ∨ d = 8 ∨ d = -8 →
         (s.me.loop m).endw ≠ (s.me.loop f.lvl.toNat).endw + d) →
       ∃ t, exec (.lbrk f) s = .next t ∧ t.me.pc = (s.me.loop f.lvl.toNat).endw + 8 ∧
         (t.me.loop f.lvl.toNat).lc = (s.me.loop f.lvl.toNat).lc ∧ ∀ m, f.lvl.toNat ≤ m → m < 4 → (t.me.loop m).act = false) ∧
     (s.me.guardTrue f.gd = false ∨ (s.me.loop f.lvl.toNat).act = false → exec (.lbrk f) s = .next (s.stepped 1))) ∧
  ∀ (x : Ctx) (cov : Word → Bool) (n : Nat), (x.loop n).act = true → cov (x.loop n).endw = true →
    ((x.loop n).lc + 1).toNat < (x.loop n).trip.toNat →
    (x.endTest cov (n + 1)).2 = true ∧ (x.endTest cov (n + 1)).1.pc = (x.loop n).start ∧
    ((x.endTest cov (n + 1)).1.loop n).lc = (x.loop n).lc + 1 ∧
    (∀ m, m ≠ n → (x.endTest cov (n + 1)).1.loop m = x.loop m)

/-- SYSC (R259): its encoding, and with nothing of the context in flight its entry: trap 0x11, trap.info the immediate zero-extended,
trap.pc its own address.
Concludes that exec answers a next state for: sysc. -/
def Obligations.SystemCall : Prop :=
  (∀ (w : Word) (v : Option Word) (x : BitVec 32), w.extractLsb' 56 8 = 0x60 → w.extractLsb' 32 24 = 0x1F → w.extractLsb' 0 32 = x →
    decode w v = .instr (.sysc ⟨.always, 0, 0, 0, x⟩) 1) ∧
  decode 0x6000001F00000003 none = .instr (.sysc ⟨.always, 0, 0, 0, 3⟩) 1 ∧
  ∀ (s : State) (f : IF), s.goes 0 f.gd [] = true → s.myCore.drained s.curCtx = true →
    ∃ t, exec (.sysc f) s = .next t ∧ t.me.trapCause = BitVec.ofNat 64 (s.me.level * 256 + 0x11) ∧
      t.me.trapInfo = f.x.setWidth 64 ∧ t.me.trapPc = s.me.pc

/-- Taking a trap (R129, R130, R280): with nothing of the context in flight, trap.pc, trap.cause with PREV, trap.info, the level and
the program counter are set, the reservation falls, and every other register, flag, row and byte keeps its value; with something in
flight the context waits, and TRAP_ENTRY enters the same way after the drain.
Concludes that exec answers a next state for: trapEntry. -/
def Obligations.TrapEntry : Prop :=
  ∀ (s : State) (cause : Nat) (info : Word),
    (s.myCore.drained s.curCtx = true →
      (s.trapped cause info).me = { s.me with
        trapPc := s.me.pc
        trapCause := BitVec.ofNat 64 (s.me.level * 256 + cause)
        trapInfo := info
        level := if s.me.level = 2 then 2 else 1
        pc := (if s.me.level = 2 then s.myCore.fwvec else s.me.trapBase) + BitVec.ofNat 64 (64 * cause)
        resv := none, spin := Spin.init, query := none, win := s.me.win.filter (·.ans.isSome), fenceh := none, delay := none, run := .ready }) ∧
    (s.myCore.drained s.curCtx = false →
      (s.trapped cause info).me = { s.me with
        resv := none, spin := Spin.init, query := none, win := s.me.win.filter (·.ans.isSome), fenceh := none,
        run := .trapping cause info s.me.pc }) ∧
    s.sameElsewhere (s.trapped cause info) ∧ s.myCore.sameBut (s.trapped cause info).myCore s.curCtx ∧
    ∀ c k pc, (s.ctx c k).run = .trapping cause info pc → (s.core c).drained k = true → (s.ctx c k).delay = none →
      exec (.trapEntry c k) s = .next (s.enterTrap c k cause info pc)

/-- ERET at runtime or firmware level (R258): control goes to trap.pc at level PREV and the reservation falls; nothing else changes; a
PREV above the level raises 0x02, a misaligned trap.pc 0x08. TRAP, BRK and SYSC take the exception that is their effect (R64, R259):
causes 0x12, 0x10 and 0x11, trap.info the immediate zero-extended.
Concludes that exec answers a next state for: trap, brk, eret, sysc. -/
def Obligations.TrapReturn : Prop :=
  (∀ (s : State) (f : RF), s.goes 1 f.gd [] = true →
     (s.me.level < (s.me.trapCause.extractLsb' 8 2).toNat → exec (.eret f) s = .next (s.trapped 0x02 (word0 (.eret f)))) ∧
     ((s.me.trapCause.extractLsb' 8 2).toNat ≤ s.me.level → s.me.trapPc.extractLsb' 0 3 ≠ 0 →
       exec (.eret f) s = .next (s.trapped 0x08 s.me.trapPc)) ∧
     ((s.me.trapCause.extractLsb' 8 2).toNat ≤ s.me.level → s.me.trapPc.extractLsb' 0 3 = 0 →
       exec (.eret f) s = .next (s.modMe fun x => { x with
         resv := none, pc := x.trapPc, level := (x.trapCause.extractLsb' 8 2).toNat }).jumped)) ∧
  (∀ (s : State) (f : IF), s.goes 0 f.gd [] = true →
     exec (.trap f) s = .next (s.trapped 0x12 (f.x.setWidth 64)) ∧ exec (.brk f) s = .next (s.trapped 0x10 (f.x.setWidth 64)) ∧
     exec (.sysc f) s = .next (s.trapped 0x11 (f.x.setWidth 64)))

/-- Instructions that need the runtime level raise trap 0x02 with their word 0 at task level, whatever their guard, and have no effect
(R30, R43, R257, R258, R260, R261, R314, R315, R354). -/
def Obligations.PrivilegeRefused : Prop :=
  ∀ (s : State) (f : RF) (g : IF) (m : MF) (e : EF), s.me.level = 0 →
    (∀ i ∈ [Instr.eret f, .mtc g, .accGrantWrite g, .loopCounterWrite g, .branchTargetWrite g, .xbGainWrite g, .xbSymWrite g,
        .tlbiPage m, .tlbiAll m, .xcal e, .xsym e, .xpgm e, .rjcfg e], exec i s = .next (s.trapped 0x02 (word0 i))) ∧
    (g.x.toNat < 4 ∨ (0x80 ≤ g.x.toNat ∧ g.x.toNat < 0x90) → exec (.mfc g) s = .next (s.trapped 0x02 (word0 (.mfc g)))) ∧
    ((g.x.extractLsb' 8 2).toNat ≠ s.curCtx → ∀ i ∈ [Instr.pwrbOn g, .pwrbRet g, .pwrbOff g],
      exec i s = .next (s.trapped 0x02 (word0 i)))

/-! ## Control words, translations, banks (spec/02 R38-R45, spec/15 R257-R261) -/

/-- MFC (R257, R43): the word as it stands at issue, for every number of R43, at the level that may read it, with the fields of eng.status
(R253: MQ counts the context's matrix commands), xbN.status (R311: QN counts the tile's commands), xbN.sym (R313), xbN.gain (R312), feat
(R45) and rj.cfg (R359).
Concludes that exec answers a next state for: mfc. -/
def Obligations.ControlReads : Prop :=
  ∀ (s : State) (f : IF), s.goes (readLevel f.x.toNat) f.gd [] = true →
    exec (.mfc f) s = .next ((s.putS f.d.toNat (s.control f.x.toNat) 1).stepped 1) ∧
    s.scalarDone ((s.putS f.d.toNat (s.control f.x.toNat) 1).stepped 1) f.d.toNat (s.control f.x.toNat) ∧
    s.control 0 = s.me.trapBase ∧ s.control 1 = s.me.trapCause ∧ s.control 2 = s.me.trapPc ∧ s.control 3 = s.me.trapInfo ∧
    s.control 0x10 = BitVec.ofNat 64 s.curCore ∧ s.control 0x11 = BitVec.ofNat 64 s.curCtx ∧
    s.control 0x12 = BitVec.ofNat 64 (s.curCore / 32) ∧ s.control 0x13 = BitVec.ofNat 64 (s.curCore / 256) ∧
    s.control 0x20 = BitVec.ofNat 64 s.myCore.clock ∧ s.control 0x21 = s.myCore.seed ∧ s.control 0x41 = s.me.engPoison ∧
    s.control 0x14 = BitVec.ofNat 64 s.koyth.modId ∧ s.control 0x30 = s.me.dbgPend ∧ s.control 0x31 = s.me.dbgLayout ∧
    s.control 0x40 = s.me.engStatus + BitVec.ofNat 64 (s.myCore.cmds.filter fun m => m.ctx == s.curCtx && m.engine == .matrix).length ∧
    s.control 0x50 = 0x3FFFF ∧ s.control 0x51 = 0 ∧
    (∀ t, t < 4 → let w := s.control (0x60 + t)
      let u := s.myCore.tile t
      let q := (s.myCore.cmds.filter fun m => m.engine == .tile t).length
      w.getLsbD 63 = u.lf ∧ w.getLsbD 62 = u.rcal ∧ w.getLsbD 61 = u.calv ∧ w.getLsbD 60 = decide (q ≠ 0) ∧
      w.extractLsb' 56 4 = BitVec.ofNat 4 q ∧ w.extractLsb' 48 8 = u.xerr ∧ w.extractLsb' 32 16 = u.drift ∧ w.extractLsb' 16 16 = u.nfail ∧
      w.extractLsb' 0 16 = 0 ∧ s.control (0x64 + t) = BitVec.ofNat 64 (u.col * 2 ^ 32 + (u.sym u.col).toNat) ∧
      s.control (0x68 + t) = u.gain) ∧
    (∀ n, n < 16 → s.control (0x80 + n) = Tab.get (fun _ => 0) (s.die (s.curCore / 256)).unit.cfg n) ∧
    s.control 0x70 = s.myCore.bank ∧ s.control 0xA0 = s.me.viewV ∧ s.control 0xA1 = s.me.viewT ∧ s.control 0xA2 = s.me.grant ∧
    (∀ l, l < 4 → s.control (0xB0 + l) = (s.me.loop l).lc) ∧ ∀ n, n < 8 → s.control (0xB8 + n) = s.me.bt n

/-- MTC (R257, R430, R148, R139, R41, R40, R132, R312, R313), by the form that writes each word: at the level that may write it and with a
legal value the word takes it (the limits of R313 are judged for a write with WR = 0 too, and a gain of -0 is taken: the model's choice, log
38) (trap.base, trap.cause, trap.pc, trap.info, dbg.pend, dbg.layout; rng.seed; eng.poison, whose ones clear;
acc.grant; view.v, view.t; lc0-lc3; b0-b7; xbN.gain and xbN.sym of an idle tile); an illegal value raises its trap with trap.info := s[A]
and the word keeps its old value.
Concludes that exec answers a next state for: mtc, rngSeedWrite, engPoisonClear, accGrantWrite, viewWordWrite, loopCounterWrite,
branchTargetWrite, xbGainWrite, xbSymWrite. -/
def Obligations.ControlWrites : Prop :=
  ∀ (s : State) (f : IF), let v := s.getS f.a
    let n := f.x.toNat
    (s.goes 1 f.gd [f.a.toNat] = true →
      ((n = 0 → v.extractLsb' 0 6 = 0 → exec (.mtc f) s = .next ((s.modMe fun x => { x with trapBase := v }).stepped 1)) ∧
        (n = 1 → v.extractLsb' 10 54 = 0 → v.extractLsb' 8 2 ≠ 3 →
          exec (.mtc f) s = .next ((s.modMe fun x => { x with trapCause := v }).stepped 1)) ∧
        (n = 2 → exec (.mtc f) s = .next ((s.modMe fun x => { x with trapPc := v }).stepped 1)) ∧
        (n = 3 → exec (.mtc f) s = .next ((s.modMe fun x => { x with trapInfo := v }).stepped 1)) ∧
        (n = 0x30 → v.extractLsb' 1 63 = 0 → exec (.mtc f) s = .next ((s.modMe fun x => { x with dbgPend := v }).stepped 1)) ∧
        (n = 0x31 → v.extractLsb' 1 63 = 0 → exec (.mtc f) s = .next ((s.modMe fun x => { x with dbgLayout := v }).stepped 1)) ∧
        (n = 0 → v.extractLsb' 0 6 ≠ 0 → exec (.mtc f) s = .next (s.trapped 0x08 v)) ∧
        (n = 1 → v.extractLsb' 10 54 ≠ 0 ∨ v.extractLsb' 8 2 = 3 → exec (.mtc f) s = .next (s.trapped 0x0D v)) ∧
        (n = 0x30 ∨ n = 0x31 → v.extractLsb' 1 63 ≠ 0 → exec (.mtc f) s = .next (s.trapped 0x0D v))) ∧
      (let legal := v.extractLsb' 43 21 = 0 ∧ v.extractLsb' 10 22 = 0 ∧ (v.extractLsb' 32 11).toNat ≤ 1024
       (legal → exec (.accGrantWrite f) s = .next ((s.modMe fun x => { x with grant := v }).stepped 1)) ∧
       (¬legal → exec (.accGrantWrite f) s = .next (s.trapped 0x0D v))) ∧
      exec (.loopCounterWrite f) s = .next ((s.modMe fun x => x.setLoop (n - 0xB0) { x.loop (n - 0xB0) with lc := v }).stepped 1) ∧
      ((v.extractLsb' 0 3 = 0 → v.extractLsb' 56 8 = 0 →
         exec (.branchTargetWrite f) s = .next ((s.modMe fun x => x.setBt (n - 0xB8) v).stepped 1)) ∧
       (v.extractLsb' 0 3 ≠ 0 → exec (.branchTargetWrite f) s = .next (s.trapped 0x08 v)) ∧
       (v.extractLsb' 0 3 = 0 → v.extractLsb' 56 8 ≠ 0 → exec (.branchTargetWrite f) s = .next (s.trapped 0x0E v))) ∧
      (let k := n - 0x68
       let u := s.myCore.tile k
       let legal := (∀ b ∈ [0, 16, 32, 48], bf16Plain (v.extractLsb' b 16) = true) ∧ (v.extractLsb' 48 15).toNat ≤ 0x3C00
       (legal → s.myCore.tileQ k = 0 → exec (.xbGainWrite f) s = .next ((s.modMy fun x =>
         x.setTile k { u with gain := v, calv := u.calv && u.gain.extractLsb' 0 48 == v.extractLsb' 0 48 }).stepped 1)) ∧
       (legal → s.myCore.tileQ k ≠ 0 → exec (.xbGainWrite f) s = .next s.hold) ∧
       (¬legal → exec (.xbGainWrite f) s = .next (s.trapped 0x0D v))) ∧
      (let k := n - 0x64
       let col := (v.extractLsb' 32 10).toNat
       let legal := v.extractLsb' 42 21 = 0 ∧ v.extractLsb' 16 16 = 0 ∧ (v.extractLsb' 0 15).toNat ≤ 0x3F80
       (legal → v.getLsbD 63 = true → s.myCore.tileQ k ≠ 0 → exec (.xbSymWrite f) s = .next s.hold) ∧
       (legal → v.getLsbD 63 = false ∨ s.myCore.tileQ k = 0 → ∃ t, exec (.xbSymWrite f) s = .next t ∧ (t.myCore.tile k).col = col ∧
         ∀ j, (t.myCore.tile k).sym j = if v.getLsbD 63 = true ∧ j = col then v.extractLsb' 0 16 else (s.myCore.tile k).sym j) ∧
       (¬legal → exec (.xbSymWrite f) s = .next (s.trapped 0x0D v)))) ∧
    (s.goes 0 f.gd [f.a.toNat] = true →
      exec (.rngSeedWrite f) s = .next ((s.modMy fun x => { x with seed := v, rng := seedState v }).stepped 1) ∧
      ((v.extractLsb' 5 59 = 0 → exec (.engPoisonClear f) s =
         .next ((s.modMe fun x => { x with engPoison := (x.engPoison &&& ~~~v) ||| x.poisonNow }).stepped 1)) ∧
       (v.extractLsb' 5 59 ≠ 0 → exec (.engPoisonClear f) s = .next (s.trapped 0x0D v))) ∧
      (let whole := viewBase v % 64 = 0 ∧ viewStride v % 64 = 0
       let plain := v.extractLsb' 48 16 = 0 ∧ v.extractLsb' 16 16 = 0
       (whole → plain → n = 0xA0 → exec (.viewWordWrite f) s = .next ((s.modMe fun x => { x with viewV := v }).stepped 1)) ∧
       (whole → plain → n = 0xA1 → exec (.viewWordWrite f) s = .next ((s.modMe fun x => { x with viewT := v }).stepped 1)) ∧
       (¬whole → exec (.viewWordWrite f) s = .next (s.trapped 0x08 v)) ∧
       (whole → ¬plain → exec (.viewWordWrite f) s = .next (s.trapped 0x0D v))))

/-- TLBI (R260, R305, R306): every translation of the page, or every unpinned one of the space, is gone from the cores in scope, from the
stream TLBs of their commands and from the page's home slice; every other stays. PWRB (R261, R39): with no result in flight to a named bank the named banks take the state, the
others keep theirs; a bank switched off loses its bytes and tags; from off to on the context issues nothing for 20 cycles. From off
to retention a bank holds zeros and nothing stalls (the model's choice, log 86).
Concludes that exec answers a next state for: tlbiPage, tlbiAll, pwrbOn, pwrbRet, pwrbOff. -/
def Obligations.TranslationsAndBanks : Prop :=
  (∀ (s : State) (f : MF), let sp := s.me.space
    let far := fun c => inScope f.sc.toNat s.curCore s.curCtx c 0
    (s.goes 1 f.gd [f.a.toNat] = true → let va := eaVa (s.eaBase f)
      ∃ t, exec (.tlbiPage f) s = .next t ∧ ∀ c e,
        (e ∈ (t.core c).tlb ↔ e ∈ (s.core c).tlb ∧ ¬(far c = true ∧ e.covers sp va = true)) ∧
        (e ∈ (t.core c).l2tlb ↔ e ∈ (s.core c).l2tlb ∧ ¬((far c = true ∨ c = homeSlice sp va) ∧ e.covers sp va = true)) ∧
        (∀ m ∈ (t.core c).cmds, far c = true → e ∈ m.stream → e.covers sp va = false)) ∧
    (s.goes 1 f.gd [] = true →
      ∃ t, exec (.tlbiAll f) s = .next t ∧ ∀ c e,
        (e ∈ (t.core c).tlb ↔ e ∈ (s.core c).tlb ∧ ¬(far c = true ∧ e.space = sp ∧ e.leaf.getLsbD 4 = false)) ∧
        (e ∈ (t.core c).l2tlb ↔ e ∈ (s.core c).l2tlb ∧ ¬(e.space = sp ∧ e.leaf.getLsbD 4 = false)) ∧
        (∀ m ∈ (t.core c).cmds, far c = true → e ∈ m.stream → e.space ≠ sp ∨ e.leaf.getLsbD 4 = true))) ∧
  ∀ (s : State) (f : IF), let k := (f.x.extractLsb' 8 2).toNat
    s.goes (if k = s.curCtx then 0 else 1) f.gd [] = true → (∀ b, b < 4 → f.x.getLsbD (4 + b) = true → s.myCore.bankBusy k b = false) →
    ∀ p ∈ [(Instr.pwrbOn f, (3 : BitVec 2)), (.pwrbRet f, 1), (.pwrbOff f, 0)], ∃ t, exec p.1 s = .next t ∧
      (∀ j b, j < 4 → b < 4 → bankState t.myCore.bank j b = if j = k ∧ f.x.getLsbD (4 + b) = true then p.2 else bankState s.myCore.bank j b) ∧
      (∀ g, (p.2 = 0 ∧ ∃ b, b < 4 ∧ f.x.getLsbD (4 + b) = true ∧ inBank k b g = true) →
        t.myCore.gran g = 0 ∧ t.myCore.tag g = Tag.exact) ∧
      (∀ g, ¬(p.2 = 0 ∧ ∃ b, b < 4 ∧ f.x.getLsbD (4 + b) = true ∧ inBank k b g = true) →
        t.myCore.gran g = s.myCore.gran g ∧ t.myCore.tag g = s.myCore.tag g) ∧
      t.me.stall = (if p.2 = 3 ∧ ∃ b, b < 4 ∧ f.x.getLsbD (4 + b) = true ∧ bankState s.myCore.bank k b = 0 then s.now + 20 else s.me.stall)

/-! ## Scalar memory accesses (spec/04 R74-R88, spec/12) -/

/-- Where a scalar access traps or parks (R75, R76, R173, R282): a misaligned address raises 0x08, bits above 55 or an unknown alias
0x0E, an alias other than 0 on LDX, STX and atomics 0x0E, a page without the right 0x0E; with no translation the context parks, and
nothing is accessed. -/
def Obligations.AccessRefused : Prop :=
  ∀ (s : State) (f : MF), s.goes 0 f.gd [f.a.toNat, f.b.toNat, f.d.toNat] = true → s.me.answered = false →
    ∀ p ∈ [(Instr.ld f, AccClass.load, s.eaIndexed f), (.lds f, .load, s.eaIndexed f), (.st f, .store, s.eaIndexed f),
        (.ldx f, .loadX, s.eaBase f), (.stx f, .storeX, s.eaBase f), (.aadd f, .atomic, s.eaBase f), (.amin f, .atomic, s.eaBase f),
        (.amax f, .atomic, s.eaBase f), (.aminw f, .atomic, s.eaBase f), (.amaxw f, .atomic, s.eaBase f), (.aand f, .atomic, s.eaBase f),
        (.aor f, .atomic, s.eaBase f), (.axor f, .atomic, s.eaBase f), (.axch f, .atomic, s.eaBase f), (.acas f, .atomic, s.eaBase f)],
      let ea := p.2.2
      (ea.toNat % 2 ^ f.sz.toNat ≠ 0 → exec p.1 s = .next (s.trapped 0x08 ea)) ∧
      (ea.toNat % 2 ^ f.sz.toNat = 0 → (eaTop ea = true ∨ 7 ≤ eaAlias ea ∨ (eaAlias ea ≠ 0 ∧ (p.2.1 = .loadX ∨ p.2.1 = .storeX ∨ p.2.1 = .atomic))) →
        exec p.1 s = .next (s.trapped 0x0E ea)) ∧
      (ea.toNat % 2 ^ f.sz.toNat = 0 → eaTop ea = false → eaAlias ea = 0 →
        (s.look s.curCore s.curCtx ea = .miss → exec p.1 s = .next (s.parkMe p.2.1.code ea)) ∧
        (s.look s.curCore s.curCtx ea = .malformed → exec p.1 s = .next (s.trapped 0x0E ea)) ∧
        ∀ pa at', s.look s.curCore s.curCtx ea = .ok pa at' →
          ((p.2.1 = .load ∨ p.2.1 = .loadX) → at'.r = false → exec p.1 s = .next (s.trapped 0x0E ea)) ∧
          ((p.2.1 = .store ∨ p.2.1 = .storeX ∨ p.2.1 = .atomic) → at'.w = false → exec p.1 s = .next (s.trapped 0x0E ea)))

/-- LD, LDS, LDX and ST at issue (R75, R77, R81): with room among the 16 outstanding loads, or in the store buffer, the access joins
those pending with its address and data; LDX sets the reservation of its 64-byte granule and scope (the cycle is the model's choice, log
73); no register and no byte changes yet. A full store buffer holds ST. A register that a later instruction has written no longer takes
what an outstanding load of it brings (the model's choice, log 11). A store to the own slice is done by the sixth cycle (the model's choice,
log 72: R107 and R118 give this time to VST).
Concludes that exec answers a next state for: ld, lds, st, ldx. -/
def Obligations.AccessesIssue : Prop :=
  (∀ (s : State) (f : MF) (pa : Nat) (at' : Attr), s.me.loadRoom = true →
     (s.goes 0 f.gd [f.a.toNat, f.b.toNat] = true → eaAlias (s.eaIndexed f) = 0 →
       s.accessPass .load (s.eaIndexed f) (2 ^ f.sz.toNat) f.sc.toNat false pa at' = true →
       ∀ p ∈ [(Instr.ld f, false), (.lds f, true)],
         exec p.1 s = .next ((s.push (s.scalarAccess f (.load f.d.toNat p.2) (s.eaIndexed f) [8 * pa] at' pa)).stepped 1)) ∧
     (s.goes 0 f.gd [f.a.toNat] = true →
       s.accessPass .loadX (s.eaBase f) (2 ^ f.sz.toNat) f.sc.toNat false pa at' = true →
       let b := s.scalarAccess f (.load f.d.toNat false) (s.eaBase f) [8 * pa] at' pa
       exec (.ldx f) s = .next (((s.push b).modMe fun x => x.reserve b).stepped 1) ∧
       ((s.push b).modMe fun x => x.reserve b).me.resv =
         some { ea := s.eaBase f &&& ~~~63, gran := pa / 64 * 64, sc := f.sc.toNat, issued := 0 }) ∧
     (∀ a, (∀ n, ((s.push a).stepped 1).me.rd n = s.me.rd n) ∧ ∀ b, ((s.push a).stepped 1).byte b = s.byte b) ∧
     ∀ n v lat, n ≠ 0 → ∀ a ∈ (s.putS n v lat).me.acc, a.kind.dst ≠ n) ∧
  (∀ (s : State) (f : MF) (pa : Nat) (at' : Attr), s.goes 0 f.gd [f.a.toNat, f.b.toNat, f.d.toNat] = true → s.me.answered = false →
     eaAlias (s.eaIndexed f) = 0 → s.accessPass .store (s.eaIndexed f) (2 ^ f.sz.toNat) f.sc.toNat f.rl pa at' = true →
     (s.me.storeRoom = true → exec (.st f) s = .next ((s.push
       { s.scalarAccess f (.store (s.getS f.d)) (s.eaIndexed f) [8 * pa] at' pa with
         due := if s.ownSlice s.curCore pa then some (s.now + 6) else none }).stepped 1)) ∧
     (s.me.storeRoom = false → exec (.st f) s = .next s.hold))

/-- A pending load returns (R77, R81, R130): its register takes the bytes at its address, little-endian, zero- or sign-extended; no
byte of memory, no other core and no reservation changes. A load that meets an error writes no register (R131).
Concludes that exec answers a next state for: loadReturn, loadErrorReturn. -/
def Obligations.LoadsReturn : Prop :=
  ∀ (s : State) (c k i : Nat) (a : Access) (d : Nat) (signed : Bool), (s.ctx c k).acc[i]? = some a →
    a.kind = .load d signed → s.mayPerform c k i = true →
    (s.accessError c a = false → ∃ t, exec (.loadReturn c k i) s = .next t ∧
      (let v := s.seenN (readAt (a.bits.getD 0 0 / 8) a.hold (dieOf c)) (a.ew / 8)
       ∀ n, (t.ctx c k).rd n = if n = 0 then 0 else if n = d then
          (if signed then BitVec.ofInt 64 (sInt a.ew v) else BitVec.ofNat 64 v) else (s.ctx c k).rd n) ∧
      (t.ctx c k).resv = (s.ctx c k).resv ∧
      (∀ b, t.byte b = s.byte b) ∧ (∀ e, e ≠ c → t.core e = s.core e) ∧ (t.ctx c k).pc = (s.ctx c k).pc) ∧
    (s.accessError c a = true → ∃ t, exec (.loadErrorReturn c k i) s = .next t ∧ (∀ n, (t.ctx c k).rd n = (s.ctx c k).rd n) ∧
      (∀ b, t.byte b = s.byte b) ∧ (∀ e, e ≠ c → t.core e = s.core e))

/-- A store in the buffer performs (R77, R82, R199): an acknowledged request to another module starts the count of its resends anew (R416);
it and its replicas are written; away from a replicated page exactly its bytes take
its data, little-endian, read-only bits aside (R2), and every other byte keeps its value; the reservations it meets fall.
Concludes that exec answers a next state for: storePerform. -/
def Obligations.StoresPerform : Prop :=
  ∀ (s : State) (c k i : Nat) (a : Access) (v : Word), (s.ctx c k).acc[i]? = some a → a.kind = .store v →
    s.mayPerform c k i = true → a.dead = false → let pa := a.bits.getD 0 0 / 8
    ∃ t, exec (.storePerform c k i) s = .next t ∧
      t = ((s.modCtx c k (·.takeAcc i)).acked a).storeD (some (c, k)) pa a.hold (leBytes (a.ew / 8) v.toNat) none ∧
      (∀ b, (b < pa ∨ pa + a.ew / 8 ≤ b) → (∀ h ∈ holders pa a.hold, b < replicaOf pa h ∨ replicaOf pa h + a.ew / 8 ≤ b) →
        t.byte b = s.byte b) ∧
      (holders pa a.hold = [] → ∀ j, j < a.ew / 8 → t.byte (pa + j) = s.wrote (pa + j) (BitVec.ofNat 8 (v.toNat / 2 ^ (8 * j)))) ∧
      (∀ e m, m < 4 → (t.ctx e m).hitResv e m (some (c, k)) pa (a.ew / 8) = false) ∧ (∀ n, (t.ctx c k).rd n = (s.ctx c k).rd n)

/-- The atomics (R79) and STX (R81): at issue each atomic joins the pending loads with its operands; performing, the location takes the
new value of the table, the register the old value zero-extended, and an ACAS that does not match writes nothing. STX stores under a
reservation of its granule and scope and writes 1, else stores nothing and writes 0; either way the reservation is gone. Towards a module
declared unreachable it is discarded and recorded (R416), and what it tells is free (the model's choice, log 85).
Concludes that exec answers a next state for: stx, aadd, amin, amax, aminw, amaxw, aand, aor, axor, axch, acas, loadReturn. -/
def Obligations.Atomics : Prop :=
  ((∀ (s : State) (f : MF) (pa : Nat) (at' : Attr), s.goes 0 f.gd [f.a.toNat, f.b.toNat, f.d.toNat] = true →
     s.accessPass .atomic (s.eaBase f) (2 ^ f.sz.toNat) f.sc.toNat f.rl pa at' = true → s.me.loadRoom = true →
     ∀ p ∈ [(Instr.aadd f, 0x4E), (.amin f, 0x4F), (.amax f, 0x50), (.aminw f, 0x51), (.amaxw f, 0x52), (.aand f, 0x53), (.aor f, 0x54),
         (.axor f, 0x55), (.axch f, 0x56), (.acas f, 0x57)],
       exec p.1 s = .next ((s.push
         (s.scalarAccess f (.amo f.d.toNat p.2 (s.getS f.b) (s.getS f.d)) (s.eaBase f) [8 * pa] at' pa)).stepped 1)) ∧
   (∀ (w m b e : Nat), m < 2 ^ w → b < 2 ^ w →
     amoNew 0x4E w m b e = some ((m + b) % 2 ^ w) ∧ (amoNew 0x4F w m b e).map (sInt w) = some (min (sInt w m) (sInt w b)) ∧
     (amoNew 0x50 w m b e).map (sInt w) = some (max (sInt w m) (sInt w b)) ∧ amoNew 0x51 w m b e = some (min m b) ∧
     amoNew 0x52 w m b e = some (max m b) ∧ amoNew 0x53 w m b e = some (m &&& b) ∧ amoNew 0x54 w m b e = some (m ||| b) ∧
     amoNew 0x55 w m b e = some (m ^^^ b) ∧ amoNew 0x56 w m b e = some b ∧ amoNew 0x57 w m b e = if m = e then some b else none) ∧
   ∀ (s : State) (c k i : Nat) (a : Access) (d op : Nat) (x e : Word), (s.ctx c k).acc[i]? = some a → a.kind = .amo d op x e →
     s.mayPerform c k i = true → s.accessError c a = false →
     let pa := a.bits.getD 0 0 / 8
     let m := s.seenN pa (a.ew / 8)
     ∃ t, exec (.loadReturn c k i) s = .next t ∧
       (∀ n, (t.ctx c k).rd n = if n = 0 then 0 else if n = d then BitVec.ofNat 64 m else (s.ctx c k).rd n) ∧
       (∀ b, (b < pa ∨ pa + a.ew / 8 ≤ b) → (∀ h ∈ holders pa a.hold, b < replicaOf pa h ∨ replicaOf pa h + a.ew / 8 ≤ b) →
         t.byte b = s.byte b) ∧
       (amoNew op a.ew m (x.toNat % 2 ^ a.ew) (e.toNat % 2 ^ a.ew) = none → ∀ b, t.byte b = s.byte b) ∧
       ∀ n, amoNew op a.ew m (x.toNat % 2 ^ a.ew) (e.toNat % 2 ^ a.ew) = some n → holders pa a.hold = [] →
         ∀ j, j < a.ew / 8 → t.byte (pa + j) = s.wrote (pa + j) (BitVec.ofNat 8 (n / 2 ^ (8 * j)))) ∧
  (∀ (s : State) (f : MF) (pa : Nat) (at' : Attr), s.goes 0 f.gd [f.a.toNat, f.b.toNat] = true →
     s.accessPass .storeX (s.eaBase f) (2 ^ f.sz.toNat) f.sc.toNat f.rl pa at' = true →
     let b := s.scalarAccess f (.store (s.getS f.b)) (s.eaBase f) [8 * pa] at' pa
     s.orderOk b = true →
     (b.dead = false → (∃ r, s.me.resv = some r ∧ r.ea = s.eaBase f &&& ~~~63 ∧ r.sc = f.sc.toNat) → ∃ t, exec (.stx f) s = .next t ∧
       t.me.resv = none ∧ (∀ n, t.me.rd n = if n = 0 then 0 else if n = f.d.toNat then 1 else s.me.rd n) ∧
       (∀ x, (x < pa ∨ pa + 2 ^ f.sz.toNat ≤ x) → (∀ h ∈ holders pa b.hold, x < replicaOf pa h ∨ replicaOf pa h + 2 ^ f.sz.toNat ≤ x) →
         t.byte x = s.byte x) ∧
       (holders pa b.hold = [] → ∀ j, j < 2 ^ f.sz.toNat → t.byte (pa + j) = s.wrote (pa + j) (BitVec.ofNat 8 ((s.getS f.b).toNat / 2 ^ (8 * j))))) ∧
     (b.dead = true → (∃ r, s.me.resv = some r ∧ r.ea = s.eaBase f &&& ~~~63 ∧ r.sc = f.sc.toNat) → ∃ t, exec (.stx f) s = .next t ∧
       t.me.resv = none ∧ (∀ x, t.byte x = s.byte x) ∧ (s.me.discard = none → t.me.discard = some (s.eaBase f, modOf pa)) ∧
       ∀ n, n ≠ 0 → t.me.rd n = if n = f.d.toNat then Config.word s.tick 0 &&& 1 else s.me.rd n) ∧
     (¬(∃ r, s.me.resv = some r ∧ r.ea = s.eaBase f &&& ~~~63 ∧ r.sc = f.sc.toNat) → ∃ t, exec (.stx f) s = .next t ∧
       t.me.resv = none ∧ (∀ n, t.me.rd n = if n = 0 then 0 else if n = f.d.toNat then 0 else s.me.rd n) ∧ ∀ x, t.byte x = s.byte x))

/-- FENCE, FENCEL, FENCEH and the expiry of a reservation (R82, R85, R86): FENCE goes on when every earlier access of its classes has
performed, and is held until then; FENCEL leaves its mark; FENCEH goes on when every store buffer in its scope is empty; a reservation
falls after 256 instructions.
Concludes that exec answers a next state for: fence, fencel, fenceh, reservationExpiry. -/
def Obligations.Fences : Prop :=
  (∀ (s : State) (f : MF), s.goes 0 f.gd [] = true →
    (s.noDiscard = true → s.classesDone (f.disp.extractLsb' 0 16) = true → exec (.fence f) s = .next (s.stepped 1)) ∧
    (s.noDiscard = true → s.classesDone (f.disp.extractLsb' 0 16) = false → exec (.fence f) s = .next s.hold) ∧
    (s.serialised = false → s.me.acc = [] → exec (.fencel f) s = .next (s.stepped 1)) ∧
    (s.serialised = false → s.me.acc ≠ [] → ∃ t, exec (.fencel f) s = .next t ∧ t.me.acc.length = s.me.acc.length + 1 ∧
      (t.me.acc.getLast?.map fun a => a.kind) = some .fencel ∧ (∀ n, t.me.rd n = s.me.rd n) ∧ ∀ b, t.byte b = s.byte b) ∧
    (s.serialised = true → exec (.fencel f) s = .next s.hold) ∧
    (s.noDiscard = true → s.classesDone 0xFFFF = true → s.buffersEmpty f.sc.toNat = true →
      exec (.fenceh f) s = .next ((s.modMe fun x => { x with fenceh := none }).stepped 1))) ∧
  ∀ (s : State) (c k : Nat) (r : Resv), (s.ctx c k).resv = some r →
    (256 < r.issued → exec (.reservationExpiry c k) s = .next (s.modCtx c k fun x => { x with resv := none })) ∧
    (r.issued ≤ 256 → exec (.reservationExpiry c k) s = .next s)

/-- MBR and MBW (R87, R168): at issue each joins the pending accesses, MBW inside a tile step raises 0x15; performing, MBR brings the
word of the launch's mailbox and MBW sets it, and it alone.
Concludes that exec answers a next state for: mbr, mbw, loadReturn, storePerform. -/
def Obligations.Mailboxes : Prop :=
  (∀ (s : State) (f : IF), s.noDiscard = true →
    (s.goes 0 f.gd [] = true → s.me.loadRoom = true →
      exec (.mbr f) s = .next ((s.push (s.mailAccess (.mbr f.d.toNat f.x.toNat))).stepped 1)) ∧
    (s.goes 0 f.gd [f.a.toNat] = true → (s.me.inStep = true → exec (.mbw f) s = .next (s.trapped 0x15 0)) ∧
      (s.me.inStep = false → s.me.storeRoom = true →
        exec (.mbw f) s = .next ((s.push (s.mailAccess (.mbw f.x.toNat (s.getS f.a)))).stepped 1)))) ∧
  ∀ (s : State) (c k i : Nat) (a : Access), (s.ctx c k).acc[i]? = some a → s.mayPerform c k i = true → a.dead = false →
    (∀ d n, a.kind = .mbr d n → ∃ t, exec (.loadReturn c k i) s = .next t ∧ (∀ b, t.byte b = s.byte b) ∧
      ∀ m, (t.ctx c k).rd m = if m = 0 then 0 else if m = d then s.mailbox (s.ctx c k).space n else (s.ctx c k).rd m) ∧
    (∀ n v l, a.kind = .mbw n v → s.launchOf (s.ctx c k).space = some l → ∃ t, exec (.storePerform c k i) s = .next t ∧
      (∀ b, t.byte b = s.byte b) ∧
      ∀ sp m, t.mailbox sp m = if sp = (s.ctx c k).space ∧ m = n then v else s.mailbox sp m)

/-! ## Vector instructions on rows (spec/05 R89-R108) -/

/-- The elementwise vector instructions (R93-R99): with their rows readable, each element of the result under the mask is the function
of its type on the elements of the sources; the row lands with its tag after the latency of the table. As numbers: integer results modulo
2^w or saturated to the type's range, the smaller and the larger element, absolute value and negation of floats by their sign bit,
elements under a mask.
Concludes that exec answers a next state for: vadd, vsub, vmul, vfma, vmin, vmax, vabs, vneg, vand, vor, vxor, vshl, vshr, vsar, vclamp. -/
def Obligations.VectorArithmetic : Prop :=
  (∀ (s : State) (f : RF),
    let m := s.me.mask f.gd
    let w := tyWidth f.ty.toNat
    let a := elem w (s.srcRow f.a)
    let c := elem w (s.srcRow f.c)
    let ta := s.srcTag f.a
    let tb := s.tagB f
    let tc := s.srcTag f.c
    let ma := magOf f.ty.toNat m a
    let mb := magOf f.ty.toNat m (s.srcB f w)
    (s.goesV f.gd (scalarRegs f) = true →
      (∀ p ∈ elementResults s f, s.rowsPass (s.elementUses f true false p.2.1) (maskPred f.gd) [] = true →
        let wt := tyWidth p.2.2.1
        exec p.1 s = .next (s.rowComing f.gd p.2.2.2.1 f.d
          (mapElems wt m fun k => p.2.2.2.2.2 k (elem wt (s.srcRow f.a) k) (s.srcB f wt k))
          (Tag.result [ta, tb, .exact] (p.2.2.2.2.1 ta.val tb.val (Tag.val .exact) (magOf p.2.2.1 m (elem wt (s.srcRow f.a)))
            (magOf p.2.2.1 m (s.srcB f wt)))))) ∧
      (s.rowsPass (s.elementUses f true true false) (maskPred f.gd) [] = true →
        exec (.vfma f) s = .next (s.rowComing f.gd 4 f.d
          (mapElems w m fun k => arith f (fun a b c => Fv.add f.rm.toNat (Fv.mul a b) c) (fun a _ => a) s k (a k) (s.srcB f w k) (c k))
          (Tag.result [ta, tb, tc] (boundFma ta.val tb.val tc.val ma mb)))) ∧
      (s.rowsPass (s.elementUses f true true (!isFloatTy f.ty)) (maskPred f.gd) [] = true →
        exec (.vclamp f) s = .next (s.rowComing f.gd 3 f.d
          (mapElems w m fun k => pickElem f.ty.toNat false (pickElem f.ty.toNat true (a k) (s.srcB f w k)) (c k))
          (Tag.result [ta, tb, tc] (boundMax ta.val tb.val tc.val ma mb))))) ∧
    (s.goesV f.gd [] = true → s.rowsPass (s.elementUses f false false (!isFloatTy f.ty)) (maskPred f.gd) [] = true →
      exec (.vabs f) s = .next (s.rowComing f.gd 3 f.d (mapElems w m fun k => absElem f (a k)) (Tag.result [ta, .exact, .exact] ta.val)) ∧
      exec (.vneg f) s = .next (s.rowComing f.gd 3 f.d (mapElems w m fun k => negElem f (a k)) (Tag.result [ta, .exact, .exact] ta.val)))) ∧
  (∀ (f : RF) (s : State) (fv : Fv → Fv → Fv → Fv) (iv : Int → Int → Int) (k a b c : Nat), fmtOf f.ty.toNat = none →
    let r := iv (intValue f.ty.toNat a) (intValue f.ty.toNat b)
    (saturating f = false → (arith f fv iv s k a b c : Int) = r % 2 ^ tyWidth f.ty.toNat) ∧
    (saturating f = true → f.ty.toNat < 8 →
      intValue f.ty.toNat (arith f fv iv s k a b c) = max (tyRange f.ty.toNat).1 (min (tyRange f.ty.toNat).2 r))) ∧
  (∀ ty a b : Nat, fmtOf ty = none →
    intValue ty (pickElem ty false a b) = min (intValue ty a) (intValue ty b) ∧
    intValue ty (pickElem ty true a b) = max (intValue ty a) (intValue ty b)) ∧
  (∀ (f : RF) (a : Nat), fmtOf f.ty.toNat ≠ none → a < 2 ^ tyWidth f.ty.toNat →
    absElem f a = a % 2 ^ (tyWidth f.ty.toNat - 1) ∧ negElem f (negElem f a) = a ∧ absElem f (negElem f a) = absElem f a) ∧
  ∀ (w : Nat) (m : Lanes) (g : Nat → Nat) (k : Nat), (w = 8 ∨ w = 16 ∨ w = 32) → k < 6144 / w →
    elem w (mapElems w m g) k = if m.getLsbD (k * w / 32) then g k % 2 ^ w else 0

/-- VCMP, VSEL, VCVT, VREDS, VREDM and VSCAN (R99-R102): the predicate, the row, or the one value in every masked-in lane that each
leaves after its latency.
Concludes that exec answers a next state for: vcmp, vsel, vcvt, vreds, vredmMax, vredmMin, vscanInc, vscanExc. -/
def Obligations.VectorRows : Prop :=
  ∀ (s : State) (f : RF),
    let m := s.me.mask f.gd
    let ua := useRead (s.me.vRow f.a.toNat) m
    let ud := useWrite (s.me.vRow f.d.toNat) m
    let ub := if scalarB f then [] else [useRead (s.me.vRow f.b.toNat) m]
    let a := elem 32 (s.srcRow f.a)
    let ta := s.srcTag f.a
    (s.goesV f.gd (scalarRegs f) = true →
      (s.rowsPass (ua :: ub) (maskPred f.gd) [] = true → ∃ v : Lanes,
        exec (.vcmp f) s = .next ((s.land 3 [.pred s.curCtx f.d.toNat v m (ta.b || (s.tagB f).b)]).stepped 1) ∧
        ∀ l, l < 192 → v.getLsbD l = if f.ty = 10 then
            ccFpEval (f.fn.extractLsb' 0 7).toNat (fmtF32.value (a l)) (fmtF32.value (s.srcB f 32 l))
          else ccIntEval (f.fn.extractLsb' 0 7).toNat 32 (a l) (s.srcB f 32 l)) ∧
      (s.rowsPass (ua :: ub ++ [ud]) (maskPred f.gd ++ [f.c.toNat]) [] = true →
        exec (.vsel f) s = .next (s.rowComing f.gd 3 f.d
          (mapElems 32 m fun k => if (s.me.rdP f.c.toNat).getLsbD k then a k else s.srcB f 32 k)
          (if s.me.mark f.c.toNat then .unknown else Tag.result [ta, s.tagB f] (optMax ta.val (s.tagB f).val))))) ∧
    (s.goesV f.gd [] = true →
      (let pairs := (cvtPairs (f.fn.extractLsb' 0 4).toNat f.ty.toNat (f.fn.extractLsb' 4 3).toNat).filter fun p => m.getLsbD p.2.2
       s.rowsPass [{ ua with lanes := lanesIn (pairs.map fun p => laneOf (tyWidth (f.fn.extractLsb' 0 4).toNat) p.1), exact := !isFloatTy f.ty },
          { ud with lanes := lanesIn (pairs.map fun p => laneOf (tyWidth f.ty.toNat) p.2.1) }] (maskPred f.gd) [] = true →
        let done := pairs.map fun p => (p.2.1, convert (f.fn.extractLsb' 0 4).toNat f.ty.toNat f.rm.toNat
            (elem (tyWidth (f.fn.extractLsb' 0 4).toNat) (s.srcRow f.a) p.1) (elemRandom s.rngWord (tyWidth f.ty.toNat) p.2.1))
        let r := putElems (tyWidth f.ty.toNat) (done.map fun p => (p.1, p.2.1))
        exec (.vcvt f) s = .next ((s.land 3 (rowEffs (s.me.rowGran s.curCtx (s.me.vRow f.d.toNat)) r.1 r.2 (Tag.result [ta] ta.val) ++
          if done.any (·.2.2) then [.poisonVc s.curCtx] else [])).stepped 1)) ∧
      (s.rowsPass [ua, ud] (maskPred f.gd) [] = true →
        let n := (maskedElems (tyWidth f.ty.toNat) m).length
        exec (.vreds f) s = .next (s.rowComing f.gd 8 f.d (mapElems 32 m fun _ => reds f.ty.toNat m (s.srcRow f.a))
          (Tag.result [ta] (optMul (some n) ta.val))) ∧
        (∀ p ∈ [(Instr.vredmMax f, true), (.vredmMin f, false)], exec p.1 s = .next (s.rowComing f.gd 8 f.d
          (mapElems 32 m fun _ => redm f.ty.toNat p.2 m (s.srcRow f.a)) (Tag.result [ta] ta.val))) ∧
        ∀ p ∈ [(Instr.vscanInc f, true), (.vscanExc f, false)], exec p.1 s = .next (s.rowComing f.gd 10 f.d
          (rowOfElems 32 (scanFrom f.ty.toNat p.2 m (s.srcRow f.a) 0 (List.range 192)))
          (Tag.result [ta] (optMul (some (maskedElems 32 m).length) ta.val)))))

/-- The instructions that move elements (R103), draw random bits (R104) and set views (R108). A pair of SETVW that is both misaligned and
above the limit raises 0x08 (the model's choice, log 72).
Concludes that exec answers a next state for: vperm, vpermTwo, vbcast, vbcastElement, vins, vext, viota, vrng, vkrng, setvwV, setvwT. -/
def Obligations.VectorMoves : Prop :=
  ∀ (s : State) (f : RF),
    let m := s.me.mask f.gd
    let w := tyWidth f.ty.toNat
    let ua := useRead (s.me.vRow f.a.toNat)
    let ub := useExact (s.me.vRow f.b.toNat) m
    let ud := useWrite (s.me.vRow f.d.toNat)
    let picks := s.pickedLanes f m
    let pickA := ua (lanesIn picks)
    let a := elem 32 (s.srcRow f.a)
    let b := elem 32 (s.srcRow f.b)
    let ta := s.srcTag f.a
    (s.goesV f.gd [] = true →
      (s.rowsPass [pickA, ub, ud m] (maskPred f.gd) [] = true → exec (.vperm f) s = .next (s.rowComing f.gd 4 f.d
        (mapElems 32 m fun l => if b l < 192 then a (b l) else 0) (Tag.result [ta, .exact] (optMax ta.val (Tag.val .exact))))) ∧
      (s.rowsPass [pickA, ub, useRead (s.me.vRow f.c.toNat) (lanesIn ((picks.filter (192 ≤ ·)).map (· - 192))), ud m] (maskPred f.gd) [] = true →
        exec (.vpermTwo f) s = .next (s.rowComing f.gd 4 f.d
          (mapElems 32 m fun l => if b l < 192 then a (b l) else if b l < 384 then elem 32 (s.srcRow f.c) (b l - 192) else 0)
          (Tag.result [ta, s.srcTag f.c] (optMax ta.val (s.srcTag f.c).val)))) ∧
      (s.rowsPass [ud m] (maskPred f.gd) [] = true →
        exec (.vrng f) s = .next (s.rowComing f.gd 3 f.d (mapElems 32 m fun l => (rotl32 s.rngWord l).toNat) .exact))) ∧
    (s.goesV f.gd [f.a.toNat] = true → s.rowsPass [ud m] (maskPred f.gd) [] = true →
      exec (.vbcast f) s = .next (s.rowComing f.gd 3 f.d (mapElems w m fun _ => (s.getS f.a).toNat) .exact) ∧
      exec (.viota f) s = .next (s.rowComing f.gd 3 f.d (mapElems w m fun k => (s.getS f.a).toNat + k) .exact)) ∧
    (s.goesV f.gd [f.b.toNat] = true →
      s.rowsPass [ua (lanesIn [laneOf w (s.getS f.b).toNat]), ud m] (maskPred f.gd) [] = true →
      exec (.vbcastElement f) s = .next (s.rowComing f.gd 3 f.d
        (mapElems w m fun _ => if (s.getS f.b).toNat < 6144 / w then elem w (s.srcRow f.a) (s.getS f.b).toNat else 0)
        (Tag.result [ta] ta.val))) ∧
    (s.goesV f.gd [f.a.toNat, f.b.toNat] = true →
      (s.rowsPass [ud m] (maskPred f.gd) [] = true → exec (.vkrng f) s = .next (s.rowComing f.gd 4 f.d
        (mapElems 32 m fun l => (kmix (s.getS f.a) (s.getS f.b + BitVec.ofNat 64 l)).toNat) .exact)) ∧
      let j := (s.getS f.b).toNat
      s.rowsPass [ud (lanesIn [laneOf w j] &&& m)] (maskPred f.gd) [] = true → exec (.vins f) s = .next (if j < 6144 / w ∧ m.getLsbD (laneOf w j) = true then
          (s.land 3 (rowEffs (s.me.rowGran s.curCtx (s.me.vRow f.d.toNat)) (putElems w [(j, (s.getS f.a).toNat)]).1
            (putElems w [(j, (s.getS f.a).toNat)]).2 .exact)).stepped 1
        else s.stepped 1)) ∧
    (s.goes 0 f.gd [f.b.toNat] = true → s.rowsPass [useExact (s.me.vRow f.a.toNat) (lanesIn [laneOf w (s.getS f.b).toNat])] [] [] = true →
      exec (.vext f) s = .next ((s.putS f.d.toNat (extend (f.ty.toNat < 4) w (BitVec.ofNat 64
        (if (s.getS f.b).toNat < 6144 / w then elem w (s.srcRow f.a) (s.getS f.b).toNat else 0))) 3).stepped 1)) ∧
    (s.goes 0 f.gd [f.a.toNat, f.b.toNat] = true →
      let x := s.getS f.a
      let y := s.getS f.b
      (x.extractLsb' 0 6 ≠ 0 → exec (.setvwV f) s = .next (s.trapped 0x08 x) ∧ exec (.setvwT f) s = .next (s.trapped 0x08 x)) ∧
      (x.extractLsb' 0 6 = 0 → y.extractLsb' 0 6 = 0 → 65535 < x.toNat →
        exec (.setvwV f) s = .next (s.trapped 0x07 x) ∧ exec (.setvwT f) s = .next (s.trapped 0x07 x)) ∧
      (x.extractLsb' 0 6 = 0 → y.extractLsb' 0 6 = 0 → x.toNat ≤ 65535 → y.toNat ≤ 65535 →
        exec (.setvwV f) s = .next ((s.modMe fun c => { c with viewV := y <<< 32 ||| x }).stepped 1) ∧
        exec (.setvwT f) s = .next ((s.modMe fun c => { c with viewT := y <<< 32 ||| x }).stepped 1)))

/-- Results in flight (R90, R94, R126, R127): scheduling one changes nothing else; when due it lands: masked-in lanes of the row take the
data, the others and every other granule keep theirs, and under a full mask the row's granules of a window take the tag; of a
predicate result in flight the lanes that a scalar instruction has written, to land no earlier, are not written (R127). Several results
due land in the order of their landing cycles, those of one cycle in issue order.
Concludes that exec answers a next state for: resultLanding. -/
def Obligations.ResultsLand : Prop :=
  (∀ (s : State) (lat : Nat) (effs : List LandEff), effs ≠ [] → s.sameElsewhere (s.land lat effs) ∧
    { (s.land lat effs).myCore with landings := s.myCore.landings } = s.myCore ∧
    (s.land lat effs).myCore.landings = s.myCore.landings ++ [{ due := s.now + lat, ctx := s.curCtx, effs := effs }]) ∧
  (∀ (s : State) (c : Nat) (l : Landing), (s.core c).landings = [l] →
    (l.due ≤ (s.core c).clock → exec (.resultLanding c) s =
      .next (s.modCore c fun x => l.effs.foldl Core.landEff { x with landings := [] })) ∧
    ((s.core c).clock < l.due → exec (.resultLanding c) s = .next s)) ∧
  (∀ (s : State) (c : Nat), let due := (s.core c).landings.filter fun l => decide (l.due ≤ (s.core c).clock)
    (due = [] → exec (.resultLanding c) s = .next s) ∧
    (due ≠ [] → ∃ ls : List Landing, ls.Perm due ∧ ls.Pairwise (fun l m => l.due ≤ m.due) ∧
      (∀ d, (ls.filter fun l => decide (l.due = d)) = due.filter fun l => decide (l.due = d)) ∧
      exec (.resultLanding c) s = .next (s.modCore c fun x => ls.foldl (fun x l => l.effs.foldl Core.landEff x)
        { x with landings := x.landings.filter fun l => !decide (l.due ≤ (s.core c).clock) }))) ∧
  (∀ (x : Core) (g : Nat) (data : Row) (m : Lanes) (tag : Tag), let y := (rowEffs g data (laneBits m) tag).foldl Core.landEff x
    (∀ l, l < 192 → elem 32 (y.row g) l = if m.getLsbD l then elem 32 data l else elem 32 (x.row g) l) ∧
    (∀ h, (h < g ∨ g + 12 ≤ h) → y.gran h = x.gran h ∧ y.tag h = x.tag h) ∧
    (m = allLanes → g + 12 ≤ 4096 → ∀ i, i < 12 → y.tag (g + i) = tag)) ∧
  (∀ (x : Core) (k n lat : Nat) (d m w : Lanes) (b : Bool) (l : Landing), l ∈ x.landings → l.effs = [.pred k n d m b] →
    { l with effs := [if l.due ≤ x.clock + lat then .pred k n d (m &&& ~~~w) false else .pred k n d m b] } ∈ (x.cover k n lat w).landings) ∧
  ∀ (x : Core) (k n : Nat) (data m : Lanes) (mark : Bool), n ≠ 0 → let y := x.landEff (.pred k n data m mark)
    (∀ l, l < 192 → ((y.ctx k).rdP n).getLsbD l = if m.getLsbD l then data.getLsbD l else ((x.ctx k).rdP n).getLsbD l) ∧
    (y.ctx k).mark n = (mark || ((x.ctx k).mark n && m != allLanes))

/-- Row loads and stores (R105-R107): a load from the own slice lands 6 cycles later, one row a cycle; from elsewhere it joins the
pending accesses, and returning brings its lanes; a store takes its row at issue, joins the store buffer, and performing, not before its
sixth cycle where it goes to the own slice, writes the masked-in elements and no other byte. A row over pages with and without A is bounded
as a whole, and so is every row of a VLDT (the model's choice, log 72); a VST partly outside the own slice has no fixed cycle (the model's
choice, log 86).
Concludes that exec answers a next state for: vld, vst, vldt, loadReturn, storePerform. -/
def Obligations.RowAccesses : Prop :=
  (∀ (s : State) (f : MF) (r : RowAcc), s.goesV f.gd (rowRegs f) = true → let m := s.me.mask f.gd
    (∀ p ∈ [(Instr.vld f, [s.me.vRow f.d.toNat]), (.vldt f, (List.range 8).map (s.me.tRow f.d.toNat))],
      s.rowsPass (p.2.map fun d => useWrite d m) (maskPred f.gd) [] = true →
      let g := s.me.rowGran s.curCtx (p.2.headD (.acc 0))
      (∀ body, s.rowAccess f p.2.length false m (s.rowReady f m g) body = body r) →
      let b := s.rowAccOf f r (.vload g m r.anyA) (if r.loc then some s.now else none)
      (r.loc = true → s.orderOk b = true → exec p.1 s = .next (((List.range p.2.length).foldl (fun t j =>
        t.land (6 + j) (rowEffs (g + 12 * j) (s.gatherRow r.bits r.ew m j) (laneBits m)
          (if r.anyA then .unknown else .exact))) s).stepped 1)) ∧
      (r.loc = false → s.me.loadRoom = true → exec p.1 s = .next ((s.push b).stepped 1))) ∧
    (let src := s.me.vRow f.d.toNat
     s.rowsPass [{ useRead src m with exact := s.pageExact f, info := some (s.rowEa f) }] (maskPred f.gd) [] = true →
     (∀ body, s.rowAccess f 1 true m (fun _ => true) body = body r) →
     (r.allA = false → (s.refTag src).b = false) → s.me.storeRoom = true →
     exec (.vst f) s = .next ((s.push
       (s.rowAccOf f r (.vstore m (s.refRow src)) (if r.loc then some (s.now + 6) else none))).stepped 1))) ∧
  (∀ (s : State) (c k i : Nat) (a : Access) (g : Nat) (m : Lanes) (bd : Bool), (s.ctx c k).acc[i]? = some a → a.kind = .vload g m bd →
    s.mayPerform c k i = true → s.accessError c a = false → a.ew = 32 → a.bits.length = 192 →
    ∃ t, exec (.loadReturn c k i) s = .next t ∧ (∀ b, t.byte b = s.byte b) ∧
      ∀ l, l < 192 → elem 32 ((t.core c).row g) l = if m.getLsbD l then
        s.readBits (8 * readAt (a.bits.getD l 0 / 8) (a.holdAt (a.bits.getD l 0 / 8)) (dieOf c) + a.bits.getD l 0 % 8) 32 else elem 32 ((s.core c).row g) l) ∧
  (∀ (s : State) (c k i d : Nat) (a : Access) (m : Lanes) (r : Row), (s.ctx c k).acc[i]? = some a → a.kind = .vstore m r → a.due = some d →
    (s.core c).clock < d → exec (.storePerform c k i) s = .next s) ∧
  ∀ (s : State) (c k i : Nat) (a : Access) (m : Lanes) (r : Row), (s.ctx c k).acc[i]? = some a → a.kind = .vstore m r →
    s.mayPerform c k i = true → a.dead = false → a.hold = 0 → a.holds = [] →
    ∃ t, exec (.storePerform c k i) s = .next t ∧
      (∀ b, (∀ e, e < 6144 / a.ew → m.getLsbD (laneOf a.ew e) = true →
        b < a.bits.getD e 0 / 8 ∨ a.bits.getD e 0 / 8 + max 1 (a.ew / 8) ≤ b) → t.byte b = s.byte b) ∧
      (∀ base, a.ew = 32 → (∀ e, e < 192 → a.bits.getD e 0 = 8 * (base + 4 * e)) →
        ∀ e j, e < 192 → m.getLsbD e = true → j < 4 →
          t.byte (base + 4 * e + j) = s.wrote (base + 4 * e + j) (BitVec.ofNat 8 (elem 32 r e / 2 ^ (8 * j))))

/-! ## Table engine and accumulator rows (spec/05 R109-R118) -/

/-- The table engine (R113-R117): TLD takes a legal header into its slot and starts the background load, an illegal one raises 0x0D; the
load ends with the slot's coefficients; TEV evaluates every masked-in element and lands after 12 cycles, on an invalid slot it raises
0x0D; TCFG invalidates a slot or reads its status; a slot that loads, or a TEV in flight on it, holds TLD and the invalidation, and a slot
that loads holds TEV.
Concludes that exec answers a next state for: tld, tableLoadComplete, tev, tcfgInv, tcfgStat. -/
def Obligations.TableEngine : Prop :=
  (∀ (s : State) (f : MF) (pa : Nat) (at' : Attr), s.goes 0 f.gd [f.a.toNat, f.b.toNat] = true →
    let ea := s.eaIndexed f
    ea.extractLsb' 0 6 = 0 → eaAlias ea = 0 → s.accessPass .peek ea 64 f.sc.toNat false pa at' = true →
    let b := s.newAccess (.table f.d.toNat) ea [8 * pa] 512 at' (s.holdOf ea) f.k.toNat f.sc.toNat f.aq false (modOf pa)
    s.orderOk b = true →
    let ph := readAt pa (if at'.d then s.holdOf ea else 0) (dieOf s.curCore)
    (s.tableHeader ph = none → exec (.tld f) s = .next (s.trapped 0x0D ea)) ∧
    ∀ t, s.tableHeader ph = some t →
      (∀ i, i < t.nseg → ∃ paL atL, s.accessPass .peek (ea + BitVec.ofNat 64 (64 + 16 * i)) 16 f.sc.toNat false paL atL = true) →
      (s.myCore.tab f.d.toNat).loading = false → (s.myCore.tab f.d.toNat).evUntil ≤ s.now →
      ∃ u, exec (.tld f) s = .next u ∧ u.myCore.tab f.d.toNat = t ∧ (∀ n, n ≠ f.d.toNat → u.myCore.tab n = s.myCore.tab n) ∧
        u.me.acc.length = s.me.acc.length + 1 ∧ (∀ n, u.me.rd n = s.me.rd n) ∧ ∀ x, u.byte x = s.byte x) ∧
  (∀ (s : State) (f : MF) (pa : Nat) (at' : Attr) (t : TabSlot), s.goes 0 f.gd [f.a.toNat, f.b.toNat] = true →
    let ea := s.eaIndexed f
    ea.extractLsb' 0 6 = 0 → eaAlias ea = 0 → s.accessPass .peek ea 64 f.sc.toNat false pa at' = true →
    s.orderOk (s.newAccess (.table f.d.toNat) ea [8 * pa] 512 at' (s.holdOf ea) f.k.toNat f.sc.toNat f.aq false (modOf pa)) = true →
    s.tableHeader (readAt pa (if at'.d then s.holdOf ea else 0) (dieOf s.curCore)) = some t →
    (∀ i, i < t.nseg → ∃ paL atL, s.accessPass .peek (ea + BitVec.ofNat 64 (64 + 16 * i)) 16 f.sc.toNat false paL atL = true) →
    ((s.myCore.tab f.d.toNat).loading = true ∨ s.now < (s.myCore.tab f.d.toNat).evUntil) → exec (.tld f) s = .next s.hold) ∧
  (∀ (s : State) (f : RF), s.goesV f.gd [] = true → (s.myCore.tab (f.fn.extractLsb' 0 3).toNat).loading = true →
    exec (.tev f) s = .next s.hold) ∧
  (∀ (s : State) (c n k i : Nat) (a : Access), k < 4 → (s.ctx c k).acc.findIdx? (fun a => a.kind == .table n) = some i →
    (s.ctx c k).acc[i]? = some a → (∀ j, j < k → (s.ctx c j).acc.findIdx? (fun a => a.kind == .table n) = none) →
    s.mayPerform c k i = true → a.dead = false → (∀ b ∈ a.bits, s.poisoned (readAt (b / 8) (a.holdAt (b / 8)) (dieOf c)) = false) →
    ∃ t, exec (.tableLoadComplete c n) s = .next t ∧ (t.core c).tab n = { (s.core c).tab n with
      loading := false
      coef := a.bits.flatMap fun b => (List.range 4).map fun j => BitVec.ofNat 32 (s.seenN (readAt (b / 8) (a.holdAt (b / 8)) (dieOf c) + 4 * j) 4) }) ∧
  (∀ (s : State) (f : RF), s.goesV f.gd [] = true →
    let n := (f.fn.extractLsb' 0 3).toNat
    let t := s.myCore.tab n
    let w := tyWidth f.ty.toNat
    t.loading = false →
    s.rowsPass [useRead (s.me.vRow f.a.toNat) (s.me.mask f.gd), useWrite (s.me.vRow f.d.toNat) (s.me.mask f.gd)] (maskPred f.gd) [] = true →
    (t.valid = false → exec (.tev f) s = .next (s.trapped 0x0D (BitVec.ofNat 64 n))) ∧
    ∀ fm, t.valid = true → fmtOf f.ty.toNat = some fm → exec (.tev f) s = .next
      (((s.landRow 12 (s.me.vRow f.d.toNat) (s.me.mask f.gd)
        (mapElems w (s.me.mask f.gd) fun k => fm.round f.rm.toNat (fmtF32.value (t.eval
          (if f.ty.toNat = 9 then elem w (s.srcRow f.a) k * 65536 else elem w (s.srcRow f.a) k))) (elemRandom s.rngWord w k))
        (Tag.result [s.srcTag f.a] (optMul (some (fmtF32.value t.lip.toNat).rat) (s.srcTag f.a).val))).modMy
          fun x => x.setTab n { x.tab n with evUntil := s.now + 12 }).stepped 1)) ∧
  ∀ (s : State) (f : RF), let n := f.c.toNat
    (s.goes 0 f.gd [] = true →
      ((s.myCore.tab n).loading = true ∨ s.now < (s.myCore.tab n).evUntil → exec (.tcfgInv f) s = .next s.hold) ∧
      ((s.myCore.tab n).loading = false → (s.myCore.tab n).evUntil ≤ s.now →
        exec (.tcfgInv f) s = .next ((s.modMy fun x => x.setTab n TabSlot.init).stepped 1) ∧
        ((s.modMy fun x => x.setTab n TabSlot.init).myCore.tab n).valid = false)) ∧
    (s.goes 0 f.gd [] = true →
      exec (.tcfgStat f) s = .next ((s.putS f.d.toNat (s.myCore.tab n).stat 1).stepped 1) ∧
      (s.myCore.tab n).stat.getLsbD 63 = (s.myCore.tab n).valid ∧ (s.myCore.tab n).stat.getLsbD 62 = (s.myCore.tab n).loading ∧
      (s.myCore.tab n).stat.extractLsb' 0 32 = (s.myCore.tab n).lip)

/-- Accumulator rows (R109-R112): AMOV and ALDV move a row with its tag, ALDV.add adds lane by lane with one rounding and combines with the
row's tag as it stands at issue (the model's choice, log 72), ACLR clears rows at
16 a cycle, ADMIT tests a tag against the threshold into a predicate and, where it holds, clears the tag.
Concludes that exec answers a next state for: amov, aclr, aldv, aldvAdd, admitRow, admitView. -/
def Obligations.AccumulatorRows : Prop :=
  (∀ (s : State) (f : RF),
    let m := s.me.mask f.gd
    let a := RowRef.acc (s.accIndex f)
    let row := s.me.accRow (s.accIndex f)
    let b := s.me.vRow f.b.toNat
    (s.goesV f.gd [f.a.toNat] = true →
      (s.rowsPass [{ useRead a m with poison := true }, useWrite (s.me.vRow f.d.toNat) m] (maskPred f.gd) [] = true →
        exec (.amov f) s = .next (s.rowComing f.gd 5 f.d (s.refRow a) (s.refTag a))) ∧
      (s.rowsPass [useRead b m, useWrite a m] (maskPred f.gd) [] = true →
        exec (.aldv f) s = .next ((s.land 5 (rowEffs (accGran row) (s.refRow b) (laneBits m) .exact ++
          [if m = allLanes then .sideSet row (mkSide (s.refTag b) false) else .sideOr row (s.refTag b)])).stepped 1)) ∧
      (s.rowsPass [useRead b m, { useRead a m with write := true }] (maskPred f.gd) [] = true →
        exec (.aldvAdd f) s = .next ((s.land 5 (rowEffs (accGran row)
          (mapElems 32 m fun l => fmtF32.round f.rm.toNat (Fv.add f.rm.toNat (fmtF32.value (elem 32 (s.refRow a) l))
            (fmtF32.value (elem 32 (s.refRow b) l))) (elemRandom s.rngWord 32 l)) (laneBits m) .exact ++
          [.sideTag row (Tag.result [s.refTag a, s.refTag b] (optAdd (s.refTag a).val (s.refTag b).val))])).stepped 1))) ∧
    (s.goesV f.gd [f.a.toNat, f.b.toNat] = true →
      let run := List.range (min (s.getS f.b).toNat 1025)
      s.rowsPass (run.map fun j => useWrite (.acc (s.accIndex f + j)) m) (maskPred f.gd) [] = true →
      exec (.aclr f) s = .next ((run.foldl (fun t j =>
        t.land (3 + j / 16) (rowEffs (accGran (s.me.accRow (s.accIndex f + j))) 0 (laneBits m) .exact ++
          if m = allLanes then [.sideSet (s.me.accRow (s.accIndex f + j)) 0] else [])) s).stepped 1))) ∧
  ∀ (s : State) (f : RF), let thr := s.getS f.b
    (s.goes 0 f.gd [f.a.toNat, f.b.toNat] = true → let a := RowRef.acc (s.accIndex f)
      s.rowsPass [{ useRead a allLanes with write := true }] [] [] = true →
      exec (.admitRow f) s = .next ((s.land 3 ([.pred s.curCtx f.d.toNat (lanesOf (admits (s.refTag a) thr)) allLanes false] ++
        if admits (s.refTag a) thr = true ∧ (s.refTag a).b = true then [.sideTag (s.me.accRow (s.accIndex f)) .exact] else [])).stepped 1)) ∧
    (s.goes 0 f.gd [f.b.toNat] = true → let a := s.me.vRow f.a.toNat
      s.rowsPass [useRead a allLanes] [] [] = true →
      exec (.admitView f) s = .next ((s.land 3 ([.pred s.curCtx f.d.toNat (lanesOf (admits (s.refTag a) thr)) allLanes false] ++
        if admits (s.refTag a) thr = true ∧ (s.refTag a).b = true then
          (List.range 12).map fun i => .clearTag (s.me.rowGran s.curCtx a + i) else [])).stepped 1)) ∧
    (∀ c, thr.extractLsb' 0 16 = c → c.toNat ≤ 0x7F80 → ∀ t : Tag, admits t thr = (!t.b || decide (t.bound.toNat ≤ c.toNat)))

/-! ## Tasks (spec/09, spec/07 R122-R123, spec/13) -/

/-- SPAWN and JOIN (R153, R155, R156, R211): a legal record joins the queue of its priority at its grotto, and no
register and no byte of memory changes (the queue's ring and counters no reader may know); a join counter falls by one, pushing its
continuation at zero. Refusals raise their traps.
Concludes that exec answers a next state for: spawn, spawnG, join. -/
def Obligations.SpawnJoin : Prop :=
  (∀ (s : State) (f : RF) (pa : Nat) (at' : Attr), let a := s.getS f.a
    let r := s.recAt (readAt pa (if at'.d then s.holdOf a else 0) (dieOf s.curCore)) s.me.space s.me.lid
    ∀ p ∈ [(Instr.spawn f, [f.a.toNat], grottoOf s.curCore, true),
        (.spawnG f, [f.a.toNat, f.b.toNat], (s.getS f.b).toNat, !r.pin && decide ((s.getS f.b).toNat < 64))],
      s.goes 0 f.gd p.2.1 = true →
      (a.extractLsb' 0 5 ≠ 0 → exec p.1 s = .next (s.trapped 0x08 a)) ∧
      (a.extractLsb' 0 5 = 0 → s.me.inStep = true → exec p.1 s = .next (s.trapped 0x15 0)) ∧
      (a.extractLsb' 0 5 = 0 → s.me.inStep = false → s.accessPass .peek a 32 3 true pa at' = true →
        (r.softOk = false ∨ p.2.2.2 = false → s.releasePass = true → exec p.1 s = .next (s.trapped 0x0D a)) ∧
        (r.softOk = true → p.2.2.2 = true → s.releasePass = true →
          let g := if r.pin then grottoOf r.coreNo else p.2.2.1
          (r.pin = true → (s.core r.coreNo).retired = false) → ((s.grotto g).queue r.pri).length + 64 < s.queueSlots g r.pri →
          ∃ t, exec p.1 s = .next t ∧ (∀ h l, (t.grotto h).queue l =
              if h = g ∧ l = r.pri then (s.grotto h).queue l ++ [r] else (s.grotto h).queue l) ∧
            (∀ x, t.byte x = s.byte x) ∧
            ∀ n, t.me.rd n = s.me.rd n))) ∧
  (∀ (s : State) (f : RF) (pa : Nat) (at' : Attr), s.goes 0 f.gd [f.a.toNat] = true → let a := s.getS f.a
    (a.extractLsb' 0 6 ≠ 0 → exec (.join f) s = .next (s.trapped 0x08 a)) ∧
    (a.extractLsb' 0 6 = 0 → s.me.inStep = false → s.accessPass .update a 64 3 true pa at' = true → s.me.acc = [] →
      ∀ u old, s.decrement (some (s.curCore, s.curCtx)) (grottoOf s.curCore) s.me.space s.me.lid pa (if at'.d then s.holdOf a else 0) =
        some (u, old) → exec (.join f) s = .next (((if old = 0 then u else u.modMe (·.ownWrite [8 * pa])).noteStore.putS f.d.toNat old 1).stepped 1))) ∧
  (∀ (s : State) (who : Option (Nat × Nat)) (g space lid pa : Nat), let old := s.seenWord pa
    (old = 0 → s.decrement who g space lid pa 0 = some (s, 0)) ∧
    (1 < old.toNat → (∀ j, j < 8 → s.roByte (pa + j) = 0) → ∃ t, s.decrement who g space lid pa 0 = some (t, old) ∧ t.readWord pa = old - 1 ∧
      (∀ b, (b < pa ∨ pa + 8 ≤ b) → t.byte b = s.byte b) ∧ t.grottos = s.grottos) ∧
    (old = 1 → let t := s.storeD who pa 0 (leBytes 8 0) none
      (∀ u, t.pushRec g (t.recAt (pa + 32) space lid) 0 = some u → s.decrement who g space lid pa 0 = some (u, 1)) ∧
      (∀ j, j < 8 → s.roByte (pa + j) = 0) → t.readWord pa = 0))

/-- DONE (R64, R153, R156, R219, R223, R130): with its results landed and its stores performed the task ends: its join counter falls, a tile
step queues its retire copies, a gang member is counted, and the context is free, that of a gang's member once every member is done. A
step's own record names no join counter: that of its block falls once, as the walk completes (`Scheduling`, R223).
Concludes that exec answers a next state for: done. -/
def Obligations.TaskDone : Prop :=
  ∀ (s : State) (f : RF) (t : Task), s.goes 0 f.gd [] = true → s.myCore.landed s.curCtx = true → s.me.acc = [] →
    s.me.discard = none → s.me.task = some t →
    let c := s.curCore
    let k := s.curCtx
    (t.r.joina = 0 →
      (t.step = none → t.gang = none → exec (.done f) s = .next ((s.freeCtx c k).modMy (·.countIssue k))) ∧
      (∀ id, t.step = none → t.gang = some id → exec (.done f) s = .next ((s.memberEnd id c k).modMy (·.countIssue k))) ∧
      (∀ sr b, t.step = some sr → s.blk sr.grotto sr.block = some b → b.op.nret ≤ (s.myCore.freeSlots 0).length →
        exec (.done f) s = .next (((s.stepDone c k b.op sr t.r.space t.r.lid).freeCtx c k).modMy (·.countIssue k)))) ∧
    (∀ pa at' u old, t.r.joina ≠ 0 → s.accessPass .update t.r.joina 64 3 true pa at' = true →
      s.decrement (some (c, k)) (grottoOf c) t.r.space t.r.lid pa (if at'.d then s.holdOf t.r.joina else 0) = some (u, old) →
      (t.step = none → t.gang = none → exec (.done f) s = .next ((u.freeCtx c k).modMy (·.countIssue k))) ∧
      (∀ id, t.step = none → t.gang = some id → exec (.done f) s = .next ((u.memberEnd id c k).modMy (·.countIssue k)))) ∧
    (∀ u : State, (u.freeCtx c k).ctx c k = { u.ctx c k with
      task := none, run := .ready, delay := none, acc := [], level := 0, preempt := false, yieldTo := [], discard := none,
      resv := none, spin := Spin.init, query := none, win := none, fenceh := none })

/-- Waiting (R158, R160, R163, R164, R165, R219, R309): WAITF and the pipe gets write their result at once or leave the context waiting; the
events read again, through the page table as it stands, and let it continue with its result when the future is full, or a slot is there; a barrier's last arrival releases the phase, an earlier one waits;
YIELD drains and passes over; YIELD.q of a task that may not spill, or that a pre-emption stops once it returns (R288), acts as YIELD. The
model's choices: trap.info of the barriers' 0x0D is free (log 20); it comes before 0x15 in BAR and BAR.cfg (log 87); YIELD.q spills at any level (log 48); a waiter reads again at any time, and
issues again where its read is lost (log 82).
Concludes that exec answers a next state for: waitf, futureWake, yield, yieldQ, pipewGet, pipewPut, piperGet, piperPut, pipeWake, bar,
barCfg, gbar. -/
def Obligations.Waiting : Prop :=
  (∀ (s : State) (f : RF) (pa : Nat) (at' : Attr), s.goes 0 f.gd [f.a.toNat] = true → let a := s.getS f.a
    let pr := readAt pa (if at'.d then s.holdOf a else 0) (dieOf s.curCore)
    s.accessPass .peek a 8 3 false pa at' = true → s.readReady a pa 8 at' = true →
    ((s.seenWord pr).getLsbD 63 = true → exec (.waitf f) s =
      .next (((s.modMe fun x => { x with resv := none }).putS f.d.toNat (s.seenWord pr) 1).stepped 1)) ∧
    ((s.seenWord pr).getLsbD 63 = false → exec (.waitf f) s = .next (s.stopWait (.future f.d.toNat a)).jumped)) ∧
  (∀ (s : State) (c k d : Nat) (a : Word), (s.ctx c k).run = .waiting (.future d a) → let now := s.readAgain c (s.ctx c k).space a 8
    (∀ pa, now = .here pa →
      ((s.seenWord pa).getLsbD 63 = true → ∃ t, exec (.futureWake c k) s = .next t ∧ (t.ctx c k).run = .ready ∧
        ∀ n, (t.ctx c k).rd n = if n = 0 then 0 else if n = d then s.seenWord pa else (s.ctx c k).rd n) ∧
      ((s.seenWord pa).getLsbD 63 = false → exec (.futureWake c k) s = .next s)) ∧
    (now = .lost → exec (.futureWake c k) s = .next (s.modCtx c k fun x => { x with run := .ready })) ∧
    (now = .notYet → exec (.futureWake c k) s = .next s)) ∧
  (∀ (s : State) (f : RF) (l : Launch) (pa : Nat) (at' : Attr), let n := s.getS f.b
    s.me.inStep = false → s.launchOf s.me.space = some l → n.toNat < l.np →
    ∀ p ∈ [(Instr.pipewGet f, Instr.pipewPut f, true), (.piperGet f, .piperPut f, false)],
      (s.goes 0 f.gd [f.b.toNat] = true →
        ((l.holder n.toNat p.2.2).isSome = true → exec p.1 s = .next (s.trapped 0x13 n)) ∧
        (l.holder n.toNat p.2.2 = none → s.accessPass .peek (l.desc n) 64 3 false pa at' = true →
          s.readReady (l.desc n) pa 64 at' = true →
          let d := s.pipeAt (readAt pa (if at'.d then s.holdOf (l.desc n) else 0) (dieOf s.curCore))
          let t := s.modLaunch s.me.space fun l => l.take n.toNat p.2.2 s.me.tid
          (d.ok = false → exec p.1 s = .next (s.trapped 0x13 n)) ∧
          (d.ok = true → d.blocked p.2.2 = false → exec p.1 s = .next ((t.putS f.d.toNat (d.slot p.2.2) 1).stepped 1)) ∧
          (d.ok = true → d.blocked p.2.2 = true → exec p.1 s = .next (t.waitFor (.pipe f.d.toNat p.2.2 n.toNat)).jumped))) ∧
      (s.goes 0 f.gd [f.b.toNat] = true →
        (l.holder n.toNat p.2.2 ≠ some s.me.tid → exec p.2.1 s = .next (s.trapped 0x13 n)) ∧
        (l.holder n.toNat p.2.2 = some s.me.tid → s.accessPass .update (l.desc n) 64 3 true pa at' = true →
          (s.pipeAt pa).ok = true → s.releasePass = true → ∃ t, exec p.2.1 s = .next t ∧
            t.mem = (s.storeD (some (s.curCore, s.curCtx)) (pa + if p.2.2 then 16 else 24) (if at'.d then s.holdOf (l.desc n) else 0)
              (leBytes 8 (((if p.2.2 then (s.pipeAt pa).widx else (s.pipeAt pa).ridx) + 1) % 2 ^ 64)) none).mem ∧
            t.launches = (s.modLaunch s.me.space fun l => l.drop n.toNat p.2.2).launches))) ∧
  (∀ (s : State) (c k d n pa : Nat) (wr : Bool), (s.ctx c k).run = .waiting (.pipe d wr n) →
    s.pipeNow c (s.ctx c k).space n = .here pa → let p := s.pipeAt pa
    (p.ok = false → exec (.pipeWake c k) s = .next (((s.modLaunch (s.ctx c k).space fun l => l.drop n wr).modCtx c k
      fun x => { x with run := .ready }).raise c k 0x13 (BitVec.ofNat 64 n) (s.ctx c k).pc)) ∧
    (p.ok = true → p.blocked wr = false → ∃ t, exec (.pipeWake c k) s = .next t ∧ (t.ctx c k).run = .ready ∧
      ∀ m, (t.ctx c k).rd m = if m = 0 then 0 else if m = d then p.slot wr else (s.ctx c k).rd m) ∧
    (p.ok = true → p.blocked wr = true → exec (.pipeWake c k) s = .next s)) ∧
  (∀ (s : State) (f : RF), s.goes 0 f.gd [] = true → let n := f.c.toNat
    let b := s.myGrotto.bar n
    (b.party = 0 → exec (.bar f) s = .next (s.trappedFree 0x0D)) ∧
    (b.party ≠ 0 → s.me.inStep = false → s.releasePass = true →
      let t := s.modMyGrotto fun x => x.setBar n { b with arr := b.arr + 1 }
      (b.arr + 1 < b.party → exec (.bar f) s = .next (t.waitFor (.bar f.d.toNat n b.phase)).jumped) ∧
      (b.party ≤ b.arr + 1 → ∃ u, exec (.bar f) s = .next u ∧ u.myGrotto.bar n = { b with arr := 0, phase := b.phase + 1 } ∧
        u.me.rd f.d.toNat = if f.d.toNat = 0 then 0 else BitVec.ofNat 64 b.phase))) ∧
  (∀ (s : State) (f : RF) (t : Task) (id : Nat) (x : Gang), s.goes 0 f.gd [] = true → s.me.task = some t →
    t.gang = some id → s.gang id = some x → x.id = id → s.me.inStep = false → s.releasePass = true → let n := f.c.toNat
    let b := x.bar n
    let u := s.modGang id fun x => x.setBar n { b with arr := b.arr + 1 }
    (b.arr + 1 < x.alive → exec (.gbar f) s = .next (u.waitFor (.gbar f.d.toNat n b.phase)).jumped) ∧
    (x.alive ≤ b.arr + 1 → exec (.gbar f) s =
      .next (((u.gbarDone id n).putS f.d.toNat (BitVec.ofNat 64 b.phase) 1).stepped 1))) ∧
  (∀ (s : State) (f : RF), s.goes 0 f.gd [f.a.toNat] = true → let v := (s.getS f.a).toNat
    (v = 0 ∨ 128 < v → exec (.barCfg f) s = .next (s.trappedFree 0x0D)) ∧
    (1 ≤ v → v ≤ 128 → (s.myGrotto.bar f.c.toNat).arr ≠ 0 → s.me.level = 0 → exec (.barCfg f) s = .next (s.trappedFree 0x0D)) ∧
    (1 ≤ v → v ≤ 128 → (s.myGrotto.bar f.c.toNat).arr = 0 → s.me.inStep = false →
      exec (.barCfg f) s = .next ((s.modMyGrotto fun x => x.setBar f.c.toNat ⟨v, 0, 0⟩).stepped 1)) ∧
    (1 ≤ v → v ≤ 128 → (s.myGrotto.bar f.c.toNat).arr ≠ 0 → s.me.level ≠ 0 → s.me.inStep = false → ∃ t, exec (.barCfg f) s = .next t ∧
      t = (((s.barDone (grottoOf s.curCore) f.c.toNat).modMyGrotto fun x => x.setBar f.c.toNat ⟨v, 0, 0⟩).modMy fun x =>
        (x.countIssue s.curCtx).advance s.curCtx 1))) ∧
  ∀ (s : State) (f : RF), s.goes 0 f.gd [] = true → s.myCore.landed s.curCtx = true →
    let t := (s.modMy fun x => (x.setCtx s.curCtx (x.ctx s.curCtx).stopClear).passOver s.curCtx).stepped 1
    exec (.yield f) s = .next t ∧
    (∀ k, s.me.task = some k → k.spillable = false ∨ s.me.preempt = true → s.me.inStep = false → exec (.yieldQ f) s = .next t) ∧
    (s.me.inStep = true → exec (.yieldQ f) s = .next (s.trapped 0x15 0)) ∧
    ∀ k u v, s.me.task = some k → k.spillable = true → s.me.preempt = false → s.me.inStep = false → s.me.acc = [] →
      (s.modMy fun x => x.advance s.curCtx 1).spillState s.curCore s.curCtx k = some u →
      u.pushRec (grottoOf s.curCore) (k.r.asResume s.curCore k.tid) 0 = some v →
      exec (.yieldQ f) s = .next (v.freeCtx s.curCore s.curCtx).jumped

/-- Range units, the walker and handler starts (R162, R166, R167, R157): a take returns the next chunk and its first index; WALK puts
its block behind those of the grotto; SENDH copies its bytes into the other slice, line by line (of two lines that overlap the later stays),
and leaves a handler start there. The model's choices: the trap.info of RNGT.cfg's 0x0D is free (log
20), which comes before 0x15, and a SENDH to the own slice runs (log 87).
Concludes that exec answers a next state for: rngtCfg, rngt, walk, sendh. -/
def Obligations.WorkGiven : Prop :=
  (∀ (s : State) (f : RF), s.goes 0 f.gd [f.a.toNat, f.b.toNat] = true → let a := s.getS f.a
    let v := s.getS f.b
    (2 ^ 40 ≤ a.toNat ∨ v.extractLsb' 0 24 = 0 ∨ v.extractLsb' 24 8 = 0 ∨ v.extractLsb' 32 8 = 0 ∨ v.extractLsb' 40 24 ≠ 0 →
      exec (.rngtCfg f) s = .next (s.trappedFree 0x0D)) ∧
    (a.toNat < 2 ^ 40 → v.extractLsb' 0 24 ≠ 0 → v.extractLsb' 24 8 ≠ 0 → v.extractLsb' 32 8 ≠ 0 → v.extractLsb' 40 24 = 0 →
      s.me.inStep = false → ∃ t, exec (.rngtCfg f) s = .next t ∧ t.myGrotto.range f.c.toNat =
        { rem := a.toNat, next := 0, min := (v.extractLsb' 0 24).toNat, k := (v.extractLsb' 24 8).toNat, p := (v.extractLsb' 32 8).toNat })) ∧
  (∀ (s : State) (f : RF), s.goes 0 f.gd [] = true → s.me.inStep = false → let r := s.myGrotto.range f.c.toNat
    r.k ≠ 0 → r.p ≠ 0 →
    let n := min r.rem (min (2 ^ 24 - 1) (max r.min ((r.rem + r.k * r.p - 1) / (r.k * r.p))))
    ∃ t, exec (.rngt f) s = .next t ∧ t.myGrotto.range f.c.toNat = { r with rem := r.rem - n, next := r.next + n } ∧
      (∀ j, j ≠ f.c.toNat → t.myGrotto.range j = s.myGrotto.range j) ∧
      ∀ m, t.me.rd m = if m = 0 then 0 else if m = f.d.toNat then BitVec.ofNat 64 (n * 2 ^ 40 + r.next) else s.me.rd m) ∧
  (∀ (s : State) (f : RF) (pas : List Nat), s.goes 0 f.gd [f.a.toNat] = true → let a := s.getS f.a
    (a.extractLsb' 0 6 ≠ 0 → exec (.walk f) s = .next (s.trapped 0x08 a)) ∧
    (a.extractLsb' 0 6 = 0 → s.me.inStep = false → (∀ body, s.checkBlock a [0, 1, 2, 3, 4] [] body = body pas) →
      let bs := pas.flatMap fun pa => s.seen pa 64
      let o := opBlock bs s.me.space s.me.lid a
      ((o.fieldsOk bs && o.coresOk (grottoOf s.curCore)) = false → s.releasePass = true → exec (.walk f) s = .next (s.trapped 0x0D a)) ∧
      (o.fieldsOk bs = true → o.coresOk (grottoOf s.curCore) = true → s.myGrotto.blocks.length < 8 → s.releasePass = true →
        ∃ t, exec (.walk f) s = .next t ∧
          t.myGrotto.blocks = s.myGrotto.blocks ++ [{ id := s.myGrotto.nextBlk, op := o, chains := [], finished := 0, copies := 0 }]))) ∧
  ∀ (s : State) (f : RF) (ts us : List (Nat × Attr)), s.goes 0 f.gd [f.a.toNat, f.b.toNat, f.c.toNat] = true →
    let a := s.getS f.a
    let b := s.getS f.b
    let h := s.getS f.c
    let n := 64 * (f.fn.toNat + 1)
    let src := (List.range (n / 64)).map fun i => lineOf (pageWords a n) ts (a.toNat + 64 * i)
    let dst := (List.range (n / 64)).map fun i => lineOf (pageWords b n) us (b.toNat + 64 * i)
    let c' := match targetOf (dst.headD 0) with | .slice c _ => c | _ => 0
    a.extractLsb' 0 6 = 0 → b.extractLsb' 0 6 = 0 → h.extractLsb' 0 3 = 0 → s.me.inStep = false → eaPlain a = true → eaPlain b = true →
    s.lookAll s.curCore s.curCtx (pageWords a n) = .ok ts → s.lookAll s.curCore s.curCtx (pageWords b n) = .ok us →
    (s.core c').retired = false →
    (src.all fun p => s.ownSlice s.curCore p && !s.markedByte p && !s.poisoned p && !s.retiredByte p) = true → (ts.all (·.2.r)) = true →
    (dst.all fun p => s.ownSlice c' p && !s.markedByte p && !s.retiredByte p) = true → (us.all (·.2.w)) = true →
    ((ts.any (·.2.a)) = false ∨ (us.all (·.2.a)) = true) → s.releasePass = true →
    s.myCore.rangeHold (src.map fun p => ⟨false, sliceOff p, sliceOff p + 63, false⟩) = false →
    (s.core c').rangeHold (dst.map fun p => ⟨false, sliceOff p, sliceOff p + 63, true⟩) = false → (s.core c').handlers.length < 8 →
    ∃ t, exec (.sendh f) s = .next t ∧
      (t.core c').handlers = (s.core c').handlers ++
        [{ code := h, dst := b, len := n, sender := s.curCore, space := s.me.space, lid := s.me.lid }] ∧
      (∀ i p q : Nat, src[i]? = some p → dst[i]? = some q → (∀ e r : Nat, i < e → dst[e]? = some r → r + 64 ≤ q ∨ q + 64 ≤ r) →
        ∀ j, j < 64 → t.byte (q + j) = s.byte (p + j)) ∧
      (∀ x, (∀ p ∈ dst, x < p ∨ p + 64 ≤ x) → t.byte x = s.byte x) ∧ ∀ m, t.me.rd m = s.me.rd m

/-- How tasks come to run (R123, R157, R159, R213-R217, R220-R223): a started task has its code address, frame and arguments, every other
register zero, task level and reset views; a pop takes the record chosen, a steal takes a spare one from the first grotto in surplus, a
handler start takes the oldest, a spill frees the context, a finished wait pushes its record, a step starts with its indices and no join
counter of its own, a finished
walk leaves the walker and takes its JOINA down by one.
Concludes that exec answers a next state for: grottoPop, steal, handlerStart, spill, waitResume, stepTake, walkComplete. -/
def Obligations.Scheduling : Prop :=
  (∀ (s : State) (c k count : Nat) (t : Task) (regs : List (Nat × Word)), (t.r.ok = true ∨ t.step.isSome = true ∨ t.handler = true) →
    (regs.all fun p => p.1 < 61) = true → let x := (s.startTask c k count t regs none).ctx c k
    x.pc = t.r.code ∧ x.level = 0 ∧ x.rd 61 = t.r.frame ∧ x.rd 62 = t.r.frame ∧ x.task = some t ∧ x.run = .ready ∧ x.viewV = viewVReset ∧
    x.viewT = viewTReset ∧ x.grant = BitVec.ofNat 64 (count * 2 ^ 32 + 256 * k) ∧
    (∀ n, n ≠ 61 → n ≠ 62 → (∀ p ∈ regs, p.1 ≠ n) → x.rd n = 0) ∧ (∀ n, n ≠ 0 → x.rdP n = 0) ∧ ∀ l, (x.loop l).act = false) ∧
  (∀ (s : State) (g c k l i : Nat) (n : Tab Nat) (r : Rec), s.popFor g = some (c, k, l, n, i) → ((s.grotto g).queue l)[i]? = some r →
    (r.resume && r.tid.isSome && s.spillTransit r) = false → ∃ u : State, exec (.grottoPop g) s = .next (u.startRec c k r) ∧ (u.grotto g).queue l = ((s.grotto g).queue l).eraseIdx i ∧
      (u.grotto g).served = c % 32) ∧
  (∀ (s : State) (g c k v l i : Nat) (r : Rec), 0 < (s.grotto g).want → (s.grotto g).started = true → s.idleCore g = some (c, k) →
    ((List.range 7).map fun i => g / 8 * 8 + (g + 1 + i) % 8).find? (fun v => (s.grotto v).surplus) = some v → v ≠ g →
    (s.grotto v).spareLevel = some l → (s.grotto v).spare l = some i → ((s.grotto v).queue l)[i]? = some r →
    ∃ u : State, exec (.steal g) s = .next (u.startRec c k r) ∧ (u.grotto v).queue l = ((s.grotto v).queue l).eraseIdx i ∧
      (u.grotto g).want = (s.grotto g).want - 1) ∧
  (∀ (s : State) (c k : Nat) (ks : List Nat) (h : Handler) (hs : List Handler), (s.core c).freeCtxs = k :: ks → (s.core c).handlers = h :: hs →
    s.handlerFirst c = true → ∃ t, exec (.handlerStart c) s = .next t ∧
      (t.core c).handlers = hs ∧ (t.ctx c k).pc = h.code ∧ (t.ctx c k).rd 1 = h.dst ∧ (t.ctx c k).rd 2 = BitVec.ofNat 64 h.len ∧
      (t.ctx c k).rd 3 = BitVec.ofNat 64 h.sender) ∧
  (∀ (s : State) (c k : Nat) (t : Task) (u : State), s.mayStop c k = true → s.settled c k = true →
    (∀ j, j < 4 → s.mayStop c j = true → (s.ctx c k).since ≤ (s.ctx c j).since) → (s.core c).started = true → (s.core c).freeCtxs = [] →
    s.recordWaits c = true → (s.grotto (grottoOf c)).waits.length < 256 → (s.ctx c k).task = some t → s.spillState c k t = some u →
    ∃ v, exec (.spill c k) s = .next v ∧ (v.ctx c k).task = none ∧ v.mem = u.mem ∧
      (v.grotto (grottoOf c)).waits = (u.grotto (grottoOf c)).waits ++
        [⟨match (s.ctx c k).run with | .waiting w => some w | _ => none, t.r.asResume c t.tid, c⟩]) ∧
  (∀ (s : State) (g i d : Nat) (v : Word) (w : WaitEntry) (t : State), (s.grotto g).waits[i]? = some w →
    (s.waitNow w = .not → exec (.waitResume g i) s = .next s) ∧
    (s.waitNow w = .result d v →
      (s.setGrotto g { s.grotto g with waits := (s.grotto g).waits.eraseIdx i }).pushRec g { w.r with got := some (d, v) } 0 = some t →
      exec (.waitResume g i) s = .next t) ∧
    (s.waitNow w = .result d v →
      (s.setGrotto g { s.grotto g with waits := (s.grotto g).waits.eraseIdx i }).pushRec g { w.r with got := some (d, v) } 0 = none →
      exec (.waitResume g i) s = .next s)) ∧
  (∀ (s : State) (c k g b n l : Nat) (ks : List Nat) (m : Tab Nat) (w : WalkBlk), (s.core c).freeCtxs = k :: ks →
    s.nextSource c = some (l, m, .step g b n) → s.handlerFirst c = false → s.blk g b = some w →
    let idx := (stepIdx w.op.lev n (Tab.get (fun _ => Chain.init) w.chains n).next).1
    ∃ t, exec (.stepTake c) s = .next t ∧ (t.ctx c k).pc = w.op.r.code ∧ (t.ctx c k).inStep = true ∧
      ((t.ctx c k).task.map fun q => q.r.joina) = some 0 ∧
      ∀ j v, idx[j]? = some v → j < 4 → (t.ctx c k).rd (j + 1) = BitVec.ofNat 64 v) ∧
  ∀ (s : State) (g i : Nat) (b : WalkBlk), (s.grotto g).blocks[i]? = some b →
    (b.finished ≠ b.op.steps ∨ b.copies ≠ 0 → exec (.walkComplete g i) s = .next s) ∧
    (b.finished = b.op.steps → b.copies = 0 → let gone := s.setGrotto g { s.grotto g with blocks := (s.grotto g).blocks.eraseIdx i }
      (b.op.r.joina = 0 → exec (.walkComplete g i) s = .next gone) ∧
      ∀ pa at' h u old, b.op.r.joina ≠ 0 → eaPlain b.op.r.joina = true → s.reach b.op.r.space b.op.r.joina.toNat true = .ok pa at' h →
        at'.a = false → at'.r = true → gone.decrement none g b.op.r.space b.op.r.lid pa h = some (u, old) →
        exec (.walkComplete g i) s = .next u)

/-! ## Engine commands and events (spec/14, spec/11 R186, spec/12 R196-R197, spec/09 R161) -/

/-- Copy, gather and collective commands at issue (R186, R227, R228, R231, R237, R239, R244): with legal operands and a free slot the
command enters its queue and returns its handle; without one it is held; an operand's check that fails raises its trap; EV on an
unconfigured term raises 0x14; RENQ puts a legal block's command into the queue of the other core.
Concludes that exec answers a next state for: renqCpy, renqGat, cpy, cpyFill, cpyFrom, cpyTo, gath, gathSum, scad, collBcast, collSum,
collMax, collMin. -/
def Obligations.EngineCommandsIssue : Prop :=
  (∀ (s : State) (f : EF) (n : Nat), ∀ p ∈ moveCommands f, s.goes 0 f.r.gd p.2.2.2 = true →
    let v := s.vals f
    (∀ c w, s.me.cmdBad p.1 v = some (c, w) → exec p.1 s = .next (s.trapped c w)) ∧
    (s.me.cmdBad p.1 v = none → s.me.inStep = false →
      (∀ ok, (cmdLays p.1 v).foldr (fun l go => s.layOk l.1 l.2.1 l.2.2 (v.c.toNat / 768) go) ok = ok) →
      (f.ev = true → (s.myCore.term f.term.toNat).masks = 0 → exec p.1 s = .next (s.trapped 0x14 (f.term.setWidth 64))) ∧
      (f.ev = false → s.me.discard = none → s.myCore.freeSlots p.2.1 = [] → exec p.1 s = .next s.hold) ∧
      (s.slotFree f p.2.1 n = true → exec p.1 s = .next (s.entered f p.2.1 n (s.newCmd p.1 f p.2.2.1 (s.moveParts f p.1)))))) ∧
  (∀ (s : State) (f : EF) (n : Nat), s.goes 0 f.r.gd [f.r.a.toNat, f.r.b.toNat, f.r.c.toNat] = true →
    let a := s.getS f.r.a
    let b := s.getS f.r.b
    let d := s.getS f.r.c
    ∀ p ∈ collCommands f, let ns := Machine.EF.collSrc f p.2
      let nd := Machine.EF.collDst f p.2
      (eaAligned a = false → exec p.1 s = .next (s.trapped 0x08 a)) ∧
      (([a, b, d].all fun w => eaAligned w && eaPlain w) = true → (if p.2 then f.r.ty == 0 && f.r.fn == 0
          else [10, 9].contains (Machine.EF.src f) && [10, 9, 11, 12].contains (Machine.EF.dst f) && Machine.EF.root f == 0) = true →
        1 ≤ Machine.EF.count f → ns % 64 = 0 → nd % 64 = 0 →
        (s.me.inStep = true → exec p.1 s = .next (s.trapped 0x15 0)) ∧
        (s.me.inStep = false → s.slotFree f 2 n = true → exec p.1 s = .next (s.entered f 2 n (s.newCmd p.1 f .coll
          (s.rangeParts s.curCore s.me.space (eaVa a) ns false ++ s.rangeParts s.curCore s.me.space (eaVa d)
            (s.descBytes s.curCore (s.newCmd p.1 f .coll [])) false ++ s.rangeParts s.curCore s.me.space (eaVa b) nd true)))))) ∧
  (∀ (s : State) (f : EF) (e n : Nat) (m : Cmd), let t := s.entered f e n m
    (t.myCore.slot e n).used = true ∧ (t.myCore.slot e n).gen = (s.myCore.slot e n).gen + 1 ∧ (t.myCore.slot e n).status = 0 ∧
    t.myCore.cmds.length = s.myCore.cmds.length + 1 ∧ t.myCore.nextCmd = s.myCore.nextCmd + 1 ∧ (∀ b, t.byte b = s.byte b) ∧
    ∀ r, t.me.rd r = if r = 0 then 0 else if r = f.r.d.toNat then
      BitVec.ofNat 64 (s.curCore * 2 ^ 34 + e * 2 ^ 32 + ((s.myCore.slot e n).gen + 1).toNat * 64 + n) else s.me.rd r) ∧
  ∀ (s : State) (f : RF) (pa : Nat) (at' : Attr) (j : Instr) (g : EF), s.goes 0 f.gd [f.a.toNat, f.b.toNat] = true →
    let a := s.getS f.a
    let c := (s.getS f.b).toNat
    let w := fun n => s.seenWord (pa + 8 * n)
    ∀ p ∈ [(Instr.renqCpy f, false, 0), (.renqGat f, true, 1)],
      (a.extractLsb' 0 6 ≠ 0 → exec p.1 s = .next (s.trapped 0x08 a)) ∧
      (a.extractLsb' 0 6 = 0 → s.me.inStep = true → exec p.1 s = .next (s.trapped 0x15 0)) ∧
      (a.extractLsb' 0 6 = 0 → s.me.inStep = false → s.accessPass .peek a 64 3 true pa at' = true →
        modOf pa = s.koyth.modId → (∃ k o, targetOf pa = .slice k o) → renqIns p.2.1 (w 0) (w 1) = some (j, g) → g.r.gd = .always →
        w 6 = 0 → w 7 = 0 → c < 2048 → (w 2).extractLsb' 0 3 = 0 → (s.core c).retired = false →
        (let x := standIn (s.ctx c 0) g (w 2) (w 3) (w 4) (w 5)
         let u := { s.setCtx c 0 { x with task := if x.task.isSome then x.task else s.me.task } with curCore := c, curCtx := 0 }
         u.renqBad c j g ⟨w 3, w 4, w 5, u.getS (Machine.EF.lsrc g), u.getS (Machine.EF.ldst g)⟩ = false) →
        s.releasePass = true → ∀ n ns, (s.core c).freeSlots p.2.2 = n :: ns → ∃ t m, exec p.1 s = .next t ∧
          (t.core c).cmds = (s.core c).cmds ++ [m] ∧ m.ins = j ∧ m.va = w 3 ∧ m.vb = w 4 ∧ m.vc = w 5 ∧ m.crec = w 2 ∧ m.slot = some n ∧
          ((t.core c).slot p.2.2 n).used = true)

/-- Engine commands as they start, run and end (R146, R147, R185, R186, R197, R228, R230-R233, R237-R240, R269): an eligible command starts,
judged by its footprint as its pages translate by then, and of a running MLDW the bytes of its next group arrive; a running copy or gather
that no other miss and no earlier request holds does its work and ends with its status in its slot, which is free again, and in its
record; what CPY in each form, GATH and SCAD leave in memory, in accumulator rows and in COUNT; matched collectives end together, each
member holding the result. The model's choices: a command does all its work in the step in which it completes (log 18); a held engine
completes nothing (log 69); what members in other modules do (log 70).
Concludes that exec answers a next state for: collMatch, engineCommandStart, engineCommandComplete. -/
def Obligations.EngineCommandsRun : Prop :=
  (∀ (s : State) (c q : Nat) (m : Cmd) (f : EF), (s.core c).findCmd q = some m → Instr.ef m.ins = some f →
    (isMldw m.ins = true → m.st.running? = true → exec (.engineCommandStart c q) s = .next (s.arriveGroup c m f)) ∧
    ((isMldw m.ins && m.st.running?) = false → let t := if m.fail.isSome || m.cancel then s else s.refoot c m f
      ∀ m', (t.core c).findCmd q = some m' →
      (t.mayStart c m' = false → exec (.engineCommandStart c q) s = .next s) ∧
      (t.mayStart c m' = true → t.saving c m' = false → m'.fail = none →
        (m'.engine = .copy ∨ m'.engine = .gather ∨ m'.engine = .unit ∧ t.unitRoom m' = true) →
        isMms m.ins = false → isMldw m.ins = false → isProduct m.ins = false →
        ∃ u, exec (.engineCommandStart c q) s = .next u ∧ ∃ m2, (u.core c).findCmd q = some m2 ∧ m2.st = .running (s.core c).clock))) ∧
  (∀ (s : State) (c q : Nat) (m : Cmd) (f : EF), (s.core c).findCmd q = some m → Instr.ef m.ins = some f →
    m.st.running? = true → s.rlDone c m = true → s.partsClear c m = true → m.fail = none → (m.engine = .copy ∨ m.engine = .gather) →
    ((s.core c).held m = true → exec (.engineCommandComplete c q) s = .next s) ∧
    ((s.core c).held m = false → s.behind c m f = true → exec (.engineCommandComplete c q) s = .next s) ∧
    ((s.core c).held m = false → s.behind c m f = false → let r := s.runMove c m f
      let u := r.s.endCmd c m r.st r.cnt r.poison
      (∀ va w, r.miss = .at va w → exec (.engineCommandComplete c q) s = .next (s.missCmd c m va w)) ∧
      (r.miss = .transit → exec (.engineCommandComplete c q) s = .next s) ∧
      (r.miss.clear = true → (s.firstMiss m.space (recTouch m)).clear = true → ∃ l, exec (.engineCommandComplete c q) s =
        .next ((u.learnAll m.space r.asked (s.moveTouch c m f)).learnAll m.space l (recTouch m))))) ∧
  (∀ (s : State) (space : Nat) (l : List Nat) (rs : List (Nat × Nat × Bool)), let t := s.learnAll space l rs
    t.mem = s.mem ∧ ∀ c, { t.core c with l2tlb := (s.core c).l2tlb, ptrs := (s.core c).ptrs } = s.core c) ∧
  (∀ (s : State) (c e n st cnt : Nat) (m : Cmd) (po : Bool), m.engine.num = some e → m.slot = some n → let t := s.endCmd c m st cnt po
    ((t.core c).slot e n).status = BitVec.ofNat 64 (2 ^ 63 + st * 2 ^ 48 + cnt % 2 ^ 40) ∧ ((t.core c).slot e n).used = false ∧
    ((t.core c).cmds.all fun k => k.id != m.id) = true ∧
    (m.crec = 0 → ∀ b, t.byte b = s.byte b) ∧
    ∀ d, m.crec ≠ 0 → s.placesAt none m.space m.crec.toNat 8 1 false d →
      s.piecesIn t 1 d fun _ => leBytes 8 (BitVec.ofNat 64 (2 ^ 63 + st * 2 ^ 48 + cnt % 2 ^ 40) : Word).toNat) ∧
  (∀ (s : State) (c space va k : Nat) (p : Nat → Nat), (∀ j, j < k → ∃ a, s.reach space (va + 32 * j) false = .ok (p j) a 0) →
    (s.engReads c space va k).bytes = (List.range k).flatMap fun j => s.seen (p j) 32) ∧
  (∀ (s : State) (c : Nat) (m : Cmd) (f : EF) (d : Nat → Nat), let va := m.va.toNat
    let vb := m.vb.toNat
    let vc := m.vc.toNat
    let rows := vc / 768
    let sp := srcStride (Machine.EF.src f) (Machine.EF.dst f)
    let own := m.bound c
    let ls := Machine.EF.lsrc f != 0
    let ld := Machine.EF.ldst f != 0
    (m.ins = .cpyFill f → s.placesAt own m.space vb 64 (vc / 64) false d → let r := s.runMove c m f
      r.st = 0 ∧ r.cnt = 64 * (vc / 64) ∧ s.piecesIn r.s (vc / 64) d fun _ => (List.range 8).flatMap fun _ => leBytes 8 va) ∧
    (m.ins = .cpyFrom f → s.placesAt own m.space vb 64 (12 * rows) false d →
      (∀ i, i < rows → sidePoison ((s.core c).side (m.gbase + va + i)) = false ∧ (sideTag ((s.core c).side (m.gbase + va + i))).b = false) →
      let r := s.runMove c m f
      r.st = 0 ∧ r.cnt = 768 * rows ∧ s.piecesIn r.s (12 * rows) d fun j =>
        piece64 (rowBytes ((s.core c).row (accGran (m.gbase + va + j / 12)))) (j % 12)) ∧
    (m.ins = .cpyTo f → let got := fun i => s.engReads c m.space (va + 768 * i) 24
      let r := s.runMove c m f
      (∀ b, r.s.byte b = s.byte b) ∧
      ((∀ i, i < rows → (got i).clean = true) → r.st = 0 ∧ r.cnt = 768 * rows ∧ ∀ i, i < rows →
        (r.s.core c).row (accGran (m.gbase + vb + i)) = bytesRow (got i).bytes ∧ (r.s.core c).side (m.gbase + vb + i) = 0) ∧
      (0 < rows → (got 0).bad = 3 → r.st = 3 ∧ r.cnt = 0 ∧ sidePoison ((r.s.core c).side (m.gbase + vb)) = true)) ∧
    (m.ins = .cpy f → ls = false → ld = false → (Machine.EF.src f = 0 ∧ Machine.EF.dst f = 0) ∨ cpyTypes (Machine.EF.src f) (Machine.EF.dst f) = true →
      let n := vc / sp
      let got := fun i => s.cpySource c m (i * sp) (sp / 32)
      s.placesAt own m.space vb 64 n false d → (∀ i, i < n → (got i).clean = true) →
      (∀ i, i < n → ∀ j, j < vc / 64 → s.cpyLine c m (64 * j) ≠ some (d i / 64)) →
      let put := fun i => convBytes (Machine.EF.src f) (Machine.EF.dst f) f.r.rm.toNat (got i).bytes
      let r := s.runMove c m f
      r.st = 0 ∧ r.cnt = 64 * n ∧ r.poison = ((List.range n).any fun i => (put i).2) ∧ s.piecesIn r.s n d fun i => (put i).1) ∧
    (m.ins = .cpy f → (ls || ld) = true → (m.dbg && ls && s.layMismatch m.space va (layOf m.lsrc) rows 6144) = false →
      let src := fun i => if ls then s.layRow c m.space va (layOf m.lsrc) i
        else let g := s.engReads c m.space (va + 768 * i) 24; (bytesRow g.bytes, g)
      let ovl := s.laySource m f rows
      (∀ i, i < rows → (src i).2.clean = true) → let r := s.runMove c m f
      (ld = false → s.placesAt own m.space vb 64 (12 * rows) false d → (∀ i, i < 12 * rows → ∀ x, x < 64 → ovl.has (d i + x) = false) →
        r.st = 0 ∧ r.cnt = 768 * rows ∧ s.piecesIn r.s (12 * rows) d fun j =>
          piece64 (rowBytes (src (j / 12)).1) (j % 12)) ∧
      ∀ p : Nat → Nat → Nat, ld = true → let l := layOf m.ldst
        let bit := fun i k => 8 * vb + l.at i k
        let q := fun i k => 8 * p i k + bit i k % 8
        s.inSlice m.space vb = true →
        (∀ i k, i < rows → k < l.n → s.placesAt own m.space (bit i k / 8) 1 1 false (fun _ => p i k) ∧
          s.layReach m.space (s.baseSlice m.space vb) (bit i k / 8) true ≠ .refused ∧ q i k % l.e = 0 ∧
          (∀ x, x < max 1 (l.e / 8) → ovl.has (p i k + x) = false ∧ s.roByte (p i k + x) = 0 ∧ s.blurred (p i k + x) = false) ∧
          ∀ i' k', i' < rows → k' < l.n → (i, k) ≠ (i', k') → q i k + l.e ≤ q i' k' ∨ q i' k' + l.e ≤ q i k) →
        r.st = 0 ∧ r.cnt = 768 * rows ∧ ∀ i k, i < rows → k < l.n → r.s.readBits (q i k) l.e = elem l.e (src i).1 k)) ∧
  (∀ (s : State) (c : Nat) (m : Cmd) (f : EF) (d : Nat → Nat), gathTypes m.ins f = true → let va := m.va.toNat
    let vc := m.vc.toNat
    let n := Machine.EF.nidx f
    let idx := fun p => (s.index c m f p).1
    let dl := Machine.EF.gathRow f
    let ty := Machine.EF.dst f
    let sp := srcStride (Machine.EF.src f) ty
    (∀ p, p < n → (s.index c m f p).2.clean = true) → let r := s.runMove c m f
    (m.ins = .gath f → let q := dl / 64
      let got := fun i k => s.engReads c m.space (va + i * Machine.EF.rowu f + k * sp) (sp / 32)
      (∀ p i k, p < n → idx p = some i → k < q → (got i k).clean = true) → s.placesAt (m.bound c) m.space vc 64 (n * q) false d →
      r.st = 0 ∧ r.cnt = 64 * (n * q) ∧ s.piecesIn r.s (n * q) d fun j =>
        match idx (j / q) with
        | none => List.replicate 64 0
        | some i => (convBytes (Machine.EF.src f) ty f.r.rm.toNat (got i (j % q)).bytes).1) ∧
    (m.ins = .gathSum f → let w := Machine.EF.piece f
      let q := dl / w
      let bag := Machine.EF.bag f
      let got := fun i k => s.engReads c m.space (va + i * Machine.EF.rowu f + k * (sp * w / 64)) (sp * w / 64 / 32)
      (∀ p i k, p < n → idx p = some i → k < q → (got i k).clean = true) → s.placesAt (m.bound c) m.space vc w (n / bag * q) false d →
      r.st = 0 ∧ r.cnt = w * (n / bag * q) ∧ s.piecesIn r.s (n / bag * q) d fun j => (List.range (8 * w / tyWidth ty)).flatMap fun e =>
        leBytes (tyWidth ty / 8) (((List.range bag).filterMap fun b => idx (j / q * bag + b)).foldl (fun v i =>
          addRound ty (Machine.EF.src f) v ((elemsOf (tyWidth (Machine.EF.src f)) (got i (j % q)).bytes).getD e 0)) 0)) ∧
    ∀ t : Nat → Nat → Nat, m.ins = .scad f → let q := Machine.EF.rowu f / 64
      let got := fun p k => s.engReads c m.space (vc + p * Machine.EF.rowu f + 64 * k) 2
      let used := fun i => ∃ p, p < n ∧ idx p = some i
      (∀ p k, p < n → k < q → (got p k).clean = true) →
      (∀ i k, used i → k < q → let a := va + i * Machine.EF.rowu f + 64 * k
        s.placesAt (m.bound c) m.space a 64 1 false (fun _ => t i k) ∧ s.inSlice m.space (a + 32) = true ∧
        (s.engReads c m.space a 2).bad = 0 ∧ (∃ b, s.reach m.space a false = .ok (t i k) b 0) ∧
        (∃ b, s.reach m.space (a + 32) false = .ok (t i k + 32) b 0) ∧
        (∀ x, x < 64 → s.roByte (t i k + x) = 0 ∧ s.blurred (t i k + x) = false) ∧
        ∀ j l, used j → l < q → (i, k) ≠ (j, l) → t i k + 64 ≤ t j l ∨ t j l + 64 ≤ t i k) →
      r.st = 0 ∧ r.cnt = 64 * q * ((List.range n).filter fun p => (idx p).isSome).length ∧
      (∀ b, (∀ i k, used i → k < q → b < t i k ∨ t i k + 64 ≤ b) → r.s.byte b = s.byte b) ∧
      ∀ i k, used i → k < q → r.s.seen (t i k) 64 =
        (List.range n).foldl (fun v p => if idx p = some i then addBytes ty v (got p k).bytes else v) (s.seen (t i k) 64)) ∧
  ∀ (s : State) (c q : Nat) (m : Cmd) (f : EF), (s.core c).findCmd q = some m → Instr.ef m.ins = some f → m.engine = .coll →
    m.st.running? = true → m.fail = none → (s.core c).held m = false → let me := s.koyth.modId * 2 ^ 11 + c
    let g := s.group c m
    let bcast := collBcast? m
    (m.cancel = true → exec (.collMatch c q) s = .next ((s.collKill m.seq g.members 7).modCore c fun x => x.dropCmd q)) ∧
    (∀ st, m.cancel = false → s.deadStatus me m.seq = some st → exec (.collMatch c q) s = .next (s.collEnd c q st 0 false)) ∧
    (m.cancel = false → s.deadStatus me m.seq = none → g.bad = 0 →
      (g.ok = false ∨ g.members.contains me = false ∨ (bcast && decide (g.nmem ≤ Machine.EF.root f)) = true ∨ (f.sc.toNat < 4 ∧ s.spans g = true) →
        exec (.collMatch c q) s = .next ((s.collEnd c q 6 0 false).collKill m.seq g.members 6)) ∧
      (g.ok = true → g.members.contains me = true → (bcast && decide (g.nmem ≤ Machine.EF.root f)) = false →
        (4 ≤ f.sc.toNat ∨ s.spans g = false) →
        ((g.members.any fun w => s.koyth.unreachable.contains (w / 2 ^ 11)) = true →
          exec (.collMatch c q) s = .next ((s.collEnd c q 9 0 false).collKill m.seq g.members 9)) ∧
        ((g.members.any fun w => s.koyth.unreachable.contains (w / 2 ^ 11)) = false →
          (s.spans g = true → s.collFar.contains m.seq = false → let u : State := { s with tick := s.tick + 1 }
            ∃ t, exec (.collMatch c q) s = .next t ∧ t ∈ [u, { u with collFar := m.seq :: u.collFar },
              (u.collEnd c q 6 0 false).collKill m.seq g.members 6, (u.collEnd c q 7 0 false).collKill m.seq g.members 7]) ∧
          (s.spans g = false → let found := s.collFound m g
            let n := Machine.EF.collDst f bcast
            let got := fun p : Nat × Cmd => s.engReads p.1 p.2.space p.2.va.toNat (Machine.EF.collSrc f bcast / 32)
            (s.collFull c m = false → exec (.collMatch c q) s = .next s) ∧
            (s.collFull c m = true → (found.all fun p => collKey p.2 (s.group p.1 p.2) == collKey m g) = true →
              (found.all fun p => (s.firstMiss p.2.space (s.collTouch p.1 p.2 f n)).clear) = true →
              (∃ t, exec (.collMatch c q) s = .next t ∧ ∀ p ∈ found, (((t.core p.1).findCmd p.2.id).any fun k => k.fail.isSome) = true) ∧
              ∀ d : Nat → Nat → Nat, (if bcast then (((found[Machine.EF.root f]?).map fun p => (got p).clean) = some true)
                  else (found.all fun p => (got p).clean) = true) →
                (∀ p ∈ found, s.placesAt none p.2.space p.2.vb.toNat 64 (n / 64) false (d p.1)) →
                (∀ p ∈ found, ∀ o ∈ found, ∀ i j, i < n / 64 → j < n / 64 → (p.1, i) ≠ (o.1, j) → d p.1 i + 64 ≤ d o.1 j ∨ d o.1 j + 64 ≤ d p.1 i) →
                let bs := if bcast then ((found[Machine.EF.root f]?).map fun p => (got p).bytes).getD []
                  else (collCombine m f (found.map fun p => (got p).bytes)).1
                n % 64 = 0 → bs.length = n → ∃ t, exec (.collMatch c q) s = .next t ∧
                  (∀ p ∈ found, ((t.core p.1).findCmd p.2.id).map (fun k => (k.fail, k.prog)) = some (some 0, n)) ∧
                  ∀ p ∈ found, ∀ i x, i < n / 64 → x < 64 →
                    t.byte (d p.1 i + x) = s.wrote (d p.1 i + x) (bs.getD (64 * i + x) 0))))))

/-- Handles (R234, R235, R265): CPYW returns the word of a command that has completed and waits for one that has not, CPOLL returns it
as it stands, CPYW.all the count of the context's failed commands, CCAN ends an unstarted copy, and a collective that not every member has
issued, with status 1; a handle recorded by a save answers at once, one that names no slot raises 0x0D. The model's choices: ENG other than
zero raises 0x0D (log 5); what CPYW.all counts (log 79).
Concludes that exec answers a next state for: cpyw, cpywAll, ccan, cpoll. -/
def Obligations.Handles : Prop :=
  ∀ (s : State) (f : EF), let h := s.getS f.r.a
    (s.goes 0 f.r.gd [f.r.a.toNat] = true →
      (f.eng ≠ 0 → ∀ i ∈ [Instr.cpyw f, .cpoll f, .ccan f], exec i s = .next (s.trapped 0x0D (EF.word i))) ∧
      (∀ w, f.eng = 0 → s.me.recorded.find? (fun p => p.1 == h) = some w → ∀ i ∈ [Instr.cpyw f, .cpoll f, .ccan f],
        exec i s = .next ((s.putS f.r.d.toNat w.2 1).noteStore.stepped 2)) ∧
      (f.eng = 0 → s.me.recorded.find? (fun p => p.1 == h) = none →
        (s.badHandle h = true → ∀ i ∈ [Instr.cpyw f, .cpoll f, .ccan f], exec i s = .next (s.trapped 0x0D (EF.word i))) ∧
        (s.badHandle h = false → let w := s.myCore.handleStatus h
          exec (.cpoll f) s = .next ((s.putS f.r.d.toNat w 1).noteStore.stepped 2) ∧
          (w.getLsbD 63 = true → exec (.cpyw f) s = .next ((s.putS f.r.d.toNat w 1).noteStore.stepped 2) ∧
            exec (.ccan f) s = .next ((s.putS f.r.d.toNat w 1).noteStore.stepped 2)) ∧
          (w.getLsbD 63 = false → exec (.cpyw f) s = .next s.hold) ∧
          (∀ m, w.getLsbD 63 = false → s.myCore.handleCmd h = some m → m.st.started = false →
            (∃ g, m.ins = .cpy g ∨ m.ins = .cpyFill g ∨ m.ins = .cpyFrom g ∨ m.ins = .cpyTo g) → ∃ t, exec (.ccan f) s = .next t ∧
              (∀ r, t.me.rd r = if r = 0 then 0 else if r = f.r.d.toNat then BitVec.ofNat 64 (2 ^ 63 + 2 ^ 48) else s.me.rd r) ∧
              (t.myCore.cmds.all fun k => k.id != m.id) = true ∧ ∀ b, t.byte b = s.byte b) ∧
        (∀ m, w.getLsbD 63 = false → s.myCore.handleCmd h = some m → m.fail = none → (∃ g, m.ins = .collBcast g ∨ m.ins = .collSum g ∨
            m.ins = .collMax g ∨ m.ins = .collMin g) → s.spans (s.group s.curCore m) = false →
          ((s.collIssued s.curCore m || s.collUnknown s.curCore m) = true → exec (.ccan f) s = .next s.hold) ∧
          ((s.collIssued s.curCore m || s.collUnknown s.curCore m) = false → ∃ t, exec (.ccan f) s = .next t ∧
            ∀ r, t.me.rd r = if r = 0 then 0 else if r = f.r.d.toNat then BitVec.ofNat 64 (2 ^ 63 + 2 ^ 48) else s.me.rd r))))) ∧
    (s.goes 0 f.r.gd [] = true → f.eng = 0 →
      (s.myCore.cmds.any s.countsHere = true → exec (.cpywAll f) s = .next s.hold) ∧
      (s.myCore.cmds.any s.countsHere = false →
        exec (.cpywAll f) s = .next ((s.putS f.r.d.toNat (BitVec.ofNat 64 s.me.engFail) 1).noteStore.stepped 2)))

/-- The event crossbar (R242-R244): EVCFG sets a counter or a term's masks, EVARM arms a configured term, clears its counters or reads the
status, before the pulses of its cycle; trap 0x14 names an unconfigured term, a term on which an armed command waits, or a counter in such a term's masks; an armed term
whose product holds fires, though its other one faults (the model's choice, log 87): its counters fall by their thresholds and its armed
commands queue.
Concludes that exec answers a next state for: evcfgCnt, evcfgTerm, evarm, evarmClr, evarmStat, eventTermFiring. -/
def Obligations.Events : Prop :=
  (∀ (s : State) (f : EF), s.goes 0 f.r.gd [f.r.a.toNat] = true → let v := s.getS f.r.a
    let n := (f.eng.extractLsb' 0 4).toNat
    let t := (f.eng.extractLsb' 0 3).toNat
    let th := (v.extractLsb' 8 8).toNat
    (f.eng.extractLsb' 4 36 = 0 → v.extractLsb' 16 48 = 0 → v.extractLsb' 4 4 = 0 → th ≠ 0 → (v.extractLsb' 0 4).toNat ≤ 8 →
      ((∃ k, k < 8 ∧ s.myCore.termWaits k = true ∧ (s.myCore.term k).names n = true) →
        exec (.evcfgCnt f) s = .next (s.trapped 0x14 (BitVec.ofNat 64 n))) ∧
      ((∀ k, k < 8 → s.myCore.termWaits k = true → (s.myCore.term k).names n = false) → exec (.evcfgCnt f) s =
        .next ((s.modMy fun x => (x.setCnt n { thresh := th, src := (v.extractLsb' 0 4).toNat, value := 0, fault := false }).repulse n).noteStore.stepped 2))) ∧
    (f.eng.extractLsb' 3 37 = 0 → v.extractLsb' 32 32 = 0 →
      (s.myCore.termWaits t = true → exec (.evcfgTerm f) s = .next (s.trapped 0x14 (BitVec.ofNat 64 t))) ∧
      (s.myCore.termWaits t = false → exec (.evcfgTerm f) s =
        .next ((s.modMy fun x => x.setTerm t { x.term t with masks := v.extractLsb' 0 32 }).noteStore.stepped 2)))) ∧
  (∀ (s : State) (f : EF), s.goes 0 f.r.gd [] = true → f.eng.extractLsb' 3 37 = 0 → let t := (f.eng.extractLsb' 0 3).toNat
    ((s.myCore.term t).masks = 0 → ∀ i ∈ [Instr.evarm f, .evarmClr f], exec i s = .next (s.trapped 0x14 (BitVec.ofNat 64 t))) ∧
    ((s.myCore.term t).masks ≠ 0 → ∀ p ∈ [(Instr.evarm f, false), (.evarmClr f, true)], ∃ u, exec p.1 s = .next u ∧
      u.myCore.term t = { s.myCore.term t with armed := true } ∧ (∀ k, k ≠ t → u.myCore.term k = s.myCore.term k) ∧
      ∀ n, n < 16 → u.myCore.cnt n = if p.2 = true ∧ (s.myCore.term t).names n = true then
        s.myCore.pulses.foldl EvCnt.take { s.myCore.cnt n with value := 0, fault := false } else s.myCore.cnt n)) ∧
  (∀ (s : State) (f : EF), s.goes 0 f.r.gd [] = true → f.eng = 0 →
    exec (.evarmStat f) s = .next ((s.putS f.r.d.toNat s.myCore.evStat 1).noteStore.stepped 2)) ∧
  (∀ (x : Core) (n : Nat), (x.repulse n).cnt n = x.pulses.foldl EvCnt.take (x.cnt n)) ∧
  ∀ (s : State) (c t : Nat), let x := s.core c
    (x.termDue t = false → exec (.eventTermFiring c t) s = .next s) ∧
    ((x.term t).armed = true → x.productHolds ((x.term t).product 0) = true → ∃ u, exec (.eventTermFiring c t) s = .next u ∧
      ((u.core c).term t).armed = false ∧
      (∀ n, (u.core c).cnt n = if n ∈ (x.term t).product 0 then { x.cnt n with value := (x.cnt n).value - (x.cnt n).thresh } else x.cnt n) ∧
      (u.core c).cmds = x.cmds.map fun m => if m.st = .armed t then { m with st := .queued } else m)

/-! ## Matrix and crossbar commands (spec/15, spec/17, spec/20) -/

/-- Matrix commands (R247-R251, R254): with legal fields and operands each enters the queue, MSTN with its region and MRLS with its region
gone at once; MSTN, MLDW and MHINT outside their limits, MRLS of no region and SCACC of overlapping rows raise 0x0D, MSTN inside a tile step
raises 0x15; MHINT adds its burst to the hints; a group load stores its multipliers, a pair's sum is
added into its row.
Concludes that exec answers a next state for: mstn, mldw, weightGroupLoadComplete, mms, mmsPairComplete, scacc, mrls, mhintMms, mhintXmv. -/
def Obligations.Matrix : Prop :=
  (∀ (s : State) (f : EF), s.goes 0 f.r.gd [] = true → let id := s.myCore.nextCmd
    let nm := (f.eng.extractLsb' 28 6).toNat
    let r : Region := { id := id, gone := false, owner := s.me.tid, m0 := Machine.EF.m0 f, nm := nm, lsg := (f.eng.extractLsb' 15 3).toNat,
                        ng := (f.eng.extractLsb' 18 10).toNat, ty := f.r.ty.toNat, bad := [] }
    (s.stationLegal f = false → exec (.mstn f) s = .next (s.trapped 0x0D (EF.word (.mstn f)))) ∧
    (s.stationLegal f = true → s.me.inStep = true → exec (.mstn f) s = .next (s.trapped 0x15 0)) ∧
    (s.stationLegal f = true → s.me.inStep = false → s.matrixFree f = true → exec (.mstn f) s = .next
      (s.enteredMatrix { s.newCmd (.mstn f) f .matrix (macroParts (Machine.EF.m0 f) nm true) with reg := id } fun x =>
        { x with regions := x.regions ++ [r] })) ∧
    (f.eng.extractLsb' 0 34 = 0 → s.myCore.region (Machine.EF.m0 f) = none →
      exec (.mrls f) s = .next (s.trapped 0x0D (EF.word (.mrls f)))) ∧
    (∀ r, f.eng.extractLsb' 0 34 = 0 → s.myCore.region (Machine.EF.m0 f) = some r → s.me.inStep = false → s.matrixFree f = true →
      exec (.mrls f) s = .next (s.enteredMatrix { s.newCmd (.mrls f) f .matrix (macroParts r.m0 r.nm true) with reg := r.id } fun x =>
        { x with regions := x.regions.map fun q => if q.id == r.id then { q with gone := true } else q }))) ∧
  (∀ (s : State) (f : EF) (r : Region), s.goes 0 f.r.gd [f.r.a.toNat] = true → let a := s.getS f.r.a
    let ng := (f.eng.extractLsb' 14 10).toNat
    (eaAligned a = false → exec (.mldw f) s = .next (s.trapped 0x08 a)) ∧
    (eaAligned a = true → f.eng.extractLsb' 0 14 = 0 → s.myCore.region (Machine.EF.m0 f) = some r →
      (ng = 0 ∨ r.ng < Machine.EF.g0 f + ng ∨ f.r.ty.toNat ≠ r.ty → exec (.mldw f) s = .next (s.trapped 0x0D (EF.word (.mldw f)))) ∧
      (1 ≤ ng → Machine.EF.g0 f + ng ≤ r.ng → f.r.ty.toNat = r.ty → s.me.inStep = false → eaPlain a = true →
        (∀ v ∈ pagesIn a.toNat (3072 * ng), ∀ e, s.homeAnswer s.me.space v = .hit e → s.markedByte (e.pa v) = false) →
        (s.matrixFree f = true → exec (.mldw f) s = .next (s.enteredMatrix { s.newCmd (.mldw f) f .matrix
          (s.rangeParts s.curCore s.me.space (eaVa a) (3072 * ng) false ++ macroParts r.m0 r.nm true) with reg := r.id } id))))) ∧
  (∀ (s : State) (f : EF) (r : Region), s.goes 0 f.r.gd [f.r.d.toNat, f.r.a.toNat, f.r.b.toNat] = true →
    let a := s.getS f.r.a
    let d := (s.getS f.r.d).toNat
    let w := s.getS f.r.b
    let nv := Machine.EF.mmsNv f
    let lay := f.r.b != 0
    s.myCore.region (Machine.EF.m0 f) = some r → passLegal f r = true → let rows := nv * (Machine.EF.mmsNg f / 2 ^ r.lsg)
    (∀ k i, s.me.rowsBad d rows = some (k, i) → exec (.mms f) s = .next (s.trapped k i)) ∧
    (s.me.rowsBad d rows = none → eaAligned a = true → (lay = true → layoutOk w = true) →
      (∀ ok, s.ownOperand a (some (EF.word (.mms f))) (if lay then rowBitsLay a (layOf w) 0 nv else lineBits a (768 * nv)) ok = ok) →
      (s.matrixFree f = true → exec (.mms f) s = .next (s.enteredMatrix { s.newCmd (.mms f) f .matrix
        ((if lay then s.layParts s.curCore s.me.space a.toNat (layOf w) nv false
          else s.rangeParts s.curCore s.me.space a.toNat (768 * nv) false) ++ macroParts r.m0 r.nm false ++
          [rowPart (grantBase s.me.grant + d) rows true]) with reg := r.id, lsrc := w } id)))) ∧
  (∀ (s : State) (f : EF), s.goes 0 f.r.gd [f.r.d.toNat, f.r.a.toNat, f.r.b.toNat] = true →
    let d := (s.getS f.r.d).toNat
    let p := (s.getS f.r.a).toNat
    let b := s.getS f.r.b
    let nv := Machine.EF.scNv f
    let n := nv * Machine.EF.scNb f
    s.me.rowsBad d nv = none → s.me.rowsBad p n = none → eaAligned b = true →
    ((d < p + n ∧ p < d + nv) → exec (.scacc f) s = .next (s.trapped 0x0D (EF.word (.scacc f)))) ∧
    (¬(d < p + n ∧ p < d + nv) → 1 ≤ nv → nv ≤ 1024 → 1 ≤ Machine.EF.scNb f → Machine.EF.scNb f ≤ 24 → f.eng.extractLsb' 0 24 = 0 →
      (∀ ok, s.ownOperand b (some (EF.word (.scacc f))) (lineBits b (384 * Machine.EF.scNb f)) ok = ok) → s.matrixFree f = true →
      exec (.scacc f) s = .next (s.enteredMatrix (s.newCmd (.scacc f) f .matrix (rowPart (grantBase s.me.grant + p) n false ::
        rowPart (grantBase s.me.grant + d) nv true :: s.rangeParts s.curCore s.me.space b.toNat (384 * Machine.EF.scNb f) false)) id))) ∧
  (∀ (s : State) (f : EF), s.goes 0 f.r.gd [] = true → ∀ p ∈ [(Instr.mhintMms f, AllowKind.macros, 8, 32, 16), (.mhintXmv f, .tiles, 4, 64, 64)],
    let n := (f.eng.extractLsb' 36 4).toNat
    let len := (f.eng.extractLsb' 8 16).toNat
    let legal := 1 ≤ n ∧ n ≤ p.2.2.1 ∧ 1 ≤ len ∧ f.eng.extractLsb' 0 8 = 0
    let t0 := s.myCore.clock + (f.eng.extractLsb' 24 12).toNat
    let b := max s.myCore.clock (t0 - (p.2.2.2.1 + p.2.2.2.2 * (n - 1)))
    (¬legal → exec p.1 s = .next (s.trapped 0x0D (EF.word p.1))) ∧
    (legal → ∃ t, exec p.1 s = .next t ∧
      (t.myCore.allow p.2.1).hints = (s.myCore.allow p.2.1).hints ++ [(n, b, t0 + len - 1)] ∧
      (t.myCore.allow p.2.1).a = (s.myCore.allow p.2.1).a ∧
      (t.myCore.allow p.2.1).phase = (if b = s.myCore.clock ∧ (s.myCore.allow p.2.1).phase = .rest then .leadIn
        else (s.myCore.allow p.2.1).phase) ∧ t.myCore.cmds = s.myCore.cmds ∧ ∀ x, t.byte x = s.byte x)) ∧
  (∀ (s : State) (c n : Nat) (i : MacItem) (q : Cmd) (f : EF) (r : Region), (s.core c).macs.find? (fun i => i.mac == n) = some i →
    (s.core c).findCmd i.cmd = some q → Instr.ef q.ins = some f → (s.core c).regionId q.reg = some r → i.due ≤ (s.core c).clock →
    (isMldw q.ins = true → exec (.weightGroupLoadComplete c n) s = .next (((s.modCore c fun x =>
      { (x.modCmd q.id fun q => { q with prog := q.prog + 1 }) with macs := x.macs.filter fun j => j.mac != n }).groupLoaded c q r i).fillPlaces c)) ∧
    (isMms q.ins = true → exec (.mmsPairComplete c n) s = .next (((s.modCore c fun x =>
      { (x.modCmd q.id fun q => { q with late := q.late ++ [i] }) with macs := x.macs.filter fun j => j.mac != n }).enterDue c q.id f r
        (q.late.length + 1)).fillPlaces c))) ∧
  (∀ (s : State) (c : Nat) (m : Cmd) (r : Region) (i : MacItem), let p := s.sliceBase c + groupAt r i.g
    let t := s.groupLoaded c m r i
    (i.bad = 0 → i.a = false → (∀ x, x < p ∨ p + i.data.length ≤ x → t.byte x = s.byte x) ∧
      ∀ j v, i.data[j]? = some v → t.byte (p + j) = BitVec.ofNat 8 (multiplier r.ty (v % 16) + 16 * multiplier r.ty (v / 16))) ∧
    (i.bad ≠ 0 ∨ i.a = true → ∀ x, t.byte x = s.byte x)) ∧
  ∀ (s : State) (c : Nat) (m : Cmd) (f : EF) (r : Region) (i : MacItem), let row := m.mmsRow f (2 ^ r.lsg) i.g i.b
    let t := s.enterPair c m f r i
    (∀ x, t.byte x = s.byte x) ∧
    (sidePoison ((s.core c).side row) = false → i.bad = 0 → r.bad.contains i.g = false → s.macroRetired c r.m0 r.nm = false →
      let xs := i.data.map fun n => match fmtOf f.r.ty.toNat with | some fm => fm.value n | none => .nan false
      (t.core c).row (accGran row) = mapElems 32 allLanes (fun j => groupSum f.r.ty.toNat xs
        ((List.range 32).map fun k => s.weight c r i.g k j) (elem 32 ((s.core c).row (accGran row)) j)) ∧
      (∀ g, g < accGran row ∨ accGran row + 12 ≤ g → (t.core c).gran g = (s.core c).gran g) ∧
      (t.core c).side row = if i.a then mkSide .unknown false else (s.core c).side row)

/-- Power allowances (R274-R276): due, a rise adds one place, a fall takes one or drops to the cap, the end of a lead-in opens with one
place, or rests where no work is ready and no hint asks, the end of a tail rests or begins the next burst; not due, the event changes nothing.
Concludes that exec answers a next state for: allowanceRise, allowanceFall, leadInEnd, tailEnd. -/
def Obligations.Allowances : Prop :=
  ∀ (s : State) (c : Nat) (u : AllowKind), let x := s.core c
    let a := x.allow u
    let rise : Prop := s.trend c u = some true ∧ a.up = true ∧ a.mark + allowStep u ≤ x.clock
    let fall : Prop := s.trend c u = some false ∧ a.up = false ∧ a.mark + allowStep u ≤ x.clock
    let n := if s.cap u < a.a then s.cap u else a.a - 1
    ((rise → exec (.allowanceRise c u) s = .next ((s.setCore c (x.setAllow u { a with a := a.a + 1, mark := x.clock })).fillPlaces c)) ∧
      (¬rise → exec (.allowanceRise c u) s = .next s)) ∧
    ((fall → ∃ t, exec (.allowanceFall c u) s = .next t ∧ ((t.core c).allow u).a = n ∧
        ((t.core c).allow u).phase = (if n = 0 then .tail else a.phase)) ∧
      (¬fall → exec (.allowanceFall c u) s = .next s)) ∧
    (a.phase = .leadIn ∧ a.mark ≤ x.clock → s.demand c u = 0 → a.hint x.clock = 0 →
      exec (.leadInEnd c u) s = .next (s.setCore c (x.setAllow u { a with phase := .rest }))) ∧
    (a.phase = .leadIn ∧ a.mark ≤ x.clock → ¬(s.demand c u = 0 ∧ a.hint x.clock = 0) → exec (.leadInEnd c u) s =
      .next ((s.setCore c (x.setAllow u { a with a := 1, phase := .active, up := true, mark := x.clock })).fillPlaces c)) ∧
    (¬(a.phase = .leadIn ∧ a.mark ≤ x.clock) → exec (.leadInEnd c u) s = .next s) ∧
    (a.phase = .tail ∧ a.mark ≤ x.clock → ∃ t, exec (.tailEnd c u) s = .next t ∧ ((t.core c).allow u).a = a.a ∧
      ((t.core c).allow u).phase = (if 0 < a.hint x.clock ∨
        ((s.setCore c (x.setAllow u { a with phase := .rest })).waitingFor c u).isSome then .leadIn else .rest)) ∧
    (¬(a.phase = .tail ∧ a.mark ≤ x.clock) → exec (.tailEnd c u) s = .next s)

/-- Crossbar commands (R314-R327): with legal fields and operands each enters the queue of its tile, SUB 0 and 1 of XSTAT
return the status word; a lasting fault raises 0x06, a tile out of calibration 0x05, a full queue holds; a command that is due does its
work and ends, counted, with its event, and a product of more vectors goes on with the next. What each leaves: the six rows of a product
with their bound, the pulses and the record of an XUPD, of an XDEP and its reset, the row and the bounds of an XRD, the gains and
expectations of an XCAL, the symmetry points of an XSYM, the devices and NFAIL of an XPGM. Devices keep the ranges of R344 and R345, and
a product that starts in calibration the promise of R333. The model's choices: what devices do within their limits is free (log 21); the
stream TLB of a tile command (log 25); a page outside the own slice is refused as a command comes to it (log 77).
Concludes that exec answers a next state for: xmv, xmvt, xupd, xdep, xdepRst, xcal, xsym, xrd, xpgm, xstat, xstatWait, xstatBlk,
crossbarCommandComplete, idleSweep. -/
def Obligations.Crossbar : Prop :=
  (∀ (s : State) (f : EF), ∀ p ∈ tileCommands f, s.goes p.2.1 f.r.gd p.2.2 = true →
    let v := s.vals f
    let d := s.getS f.r.d
    let t := Machine.EF.tileNo f
    let u := s.myCore.tile t
    (∀ a, (if isProduct p.1 then s.me.rowsBad d.toNat (6 * Machine.EF.nv f) else none) = none →
      (xbAddrs p.1 f v).find? (fun a => !eaAligned a) = some a → exec p.1 s = .next (s.trapped 0x08 a)) ∧
    ((if isProduct p.1 then s.me.rowsBad d.toNat (6 * Machine.EF.nv f) else none) = none → (xbAddrs p.1 f v).all eaAligned = true →
      (xbLimit p.1 f = false → exec p.1 s = .next (s.trapped 0x0D (EF.word p.1))) ∧
      (xbLimit p.1 f = true →
        (u.lf = true → exec p.1 s = .next (s.trapped 0x06 (BitVec.ofNat 64 t))) ∧
        (u.lf = false → isXcal p.1 = false → isStat p.1 = false → u.rcal = true ∨ u.calv = false →
          exec p.1 s = .next (s.trapped 0x05 (BitVec.ofNat 64 t))) ∧
        (u.lf = false → (isXcal p.1 = true ∨ isStat p.1 = true ∨ u.rcal = false ∧ u.calv = true) →
          (s.stepTiles / 2 ^ t % 2 = 0 → exec p.1 s = .next (s.trapped 0x15 0)) ∧
          (s.stepTiles / 2 ^ t % 2 = 1 → (∀ ok, s.stepWrites (xbWrites p.1 f v) ok = ok) →
            (∀ ok, (xbOwn p.1 f v).foldr (fun o go => s.ownOperand o.1 none (lineBits o.1 o.2) go) ok = ok) →
            (xbScalars p.1 d = false → exec p.1 s = .next (s.trapped 0x0D (EF.word p.1))) ∧
            (xbScalars p.1 d = true → f.ev = false → s.me.discard = none → 8 ≤ s.myCore.tileQ t → exec p.1 s = .next s.hold) ∧
            (xbScalars p.1 d = true → s.tileFree f = true → exec p.1 s = .next (((s.modMy fun x =>
              x.enqueue (s.newCmd p.1 f (.tile t) (s.xbParts p.1 f v d.toNat))).noteStore).stepped 2))))))) ∧
  (∀ (s : State) (f : EF), s.goes 0 f.r.gd [] = true → f.eng.extractLsb' 0 38 = 0 → let t := Machine.EF.tileNo f
    ((s.myCore.tile t).lf = true → ∀ i ∈ [Instr.xstat f, .xstatWait f], exec i s = .next (s.trapped 0x06 (BitVec.ofNat 64 t))) ∧
    ((s.myCore.tile t).lf = false → s.stepTiles / 2 ^ t % 2 = 1 →
      exec (.xstat f) s = .next ((s.putS f.r.d.toNat (s.myCore.tileStatus t) 1).noteStore.stepped 2) ∧
      (s.myCore.tileQ t = 0 → exec (.xstatWait f) s = .next ((s.putS f.r.d.toNat (s.myCore.tileStatus t) 1).noteStore.stepped 2)) ∧
      (s.myCore.tileQ t ≠ 0 → exec (.xstatWait f) s = .next s.hold))) ∧
  (∀ (s : State) (c t : Nat) (m : Cmd) (f : EF),
    (s.core c).cmds.find? (fun m => m.engine == .tile t && m.st.running? && m.fail.isNone) = some m → Instr.ef m.ins = some f →
    (∀ d, m.due = some d → (s.core c).clock < d → exec (.crossbarCommandComplete c t) s = .next s) ∧
    (∀ d, m.due = some d → d ≤ (s.core c).clock → s.rlDone c m = true → s.partsClear c m = true →
      (∀ va w, (s.through m).firstMiss m.space (xbTouch m f) = .at va w → exec (.crossbarCommandComplete c t) s = .next (s.missCmd c m va w)) ∧
      ((s.through m).firstMiss m.space (xbTouch m f) = .transit → exec (.crossbarCommandComplete c t) s = .next s) ∧
      (((s.through m).firstMiss m.space (xbTouch m f)).clear = true →
        let p := (s.keepStream c m (xbTouch m f) (xbRanges m f)).runTile c m f t
        (p.2 = none → exec (.crossbarCommandComplete c t) s = .next p.1) ∧
        (∀ e, p.2 = some e → exec (.crossbarCommandComplete c t) s = .next (p.1.endTile c m t e)) ∧
        (isProduct m.ins = true → (p.2 = none ↔ m.prog + 1 < Machine.EF.nv f))))) ∧
  (∀ (s : State) (c : Nat) (m : Cmd) (l l' : List (Nat × Nat × Bool)), let t := s.keepStream c m l l'
    t.mem = s.mem ∧ ∀ d, { t.core d with l2tlb := (s.core d).l2tlb, ptrs := (s.core d).ptrs, cmds := (s.core d).cmds } = s.core d) ∧
  (∀ (s : State) (c t : Nat) (m : Cmd) (f : EF), (m.ins = .xmv f ∨ m.ins = .xmvt f) → let ty := f.r.ty.toNat
    let u := (s.core c).tile t
    let got := (s.through m).engReads c m.space (m.va.toNat + m.prog * vecBytes ty) (vecBytes ty / 32)
    let base := m.gbase + m.vd.toNat + 6 * m.prog
    let p := s.runTile c m f t
    let row := fun (s : State) r => (s.core c).row (accGran (base + r))
    let side := fun (s : State) r => (s.core c).side (base + r)
    (∀ b, p.1.byte b = s.byte b) ∧
    (got.bad = 2 → ∀ r, r < 6 → row p.1 r = row s r ∧ side p.1 r = side s r) ∧
    (got.bad ≠ 0 → got.bad ≠ 2 → ∀ r, r < 6 → row p.1 r = row s r ∧ side p.1 r = mkSide (sideTag (side s r)) true) ∧
    (got.bad = 0 → let vs := (elemsOf (tyWidth ty) got.bytes).map (srcValue ty)
      let wild := vs.any fun v => !v.isFin
      let xs := vs.map Fv.rat
      let hs := driven xs (Machine.EF.d4 f)
      let bound := if wild || got.a || m.product.rcal then boundUnknown else u.vecBound xs hs
      let weight := fun k l => match m.ins with | .xmvt _ => u.weight k l | _ => u.weight l k
      ∃ e : Nat → Rat, (m.product.rcal = false → m.product.calv = true → 0 ≤ u.wmax → ∀ k, |e k| ≤ u.wmax * sumAbs hs / 128) ∧
        let y := fun k => if wild ∨ 1024 ≤ k then 0
          else f32OfRat ((hs.mapIdx fun l h => if h = 0 then 0 else h * weight k l).sum + e k) % 2 ^ 32
        ∀ r, r < 6 →
          (Machine.EF.add f = false → side p.1 r = mkSide ⟨true, bound⟩ false ∧ ∀ l, l < 192 → elem 32 (row p.1 r) l = y (192 * r + l)) ∧
          (Machine.EF.add f = true → sidePoison (side s r) = true → row p.1 r = row s r ∧ side p.1 r = side s r) ∧
          (Machine.EF.add f = true → sidePoison (side s r) = false →
            side p.1 r = mkSide ⟨true, boundOf (optAdd (sideTag (side s r)).val (boundVal bound))⟩ false ∧
            ∀ l, l < 192 → elem 32 (row p.1 r) l = rneAdd (elem 32 (row s r) l) (y (192 * r + l)) % 2 ^ 32))) ∧
  (∀ (s : State) (c t : Nat) (m : Cmd) (f : EF) (d : Nat → Nat), m.ins = .xupd f → m.blk.length = 2 * vecBytes f.r.ty.toNat →
    let ty := f.r.ty.toNat
    let vals := fun (l : List Byte) => (elemsOf (tyWidth ty) l).map (srcValue ty)
    let xs := vals (m.blk.take (vecBytes ty))
    let ds := vals (m.blk.drop (vecBytes ty))
    let word := fun k => BitVec.ofNat 32 (Tab.get (fun _ => 0) m.mac k)
    let rs := fun k => firing (word k) 0x9E3779B9 false (xs.map fun v => fireLimit v (fmtF32.value (m.vd.extractLsb' 0 32).toNat).rat)
    let cs := fun k => firing (word k) 0x7F4A7C15 true (ds.map fun v => fireLimit v (fmtF32.value (m.vd.extractLsb' 32 32).toNat).rat)
    let slots := List.range (Machine.EF.bl f)
    let step := fun i j => if (xs.getD i (.fin false 0)).neg = (ds.getD j (.fin false 0)).neg then (-1 : Int) else 1
    let record := ((List.range 1024).flatMap fun i => leBytes 2 (slots.filter fun k => (rs k).contains i).length) ++
      ((List.range 1024).flatMap fun j => leBytes 2 (slots.filter fun k => (cs k).contains j).length) ++
      ((List.range 1024).flatMap fun j => leBytes 4 (wrapInt 32 (slots.map fun k =>
        if (cs k).contains j then ((rs k).map fun i => step i j).sum else 0).sum))
    let p := s.runTile c m f t
    let u := (s.core c).tile t
    let v := (p.1.core c).tile t
    (f.r.c = 0 → p.2 = some 0 ∧ ∀ b, p.1.byte b = s.byte b) ∧
    (f.r.c ≠ 0 → s.placesAt (m.bound c) m.space m.vc.toNat 64 128 false d → p.2 = some 0 ∧ s.piecesIn p.1 128 d (piece64 record)) ∧
    ∀ i j, i < 1024 → j < 1024 → v.stoneAt i j = u.stoneAt i j ∧
      ((∀ k, k < Machine.EF.bl f → (rs k).contains i = false ∨ (cs k).contains j = false) → v.dripAt i j = u.dripAt i j)) ∧
  (∀ (s : State) (c t : Nat) (m : Cmd) (f : EF) (d : Nat → Nat), ∀ o ∈ [(Instr.xdep f, false), (.xdepRst f, true)], m.ins = o.1 →
    Machine.EF.first f + Machine.EF.many f ≤ 1024 → let u := (s.core c).tile t
    let rho : Rat := ((Machine.EF.rate f + 1 : Nat) : Rat) / 256
    let n := fun i j => max (-31) (min 31 (roundToInt 0 (32 * rho * (u.dripAt i j - u.symVal j)) 0 0))
    let record := (List.range (Machine.EF.many f)).flatMap fun k =>
      leBytes 4 (wrapInt 32 ((List.range 1024).map fun i => n i (Machine.EF.first f + k)).sum)
    let p := s.runTile c m f t
    let v := (p.1.core c).tile t
    (f.r.c = 0 → p.2 = some 0 ∧ ∀ b, p.1.byte b = s.byte b) ∧
    (f.r.c ≠ 0 → s.placesAt (m.bound c) m.space m.vc.toNat 64 ((4 * Machine.EF.many f + 63) / 64) false d →
      p.2 = some 0 ∧ s.piecesIn p.1 ((4 * Machine.EF.many f + 63) / 64) d (piece64 record)) ∧
    ∀ i j, i < 1024 → j < 1024 → let inside := Machine.EF.first f ≤ j ∧ j < Machine.EF.first f + Machine.EF.many f
      (¬inside ∨ n i j = 0 → v.stoneAt i j = u.stoneAt i j) ∧ (¬inside ∨ o.2 = false → v.dripAt i j = u.dripAt i j) ∧
      (inside → o.2 = true → |u.symVal j| ≤ 1 → |v.dripAt i j - u.symVal j| ≤
        max (dripMean (4 * c + t) i j true (u.symVal j)) (dripMean (4 * c + t) i j false (u.symVal j)))) ∧
  (∀ (s : State) (c t : Nat) (m : Cmd) (f : EF), m.ins = .xcal f → let u := (s.core c).tile t
    let p := s.runTile c m f t
    let v := (p.1.core c).tile t
    let wm := u.gain.extractLsb' 32 16
    let g := u.thr ++ wm ++ wm ++ bf16Of (32 * u.wmax * stoneStep (4 * c + t))
    let fits := fun (x : BitVec 16) => 0 < x.toNat ∧ x.toNat < 0x7F80
    let good := 0x0080 ≤ wm.toNat ∧ wm.toNat < 0x7F80 ∧ (∀ k, k < 8 → |u.refs.getD k 0 - refLevel k| ≤ 1 / 8) ∧
      fits (g.extractLsb' 0 16) ∧ fits (g.extractLsb' 16 16)
    (∀ b, p.1.byte b = s.byte b) ∧
    (good → p.2 = some 0 ∧ v.calv = true ∧ v.rcal = false ∧ v.drift = 0 ∧ v.gain = g ∧ v.lastMeas = (s.core c).clock ∧
      ∀ k, k < 8 → |v.refs.getD k 0 - refLevel k| ≤ 1 / 256 ∧ v.expects.getD k 0 = v.reading k) ∧
    (¬good → p.2 = some 6 ∧ v.calv = false ∧ v.gain = u.gain ∧ v.winErr = u.winErr + 1)) ∧
  (∀ (s : State) (c t : Nat) (m : Cmd) (f : EF) (d : Nat → Nat), m.ins = .xsym f → Machine.EF.first f + Machine.EF.many f ≤ 1024 →
    let u := (s.core c).tile t
    let p := s.runTile c m f t
    let v := (p.1.core c).tile t
    let inside := fun j => Machine.EF.first f ≤ j ∧ j < Machine.EF.first f + Machine.EF.many f
    let points := (List.range (Machine.EF.many f)).flatMap fun k => leBytes 2 (v.sym (Machine.EF.first f + k)).toNat
    (f.r.a = 0 → p.2 = some 0 ∧ ∀ b, p.1.byte b = s.byte b) ∧
    (f.r.a ≠ 0 → s.placesAt (m.bound c) m.space m.va.toNat 64 ((2 * Machine.EF.many f + 63) / 64) false d →
      p.2 = some 0 ∧ s.piecesIn p.1 ((2 * Machine.EF.many f + 63) / 64) d (piece64 points)) ∧
    (∀ i j, v.stoneAt i j = u.stoneAt i j) ∧
    (∀ i j, i < 1024 → j < 1024 → ¬inside j → v.dripAt i j = u.dripAt i j ∧ v.sym j = u.sym j) ∧
    ∀ j, inside j → ∃ r : Nat → Rat, v.sym j = bf16Of (clampRat (-1) 1 (((List.range 1024).map r).sum / 1024)) ∧
      (m.product.rcal = false → m.product.calv = true → u.wmax ≠ 0 → 0 ≤ u.errLim 0 * u.wmax / u.gd →
        ∀ i, i < 1024 → |r i - v.dripAt i j| ≤ u.errLim 0 * u.wmax / u.gd)) ∧
  (∀ (s : State) (c t : Nat) (m : Cmd) (f : EF) (d : Nat → Nat), m.ins = .xrd f → let u := (s.core c).tile t
    let per := 4 ^ Machine.EF.lrep f
    let k := m.prog + 1
    let p := s.runTile c m f t
    let v := (p.1.core c).tile t
    (∀ i j, v.stoneAt i j = u.stoneAt i j ∧ v.dripAt i j = u.dripAt i j) ∧
    (k % per ≠ 0 → p.2 = none ∧ ∀ b, p.1.byte b = s.byte b) ∧
    (k % per = 0 → let at' := m.va.toNat + 2048 * (k / per - 1)
      ∃ (w : Tile) (n : Nat), w.gain = u.gain ∧ w.stone = u.stone ∧ w.drip = u.drip ∧ w.dsym = u.dsym ∧
        let cols := (List.range 1024).map fun j =>
          w.estimates m.product n (Machine.EF.lrep f) j ((List.range (Machine.EF.many f)).map (· + Machine.EF.first f))
        let row := cols.flatMap fun l => leBytes 2 (l.getD (k / per - 1) 0).toNat
        let bounds := cols.flatMap fun l => leBytes 2 (if m.product.rcal then boundUnknown else w.readBound (Machine.EF.lrep f) l).toNat
        (k < xrdReads f → s.placesAt (m.bound c) m.space at' 64 32 true d → p.2 = none ∧ s.piecesIn p.1 32 d (piece64 row)) ∧
        (k = xrdReads f → s.placesAt (m.bound c) m.space at' 64 64 true d → p.2 = some 0 ∧ s.piecesIn p.1 64 d (piece64 (row ++ bounds))))) ∧
  (∀ (u : Tile) (q : Product) (n lrep j x i : Nat) (rows : List Nat) (e : BitVec 16), q.rcal = false → q.calv = true →
    let es := u.estimates q n lrep j rows
    es[x]? = some e → rows[x]? = some i → e = bf16Of (u.weight i j) ∨
      ((fmtBf16.value e.toNat).isFin = true ∧ ∀ b, boundVal (u.readBound lrep es) = some b → |(fmtBf16.value e.toNat).rat - u.weight i j| ≤ b)) ∧
  (∀ (s : State) (c t : Nat) (m : Cmd) (f : EF), m.ins = .xpgm f → let u := (s.core c).tile t
    let i := Machine.EF.first f + m.prog
    let got := s.engReads c m.space (m.va.toNat + 2048 * m.prog) 64
    let bytes := if m.arrived = 0 then got.bytes else m.blk
    let p := s.runTile c m f t
    let v := (p.1.core c).tile t
    let target := fun j => u.target (fmtBf16.value ((elemsOf 16 bytes).getD j 0))
    let k := ((List.range 1024).filter fun j => !v.near (Machine.EF.tol f) i j (target j)).length
    i < 1024 → (m.arrived = 0 → got.bad = 0) → (m.arrived ≠ 0 → m.blk.length = 2048) →
    (∀ b, p.1.byte b = s.byte b) ∧
    (∀ j, j < 1024 → v.dripAt i j = u.symVal j ∧ (u.near (Machine.EF.tol f) i j (target j) = true → v.stoneAt i j = u.stoneAt i j)) ∧
    (∀ i' j, i' ≠ i → j < 1024 → v.dripAt i' j = u.dripAt i' j ∧ v.stoneAt i' j = u.stoneAt i' j) ∧
    (let again := k ≠ 0 ∧ m.arrived + 1 < Machine.EF.nit f
     (again ∨ m.prog + 1 < Machine.EF.many f → p.2 = none) ∧
     (¬again → Machine.EF.many f ≤ m.prog + 1 → p.2 = some m.product.xerr ∧ v.nfail = BitVec.ofNat 16 (min 65535 (m.reg + k))))) ∧
  (∀ id i j : Nat,
    (1 / 256 ≤ dripUp id i j ∧ dripUp id i j ≤ 1 / 64) ∧ (1 / 256 ≤ dripDown id i j ∧ dripDown id i j ≤ 1 / 64) ∧
    (dripDown id i j ≤ 3 * dripUp id i j ∧ dripUp id i j ≤ 3 * dripDown id i j) ∧ |dripPoint id i j| ≤ 1 / 2 ∧
    dripMean id i j true (dripPoint id i j) = dripStep id i j ∧ dripMean id i j false (dripPoint id i j) = dripStep id i j ∧
    ∀ (n p : Nat) (up : Bool) (v : Rat), |dripPulse id i j n p up v| ≤ 1 ∧ |stonePulse id i j n p up v| ≤ 1 ∧
      (v = 1 → dripPulse id i j n p true v = 1) ∧ (v = -1 → dripPulse id i j n p false v = -1)) ∧
  (∀ (u : Tile) (q : Product) (x : Rat) (n k : Nat), 0 ≤ x → q.rcal = false → q.calv = true → |u.outErr q x n k| ≤ x / 128) ∧
  (∀ (s : State) (c t n : Nat) (m : Cmd), let u := s.endTile c m t n
    ((u.core c).cmds.all fun k => k.id != m.id) = true ∧ ((u.core c).tile t).done = ((s.core c).tile t).done + 1 ∧
    ((u.core c).tile t).xerr = (if n = 0 then ((s.core c).tile t).xerr else BitVec.ofNat 8 n) ∧ ∀ b, u.byte b = s.byte b) ∧
  ∀ (s : State) (c t : Nat), let u := (s.core c).tile t
    (((s.core c).started = false ∨ (s.core c).clock < u.lastMeas + 65536) → exec (.idleSweep c t) s = .next s) ∧
    ((s.core c).started = true → u.lastMeas + 65536 ≤ (s.core c).clock →
      (∀ e, u.sweep = some e → (s.core c).clock < e → exec (.idleSweep c t) s = .next s) ∧
      (∀ e, u.sweep = some e → e ≤ (s.core c).clock → ∃ v, exec (.idleSweep c t) s = .next v ∧
        ((v.core c).tile t).sweep = none ∧ ((v.core c).tile t).lastMeas = (s.core c).clock) ∧
      (u.sweep = none → (s.core c).cmds.find? (fun m => m.engine == .tile t && m.st.running?) = none →
        ∃ v, exec (.idleSweep c t) s = .next v ∧ ((v.core c).tile t).sweep = some ((s.core c).clock + 359)))

/-! ## Commands that leave a core, the join units and the stacks (spec/24-spec/28) -/

/-- PCFG, RJCFG, RJSEAL, RJSEND, RJTAKE, STRD, MDEC and MRSZ (R355, R358-R366): with legal operands and a readable block each has its
effect or enters its slot; the block of RJCFG, RJSEAL, STRD, MDEC or MRSZ outside its limits raises 0x0D, a block on a page with A raises 0x04 for RJCFG and RJSEAL and ends STRD,
MDEC and MRSZ with status 5, a refused seal raises 0x16; inside a tile step PCFG, RJCFG of VER and RJTAKE raise 0x15; a finished PCFG
configures its tiles; a served command that runs ends with its bytes, its RESULT, its status and COUNT: RJSEND once every message has been
accepted, STRD with the target's data, MDEC with its frames, MRSZ with its three planes. The model's choices: the order in which a seal is
refused, and 0x04 for a block of RJCFG or RJSEAL on a page with A (log 22).
Concludes that exec answers a next state for: pcfg, rjcfg, rjcfgVer, rjseal, rjsend, rjtake, strd, mdec, mrsz. -/
def Obligations.UnitCommands : Prop :=
  (∀ (s : State) (f : EF) (n pa : Nat) (t : Attr), s.goes 0 f.r.gd [f.r.a.toNat, f.r.b.toNat] = true →
    let a := s.getS f.r.a
    let b := s.getS f.r.b
    (eaAligned a = false → exec (.pcfg f) s = .next (s.trapped 0x08 a)) ∧
    (eaAligned a = true → b.extractLsb' 0 21 ≠ 0 → exec (.pcfg f) s = .next (s.trapped 0x08 b)) ∧
    (eaAligned a = true → b.extractLsb' 0 21 = 0 → f.eng = 0 → eaPlain a = true → eaPlain b = true →
      (s.me.inStep = true → exec (.pcfg f) s = .next (s.trapped 0x15 0)) ∧
      (s.me.inStep = false → s.look s.curCore s.curCtx b = .ok pa t →
        (t.c = false → exec (.pcfg f) s = .next (s.trapped 0x0E b)) ∧
        (t.c = true → s.inDomain (modOf pa) = true → s.slotFree f 0 n = true → exec (.pcfg f) s = .next (s.entered f 0 n
          { s.newCmd (.pcfg f) f .unit (s.rangeParts s.curCore s.me.space a.toNat
              (imageLen (fld (s.engRead s.curCore s.me.space a.toNat 64).bytes 2 2)) false) with vc := BitVec.ofNat 64 pa })))) ∧
    (eaAligned a = true → eaPlain a = true → f.eng.extractLsb' 0 32 = 0 → b.extractLsb' 10 54 = 0 → s.me.inStep = false →
      s.slotFree f 0 n = true → exec (.rjsend f) s = .next (s.entered f 0 n
        (s.newCmd (.rjsend f) f .unit (s.rangeParts s.curCore s.me.space a.toNat (32 * Machine.EF.msgs f) false))))) ∧
  (∀ (s : State) (f : EF) (bs : List Byte) (apx : Bool), s.goes 1 f.r.gd [f.r.a.toNat] = true → f.eng.extractLsb' 3 37 = 0 →
    let a := s.getS f.r.a
    let ws := (List.range 16).map fun i => wordAt bs (8 * i)
    s.blockReady a 2 bs apx = true →
    (apx = true → exec (.rjcfg f) s = .next (s.trapped 0x04 a)) ∧
    (apx = false → rjcfgOk ws = false → exec (.rjcfg f) s = .next (s.trapped 0x0D (EF.word (.rjcfg f)))) ∧
    (apx = false → rjcfgOk ws = true → exec (.rjcfg f) s = .next
      ((s.modUnit (Machine.EF.dieNo f) fun u => u.configure ws s.me.space s.me.lid).noteStore.stepped 2))) ∧
  (∀ (u : JoinUnit) (bs : List Byte) (sp lid n : Nat), n < 16 →
    (u.configure ((List.range 16).map fun i => wordAt bs (8 * i)) sp lid).word n = wordAt bs (8 * n)) ∧
  (∀ (s : State) (f : EF), s.goes 0 f.r.gd [f.r.a.toNat] = true → f.eng.extractLsb' 3 37 = 0 →
    (s.me.inStep = true → exec (.rjcfgVer f) s = .next (s.trapped 0x15 0)) ∧
    (s.me.inStep = false → ∃ t, exec (.rjcfgVer f) s = .next t ∧ let u := (t.die (Machine.EF.dieNo f)).unit
      let v := (s.die (Machine.EF.dieNo f)).unit
      u.ver = (s.getS f.r.a).extractLsb' 0 32 ∧ u.lag = v.lag ∧ (∀ n, n ≠ 3 → u.word n = v.word n) ∧ u.entries = v.entries ∧
      ∀ b, t.byte b = s.byte b)) ∧
  (∀ (s : State) (f : EF) (bs : List Byte) (apx : Bool), s.goes 0 f.r.gd [f.r.a.toNat] = true → f.eng = 0 →
    let a := s.getS f.r.a
    s.blockReady a 1 bs apx = true → s.releasePass = true →
    (apx = true → exec (.rjseal f) s = .next (s.trapped 0x04 a)) ∧
    (apx = false → sealOk bs = false → exec (.rjseal f) s = .next (s.trapped 0x0D (EF.word (.rjseal f)))) ∧
    (∀ trs pa t, apx = false → sealOk bs = true → let steps := wordAt bs 24
      let n := 32 * fld bs 8 4
      eaPlain steps = true → steps.toNat + n ≤ 2 ^ 52 → s.lookAll s.curCore s.curCtx (pageWords steps n) = .ok trs →
      (trs.all fun t => t.2.r && t.2.w && !t.2.a) = true → ((s.stepUnits steps n trs).any fun p => s.misplaced p.1 p.2) = false →
      s.look s.curCore s.curCtx a = .ok pa t → s.misplaced pa (if t.d then s.holdOf a else 0) = false →
      let key := wordAt bs 0
      let u := (s.die (key.toNat % 8)).unit
      (u.on = false → exec (.rjseal f) s = .next (s.trapped 0x16 2)) ∧
      (u.on = true → (u.entry key).isSome = true → exec (.rjseal f) s = .next (s.trapped 0x16 3)) ∧
      (u.on = true → u.entry key = none → 65536 ≤ u.entries.length → exec (.rjseal f) s = .next (s.trapped 0x16 1)) ∧
      (u.on = true → u.entry key = none → u.entries.length < 65536 → ∃ v, exec (.rjseal f) s = .next v ∧
        (((v.die (key.toNat % 8)).unit.entry key).map (·.len)) = some (fld bs 8 4) ∧
        (v.die (key.toNat % 8)).unit.nextSeal = (u.nextSeal + 1) % 2 ^ 32 ∧
        ∀ r, v.me.rd r = if r = 0 then 0 else if r = f.r.d.toNat then BitVec.ofNat 64 u.nextSeal else s.me.rd r))) ∧
  (∀ (s : State) (f : EF), s.goes 0 f.r.gd [f.r.a.toNat] = true → f.eng = 0 → (s.getS f.r.a).toNat ≤ 7 →
    let d := (s.getS f.r.a).toNat
    let q := (s.die d).unit.relq
    (s.me.inStep = true → exec (.rjtake f) s = .next (s.trapped 0x15 0)) ∧
    (s.me.inStep = false → ∃ t, exec (.rjtake f) s = .next t ∧ (t.die d).unit.relq = q.drop 1 ∧ (∀ b, t.byte b = s.byte b) ∧
      ∀ r, t.me.rd r = if r = 0 then 0 else if r = f.r.d.toNat then q.headD 0 else s.me.rd r)) ∧
  (∀ (s : State) (f : EF) (n : Nat) (bs : List Byte) (apx : Bool), s.goes 0 f.r.gd [f.r.a.toNat] = true → f.eng = 0 →
    let a := s.getS f.r.a
    ∀ p ∈ requestCommands s f, s.blockReady a p.2.1 bs apx = true →
      let own := s.rangeParts s.curCore s.me.space a.toNat (64 * p.2.1) false
      let w := p.2.2.2 bs
      (apx = true → s.slotFree f 0 n = true →
        exec p.1 s = .next (s.entered f 0 n { s.newCmd p.1 f .unit own with blk := bs, fail := some 5 })) ∧
      (apx = false → p.2.2.1 bs = false → exec p.1 s = .next (s.trapped 0x0D (EF.word p.1))) ∧
      (apx = false → p.2.2.1 bs = true → s.slotFree f 0 n = true → exec p.1 s = .next (s.entered f 0 n { s.newCmd p.1 f .unit
        (own ++ (if eaPlain w.1 then s.rangeParts s.curCore s.me.space w.1.toNat w.2 true else [])) with blk := bs }))) ∧
  (∀ (s : State) (c : Nat) (m : Cmd), let g := s.imageOf c m
    let pa := m.vc.toNat
    let ok := zeros g.bytes 1 1 && zeros g.bytes 4 60 && imageOk (fld g.bytes 0 1) (fld g.bytes 2 2) (imageWords g.bytes)
    (m.prog = 0 → g.a = true → s.runPcfg c m = some (.inr ⟨s, 5, 0, false⟩)) ∧
    (m.prog = 0 → g.a = false → g.bad = 0 → ok = false → s.runPcfg c m = some (.inr ⟨s, 0x0A, 0, false⟩)) ∧
    (m.prog = 0 → g.a = false → g.bad = 0 → ok = true →
      s.aliasPending pa = true ∨ (s.pearlAt pa).queue ≠ [] → s.runPcfg c m = none) ∧
    (m.prog = 0 → g.a = false → g.bad = 0 → ok = true → s.aliasPending pa = false → (s.pearlAt pa).queue = [] →
      (s.pearlAt pa).configuring = false → ∃ t, s.runPcfg c m = some (.inl t) ∧ (t.pearlAt pa).configuring = true ∧
        (t.pearlAt pa).image = (s.pearlAt pa).image) ∧
    (m.prog ≠ 0 → ∃ t, s.runPcfg c m = some (.inr ⟨t, 0, 0, false⟩) ∧ let p := t.pearlAt pa
        p.kind = fld m.blk 0 1 ∧ p.image = imageWords m.blk ∧ p.configuring = false ∧ p.queue = (s.pearlAt pa).queue)) ∧
  (∀ (s : State) (c q : Nat) (m : Cmd) (f : EF), (s.core c).findCmd q = some m → Instr.ef m.ins = some f → m.engine = .unit →
    m.st.running? = true → s.rlDone c m = true → (s.core c).held m = false → s.partsClear c m = true → m.fail = none →
    ((s.served c m || m.cancel) = false → exec (.engineCommandComplete c q) s = .next s) ∧
    ((s.served c m || m.cancel) = true → (s.firstMiss m.space (unitTouch s c m f)).clear = true → (s.firstMiss m.space (recTouch m)).clear = true →
      let u := match s.runUnit c m f with
        | none => s
        | some (.inl t) => t
        | some (.inr d) => d.s.endCmd c m d.st d.cnt d.poison
      ∃ l l', exec (.engineCommandComplete c q) s = .next ((u.learnAll m.space l (recTouch m)).learnAll m.space l' (unitTouch s c m f)))) ∧
  (∀ (s : State) (c : Nat) (m : Cmd) (f : EF), m.ins = .rjsend f → let n := Machine.EF.msgs f
    let to' := m.vb.toNat
    let g := s.engReads c m.space m.va.toNat n
    (m.prog = 0 → (s.core c).sendsBefore m = true → s.runUnit c m f = none) ∧
    (m.prog = 0 → (s.core c).sendsBefore m = false →
      (g.a = true → s.runUnit c m f = some (.inr ⟨s, 5, 0, false⟩)) ∧
      (g.a = false → g.bad ≠ 0 → s.runUnit c m f = some (.inr ⟨s, g.bad, 0, false⟩)) ∧
      (g.clean = true → s.inDomain to' = false → s.runUnit c m f = some (.inr ⟨s, 2, 0, false⟩)) ∧
      (g.clean = true → s.inDomain to' = true → s.koyth.unreachable.contains to' = true → s.runUnit c m f = some (.inr ⟨s, 9, 0, false⟩)) ∧
      (g.clean = true → s.inDomain to' = true → s.koyth.unreachable.contains to' = false → ∃ t, s.runUnit c m f = some (.inl t) ∧
        (∀ b, t.byte b = s.byte b) ∧ (to' ≠ s.koyth.modId → t.dies = s.dies) ∧
        (to' = s.koyth.modId → ∀ d, (t.die d).unit.inbox = (s.die d).unit.inbox ++
          ((List.range n).map fun i => msgOf g.bytes i c m.id).filter fun q => q.key.toNat % 8 == d))) ∧
    (m.prog ≠ 0 → s.runUnit c m f = if s.undelivered c m.id then none else some (.inr ⟨s, 0, 32 * n, false⟩))) ∧
  (∀ (s : State) (c : Nat) (m : Cmd) (f : EF) (d r : Nat → Nat), m.ins = .strd f → m.cancel = false → let dst := fld m.blk 24 8
    let n := s.strdBytes m.blk
    let st := Config.readStatus s.tick (fld m.blk 0 2)
    s.placesAt none m.space (m.va.toNat + 32) 8 1 false r → ∃ e, s.runUnit c m f = some (.inr e) ∧ e.poison = false ∧
      (m.reg = 0 → e.st = 0x0A ∧ e.cnt = 0 ∧ s.piecesIn e.s 1 r fun _ => leBytes 8 65536) ∧
      (m.reg ≠ 0 → eaPlain (wordAt m.blk 24) = false ∨ s.dstOk m.space dst n = false →
        e.st = 0x0A ∧ e.cnt = 0 ∧ s.piecesIn e.s 1 r fun _ => leBytes 8 (4 * 65536)) ∧
      (m.reg ≠ 0 → eaPlain (wordAt m.blk 24) = true → s.dstOk m.space dst n = true →
        (st ≠ 0 → e.st = 0x0A ∧ e.cnt = 0) ∧
        (st = 0 → s.placesAt none m.space dst 64 (n / 64) false d → e.st = 0 ∧ e.cnt = n ∧
          s.piecesIn e.s (n / 64 + 1) (fun i => if i < n / 64 then d i else r 0)
            fun i => if i < n / 64 then freeBytes s.tick (64 * i) 64 else leBytes 8 0))) ∧
  (∀ (s : State) (c : Nat) (m : Cmd) (f : EF) (p : Nat → Nat → Nat → Nat) (r : Nat → Nat), m.ins = .mdec f → m.cancel = false →
    let b := m.blk
    let d := s.decoding c m
    let rows := mdecH b * 3 / 2
    let at' := fun k y => mdecDst b + k * mdecPitch b + y * mdecRowp b
    let row := fun k y => decodedRow (mdecCodec b) d.bytes k (mdecW b) y
    let used := fun k y i => k < d.frames ∧ y < rows ∧ 64 * i < (row k y).length
    s.placesAt none m.space (m.va.toNat + 48) 8 1 false r → ∃ e, s.runUnit c m f = some (.inr e) ∧ e.poison = false ∧
      (mdecPitch b < surface (mdecRowp b) (mdecH b) → e.st = 0x0A ∧ s.piecesIn e.s 1 r fun _ => leBytes 8 (4 * 2 ^ 32)) ∧
      (surface (mdecRowp b) (mdecH b) ≤ mdecPitch b → eaPlain (wordAt b 8) = true → eaPlain (wordAt b 24) = true → d.lost = 0 →
        (∀ k y, k < d.frames → y < rows → s.placesAt none m.space (at' k y) 64 (((row k y).length + 63) / 64) d.a (p k y)) →
        (∀ k y i, used k y i → s.putPoison m.space (at' k y + 64 * i) (min 64 ((row k y).length - 64 * i)) = 0 ∧
          (p k y i + 64 ≤ r 0 ∨ r 0 + 8 ≤ p k y i) ∧
          ∀ k' y' i', used k' y' i' → (k, y, i) ≠ (k', y', i') → p k y i + 64 ≤ p k' y' i' ∨ p k' y' i' + 64 ≤ p k y i) →
        e.st = (if d.code = 0 then 0 else 0x0A) ∧ e.cnt = ((List.range d.frames).map fun k => ((List.range rows).map fun y => (row k y).length).sum).sum ∧
        (∀ k y x v, k < d.frames → y < rows → (row k y)[x]? = some v → e.s.byte (p k y (x / 64) + x % 64) = s.wrote (p k y (x / 64) + x % 64) v) ∧
        ∀ x v, (leBytes 8 (d.code * 2 ^ 32 + d.frames))[x]? = some v → e.s.byte (r 0 + x) = s.wrote (r 0 + x) v)) ∧
  ∀ (s : State) (c : Nat) (m : Cmd) (f : EF) (p : Nat → Nat → Nat) (r : Nat → Nat), m.ins = .mrsz f → m.cancel = false →
    let q := resizeOf m.blk
    let w := Machine.EF.outBytes f
    let row := fun i => (s.resizeRow c m f q i).flatMap fun x => leBytes w x.1
    let needA := (pagesIn q.src (surface q.srowp q.sh)).any fun a => match s.reach m.space a false with | .ok _ t _ => t.a | _ => false
    let lost := (q.reads.map fun p => s.stream c m.space p.1 p.2).any (·.bad != 0)
    let used := fun i j => i < 3 * q.oh ∧ 64 * j < q.ow * w
    (w = 1 ∨ w = 2 ∨ w = 4) → eaPlain (BitVec.ofNat 64 q.src) = true → ∃ e, s.runUnit c m f = some (.inr e) ∧ (lost = true → e.st = 0x0A) ∧
      (lost = false → eaPlain (BitVec.ofNat 64 q.dst) = true → s.placesAt none m.space (m.va.toNat + 72) 8 1 false r →
        (∀ i, i < 3 * q.oh → s.placesAt none m.space (q.dst + i / q.oh * q.dplane + i % q.oh * q.drowp) 64 ((q.ow * w + 63) / 64) needA (p i)) →
        (∀ i j, used i j → (p i j + 64 ≤ r 0 ∨ r 0 + 8 ≤ p i j) ∧
          ∀ i' j', used i' j' → (i, j) ≠ (i', j') → p i j + 64 ≤ p i' j' ∨ p i' j' + 64 ≤ p i j) →
        e.st = 0 ∧ e.cnt = 3 * q.oh * (q.ow * w) ∧
        e.poison = ((List.range (3 * q.oh)).any fun i => (s.resizeRow c m f q i).any (·.2)) ∧
        (∀ i x v, i < 3 * q.oh → (row i)[x]? = some v → e.s.byte (p i (x / 64) + x % 64) = s.wrote (p i (x / 64) + x % 64) v) ∧
        ∀ x v, (leBytes 8 0)[x]? = some v → e.s.byte (r 0 + x) = s.wrote (r 0 + x) v)

/-- A reward join unit (R363, R389, R391, R393, R394, R396): an arrival joins its held entry, a duplicate or a malformed one joins nothing,
one without an entry waits as an orphan, at EN = 0 it is discarded; entries and orphans of full age are queued or lost; a scan readies the
entry queued first, or drops it when stale without SFLAG or when its steps cannot all be read; a scan that readies writes r, n, A and R into
every step and FLAGS and NGOT into the descriptor, and nothing else (R395); every event raises its counters by one and stores them (R397); a
release puts the descriptor into the release queue. The model's choices (log 24): a scan and the next arrival wait until both steps of ageing
are taken, and under ORD = 1 an entry that waits does not block the one sealed before all others.
Concludes that exec answers a next state for: rewardArrival, entryTimeout, orphanLoss, episodeScan, episodeRelease. -/
def Obligations.JoinUnit : Prop :=
  (∀ (s : State) (d : Nat), let u := (s.die d).unit
    (∀ bs, let m := msgOf bs 0 65536 0
      (bs.length ≠ 32 ∨ m.key.toNat % 8 ≠ d → exec (.rewardArrival ⟨d, some bs⟩) s = .next s) ∧
      (bs.length = 32 → m.key.toNat % 8 = d → ∃ t, exec (.rewardArrival ⟨d, some bs⟩) s = .next t ∧
        (t.die d).unit.inbox = u.inbox ++ [m] ∧ (t.die d).unit.entries = u.entries ∧ ∀ b, t.byte b = s.byte b)) ∧
    (u.inbox = [] ∨ u.judge ≠ 0 → exec (.rewardArrival ⟨d, none⟩) s = .next s) ∧
    (∀ m rest, u.inbox = m :: rest → u.judge = 0 →
      (u.on = false → ∃ t, exec (.rewardArrival ⟨d, none⟩) s = .next t ∧ (t.die d).unit.inbox = rest ∧ (t.die d).unit.entries = u.entries ∧
        (t.die d).unit.orphans = u.orphans ∧ s.rjCounted t d [7]) ∧
      (∀ ns, u.on = true → (m.malformed (u.entry m.key) = true ∧ ns = [0, 6] ∨
          m.malformed (u.entry m.key) = false ∧ (∃ e r, u.entry m.key = some e ∧ e.has m.seq = some r ∧
            ns = if conflicts r m then [0, 4, 5] else [0, 4]) ∨
          m.malformed (u.entry m.key) = false ∧ (∃ e, u.entry m.key = some e ∧ e.has m.seq = none ∧ e.st ≠ .held ∧ ns = [0, 6]) ∨
          m.malformed (u.entry m.key) = false ∧ u.entry m.key = none ∧
            (∃ o, (u.orphans.find? fun o => o.m.key == m.key && o.m.seq == m.seq) = some o ∧
              ns = if o.m.step = m.step ∧ o.m.val = m.val then [0, 4] else [0, 4, 5]) ∨
          m.malformed (u.entry m.key) = false ∧ u.entry m.key = none ∧
            (u.orphans.any fun o => o.m.key == m.key && o.m.seq == m.seq) = false ∧ 16384 ≤ u.orphans.length ∧ ns = [0, 9]) →
        ∃ t, exec (.rewardArrival ⟨d, none⟩) s = .next t ∧ (t.die d).unit.inbox = rest ∧
          (t.die d).unit.entries.map (·.rewards) = u.entries.map (·.rewards) ∧ (t.die d).unit.orphans.map (·.m) = u.orphans.map (·.m) ∧ s.rjCounted t d ns) ∧
      (∀ e, u.on = true → m.malformed (u.entry m.key) = false → u.entry m.key = some e → e.has m.seq = none → e.st = .held →
        u.stored < 4194304 → ∃ t, exec (.rewardArrival ⟨d, none⟩) s = .next t ∧ (t.die d).unit.inbox = rest ∧ s.rjCounted t d [0, 1] ∧
          ∃ e' ∈ (t.die d).unit.entries, e'.serial = e.serial ∧ e'.rewards = e.rewards ++ [⟨m.seq, m.step.toNat, m.val⟩] ∧
            e'.ngot = e.ngot + 1 ∧ e'.age = 0 ∧ e'.st = if e.ngot + 1 = e.nrew then .queued else .held) ∧
      (u.on = true → m.malformed (u.entry m.key) = false → u.entry m.key = none →
        (u.orphans.any fun o => o.m.key == m.key && o.m.seq == m.seq) = false → u.orphans.length < 16384 →
        ∃ t, exec (.rewardArrival ⟨d, none⟩) s = .next t ∧ (t.die d).unit.inbox = rest ∧ s.rjCounted t d [0, 2] ∧
          (t.die d).unit.orphans.map (·.m) = u.orphans.map (·.m) ++ [m]) ∧
      (∀ e, u.on = true → m.malformed (u.entry m.key) = false → u.entry m.key = some e → e.has m.seq = none → e.st = .held →
        4194304 ≤ u.stored → ∃ t, exec (.rewardArrival ⟨d, none⟩) s = .next t ∧ (t.die d).unit.inbox = rest ∧ s.rjCounted t d [0, 10] ∧
          (t.die d).unit.entries.map (·.rewards) = u.entries.map (·.rewards) ∧
          ∃ e' ∈ (t.die d).unit.entries, e'.serial = e.serial ∧ e'.flags = e.flags ||| 4))) ∧
  (∀ (s : State) (d : Nat), let u := (s.die d).unit
    (u.judge ≠ 1 → exec (.entryTimeout d) s = .next s) ∧
    (u.judge = 1 → ∃ t, exec (.entryTimeout d) s = .next t ∧ (t.die d).unit.judge = 2 ∧
      (t.die d).unit.queued = u.queued ++ (u.entries.filter fun e => e.held && u.etmo ≤ e.age).map (·.serial) ∧
      s.rjCounted t d (List.replicate (u.entries.filter fun e => e.held && u.etmo ≤ e.age).length 11)) ∧
    (u.judge ≠ 2 → exec (.orphanLoss d) s = .next s) ∧
    (u.judge = 2 → ∃ t, exec (.orphanLoss d) s = .next t ∧ (t.die d).unit.judge = 0 ∧ (t.die d).unit.entries = u.entries ∧
      (t.die d).unit.orphans = (u.orphans.filter fun o => o.age < u.otmo) ∧
      s.rjCounted t d (List.replicate (u.orphans.filter fun o => u.otmo ≤ o.age).length 8))) ∧
  (∀ (s : State) (d n : Nat) (rest : List Nat) (e : JEntry), let u := (s.die d).unit
    u.queued = n :: rest → (u.entries.find? fun e => e.serial == n) = some e →
    (u.on = false ∨ u.judge ≠ 0 → exec (.episodeScan d) s = .next s) ∧
    (u.on = true → u.judge = 0 → ∃ t, exec (.episodeScan d) s = .next t ∧ (t.die d).unit.queued = rest ∧
      ((u.stale e = true ∧ u.sflag = false) ∨ s.stepsLost d e = true →
        (t.die d).unit.entries = u.entries.filter (fun o => o.serial != n) ∧ (t.die d).unit.ready = u.ready) ∧
      (¬(u.stale e = true ∧ u.sflag = false) → s.stepsLost d e = true → s.rjCounted t d [15]) ∧
      (u.stale e = true → u.sflag = false → t.rjCounterOf d 12 = (s.rjCounterOf d 12 + 1) % 2 ^ 64) ∧
      (¬(u.stale e = true ∧ u.sflag = false) → s.stepsLost d e = false → (t.die d).unit.ready = u.ready ++ [n]))) ∧
  (∀ (s : State) (d n : Nat) (rest : List Nat) (e : JEntry) (adv : Nat → Nat), let u := (s.die d).unit
    let at' := fun i => (e.stepPa i).1
    let v := fun i => if i < e.len then s.seenN (at' i) 4 else e.vboot.toNat
    let go := fun i => s.seenN (at' i + 4) 4 = 0
    let delta := fun i => rneSub (rneAdd (e.reward i).1 (rneMul (rneMul u.gamma (v (i + 1))) (if go i then 0x3F800000 else 0))) (v i)
    let flags := if u.stale e then e.flags ||| 1 else e.flags
    u.queued = n :: rest → (u.entries.find? fun e => e.serial == n) = some e → u.on = true → u.judge = 0 →
    (u.stale e = false ∨ u.sflag = true) → s.stepsLost d e = false → (∀ i, i < e.len → (e.stepPa i).2 = 0) → e.descHold = 0 →
    (∀ i, i < e.len → (at' i + 32 ≤ e.descPa + 20 ∨ e.descPa + 44 ≤ at' i) ∧
      ∀ j, j < e.len → i ≠ j → at' i + 32 ≤ at' j ∨ at' j + 32 ≤ at' i) →
    adv e.len = 0 → (∀ i, i < e.len → adv i = rneAdd (delta i) (rneMul (if go i then rneMul u.gamma u.lambda else 0) (adv (i + 1)))) →
    ∃ t, exec (.episodeScan d) s = .next t ∧
      (∀ i x w, i < e.len → (leBytes 4 (e.reward i).1 ++ leBytes 4 (e.reward i).2 ++ leBytes 4 (adv i) ++
          leBytes 4 (rneAdd (adv i) (v i)))[x]? = some w → t.byte (at' i + 8 + x) = s.wrote (at' i + 8 + x) w) ∧
      (∀ x w, (leBytes 4 flags.toNat)[x]? = some w → t.byte (e.descPa + 20 + x) = s.wrote (e.descPa + 20 + x) w) ∧
      (∀ x w, (leBytes 4 e.ngot)[x]? = some w → t.byte (e.descPa + 40 + x) = s.wrote (e.descPa + 40 + x) w) ∧
      ∀ b, (∀ i, i < e.len → b < at' i + 8 ∨ at' i + 24 ≤ b) → (b < e.descPa + 20 ∨ e.descPa + 24 ≤ b) →
        (b < e.descPa + 40 ∨ e.descPa + 44 ≤ b) → t.byte b = s.byte b) ∧
  ∀ (s : State) (d : Nat), let u := (s.die d).unit
    (u.queued = [] → exec (.episodeScan d) s = .next s) ∧
    (∀ g r, u.push = some (g, r) → s.recLive r = false → exec (.episodeRelease d) s = .next (s.modUnit d fun u => { u with push := none })) ∧
    (∀ g r, u.push = some (g, r) → s.recLive r = true → (s.pushRec g r 0 = none → exec (.episodeRelease d) s = .next s) ∧
      (∀ v, s.pushRec g r 0 = some v → exec (.episodeRelease d) s = .next (v.modUnit d fun u => { u with push := none }))) ∧
    (u.push = none → u.ready = [] → exec (.episodeRelease d) s = .next s) ∧
    (∀ pre n rest e, u.push = none → u.ready = pre ++ n :: rest → (u.entries.find? fun e => e.serial == n) = some e →
      (∀ m ∈ pre, u.ord = true ∧ ∃ o ∈ u.entries, o.serial < m) →
      (u.on = false ∨ 1024 ≤ u.relq.length ∨ (rest = [] ∧ u.ord = true ∧ ∃ o ∈ u.entries, o.serial < n) →
        exec (.episodeRelease d) s = .next s) ∧
      (u.on = true → u.relq.length < 1024 → (u.ord = true → ∀ o ∈ u.entries, n ≤ o.serial) → ∃ t, exec (.episodeRelease d) s = .next t ∧
        (t.die d).unit.relq = u.relq ++ [e.desc] ∧ (t.die d).unit.ready = u.ready.erase n ∧
        (t.die d).unit.entries = (u.entries.filter fun o => o.serial != n) ∧
        ((t.die d).unit.push = none ∨ (t.die d).unit.push = some (u.grt, u.learner)) ∧
        s.rjCounted t d (if e.flags.getLsbD 0 then [13, 14] else [14])))

/-- Command and status windows (R367, R368, R370, R371, R378): a rejected command word is recorded and told, an accepted one is counted and
queued; a status store sets TRAPEN and clears on request; the oldest command begins, reads its list, writes one granule of its
destination at a time and nothing else, and DONE counts it when none is left. A granule of a relayout holds the source bytes as the command
began and zeros past SRB, one of a pooling command the sums of its elements over the bag in ascending position. The model's choices: which
RCODE stands when a word meets several reasons (log 14), granules in a free order (log 18), free bytes where a destination overlaps what the
command reads (log 36, undefined by R370 and R371), and what a tile reads at a place no party may reach (log 85).
Concludes that exec answers a next state for: relayoutCommand, poolingCommand, stackCommandComplete, statusWindowStore. -/
def Obligations.StackWindows : Prop :=
  (∀ (s : State) (w : WindowStore), s.submitted w = true → let p := s.pearlAt w.pa
    (eaAlias w.ea = 4 → ∀ q ∈ [(Instr.relayoutCommand w, decide (p.kind ≠ 2)), (.poolingCommand w, decide (p.kind = 2))],
      (q.2 = false ∨ p.configuring = true → exec q.1 s = .next s) ∧
      (q.2 = true → p.configuring = false →
        (∀ k, s.windowReject w = some k → ∃ t, exec q.1 s = .next t ∧ (t.pearlAt w.pa).rej = (p.rej + 1) % 65536 ∧
          (t.pearlAt w.pa).rcode = k ∧ (t.pearlAt w.pa).rejea = w.ea ∧ (t.pearlAt w.pa).queue = p.queue ∧
          (t.ctx w.core w.ctx).win = some ⟨w, some (some p.trapen)⟩) ∧
        (s.windowReject w = none → 64 ≤ p.queue.length → exec q.1 s = .next s) ∧
        (s.windowReject w = none → p.queue.length < 64 → ∃ t, exec q.1 s = .next t ∧ (t.pearlAt w.pa).acc = (p.acc + 1) % 65536 ∧
          (t.pearlAt w.pa).queue = p.queue ++ [{ kind := p.kind, core := w.core, ctx := w.ctx, k := w.k,
                                                 block := blockOf w.pa, word := w.data, src := w.pa, run := none }] ∧
          (t.ctx w.core w.ctx).win = some ⟨w, some none⟩))) ∧
    (eaAlias w.ea = 5 → p.configuring = false →
      (∀ k, s.windowReject w = some k → ∃ t, exec (.statusWindowStore w) s = .next t ∧ (t.pearlAt w.pa).rcode = k) ∧
      (s.windowReject w = none → ∃ t, exec (.statusWindowStore w) s = .next t ∧ (t.pearlAt w.pa).trapen = w.data.getLsbD 0 ∧
        (t.pearlAt w.pa).queue = p.queue ∧
        (w.data.getLsbD 1 = true → (t.pearlAt w.pa).acc = 0 ∧ (t.pearlAt w.pa).done = 0 ∧ (t.pearlAt w.pa).rej = 0) ∧
        (w.data.getLsbD 1 = false → (t.pearlAt w.pa).acc = p.acc ∧ (t.pearlAt w.pa).done = p.done ∧ (t.pearlAt w.pa).rej = p.rej)))) ∧
  (∀ (s : State) (b : Nat), let p := s.pearl b
    (p.queue = [] ∨ p.configuring = true → exec (.stackCommandComplete b) s = .next s) ∧
    (∀ m rest, p.queue = m :: rest → p.configuring = false →
      (m.run = none → ∃ t r, exec (.stackCommandComplete b) s = .next t ∧ (t.pearl b).queue = { m with run := some r } :: rest ∧
        (t.pearl b).done = p.done ∧ t.mem = s.mem ∧
        (m.kind = 1 → r.left = List.range (m.n * (p.prl / 64)) ∧ (t.pearl b).nbad = p.nbad ∧
          ∀ o, o < m.n * p.srb → s.tilePlain (m.src + o) 1 → r.src[o]? = some (s.byte (m.src + o))) ∧
        (m.kind ≠ 1 → r.idx.length = m.n ∧
          ∀ i, i < m.n → s.tilePlain (m.src + 4 * i) 4 → r.idx[i]? = some (s.readN (m.src + 4 * i) 4))) ∧
      (∀ r, m.run = some r → r.left = [] →
        exec (.stackCommandComplete b) s = .next (s.setPearl b { p with queue := rest, done := (p.done + 1) % 65536 })) ∧
      (∀ r, m.run = some r → r.left ≠ [] → ∃ t g, exec (.stackCommandComplete b) s = .next t ∧ g ∈ r.left ∧ (t.pearl b).done = p.done ∧
        (t.pearl b).queue = { m with run := some { r with left := r.left.erase g } } :: rest ∧
        (m.kind = 1 → let to' := fun h => m.block + p.rowAt (m.j + h / (p.prl / 64)) + 64 * (h % (p.prl / 64))
          let o := fun j => g / (p.prl / 64) * p.srb + 64 * (g % (p.prl / 64)) + j
          let done := fun a => ∃ h, h < m.n * (p.prl / 64) ∧ h ∉ r.left ∧ to' h ≤ a ∧ a < to' h + 64
          (∀ a, (a < to' g ∨ to' g + 64 ≤ a) → t.byte a = s.byte a) ∧
          (placeOk (to' g) true = true → ∀ j, j < 64 → (to' g + j < m.src ∨ m.src + m.n * p.srb ≤ to' g + j) →
            (p.srb ≤ 64 * (g % (p.prl / 64)) + j → t.byte (to' g + j) = s.wrote (to' g + j) 0) ∧
            (64 * (g % (p.prl / 64)) + j < p.srb → ¬done (m.src + o j) → s.tilePlain (m.src + o j) 1 →
              t.byte (to' g + j) = s.wrote (to' g + j) (s.byte (m.src + o j))) ∧
            ∀ v, 64 * (g % (p.prl / 64)) + j < p.srb → done (m.src + o j) → r.src[o j]? = some v →
              t.byte (to' g + j) = s.wrote (to' g + j) v)) ∧
        (m.kind ≠ 1 → (∀ a, (a < p.outAt m + 64 * g ∨ p.outAt m + 64 * g + 64 ≤ a) → t.byte a = s.byte a) ∧
          ∀ (e : Nat) (acc : Nat → Nat), let w := if p.ety = 9 then 2 else 4
            let elem := fun x => s.readN (m.block + p.rowAt x + e * w) w * if p.ety = 9 then 65536 else 1
            placeOk (p.outAt m + 64 * g) true = true → 16 * g ≤ e → e < 16 * g + 16 → e < p.ne →
            (∀ i, i < 4 * p.ne → p.inTable ((p.outAt m + i) % blockBytes) = false ∧
              (p.outAt m + i < m.src ∨ m.src + 4 * m.n ≤ p.outAt m + i)) →
            (∀ x ∈ r.idx, x < p.nrows → s.tilePlain (m.block + p.rowAt x + e * w) w) →
            acc 0 = 0 → (∀ i x, r.idx[i]? = some x → acc (i + 1) = if x < p.nrows then rneAdd (acc i) (elem x) else acc i) →
            ∀ x v, (leBytes 4 (acc r.idx.length))[x]? = some v →
              t.byte (p.outAt m + 4 * e + x) = s.wrote (p.outAt m + 4 * e + x) v))))

/-- Reductions, the data store and compute rows (R375, R376, R380, R381): a reduction writes its bytes alone; a store to the data store writes
no memory; a refresh takes the next compute row, a forced one is counted.
Concludes that exec answers a next state for: reduceAddF32, reduceAddBf16, reduceMaxF32, pearlDataAccess, computeRowRefresh,
computeRowForcedRefresh. -/
def Obligations.WindowAccesses : Prop :=
  (∀ (s : State) (w : WindowStore) (i : Nat) (a : Access), s.findWindow w = some i → (s.ctx w.core w.ctx).acc[i]? = some a →
    s.accessError w.core a = false → (s.pearlAt w.pa).configuring = false →
    let pa := a.bits.getD 0 0 / 8
    let n := a.ew / 8
    ∀ q ∈ [(Instr.reduceAddF32 w, 1), (.reduceAddBf16 w, 2), (.reduceMaxF32 w, 3), (.pearlDataAccess w, 6)],
      (eaAlias w.ea ≠ q.2 → exec q.1 s = .next s) ∧
      (eaAlias w.ea = q.2 → ∃ t, exec q.1 s = .next t ∧ t = (s.modCtx w.core w.ctx (·.takeAcc i)).performAny w.core w.ctx a ∧
        (∀ v, a.kind = .window q.2 v → q.2 ≠ 6 → s.anyPoison pa n = false → (∀ b, (b < pa ∨ pa + n ≤ b) → t.byte b = s.byte b) ∧
          ((∀ j, j < n → s.blurred (pa + j) = false) → ∀ j, j < n → t.byte (pa + j) = s.wrote (pa + j) (BitVec.ofNat 8 (reduceAll q.2 n (s.readN pa n) v.toNat / 2 ^ (8 * j))))) ∧
        (∀ v, a.kind = .window q.2 v → q.2 = 6 → s.anyPoison pa n = false → (∀ b, t.byte b = s.byte b) ∧
          ∀ j, j < n → (t.pearl (dataPearl pa).1).byte ((dataPearl pa).2 + j) = BitVec.ofNat 8 (v.toNat / 2 ^ (8 * j))))) ∧
  ∀ (s : State) (b : BankId) (r : Nat), let x := s.bankRows (s.bankNo b)
    (b.stack < 8 → b.chan < 192 → b.bank < 16 → ∃ t, exec (.computeRowRefresh b) s = .next t ∧
      (∀ m, Tab.get (fun _ => 0) (t.bankRows (s.bankNo b)).counts m = if m = x.next then 0 else Tab.get (fun _ => 0) x.counts m) ∧
      (t.bankRows (s.bankNo b)).next = (x.next + 1) % 8 ∧ ∀ a, t.byte a = s.byte a) ∧
    (Tab.get (fun _ => 0) x.counts r < 2048 → exec (.computeRowForcedRefresh b r) s = .next s) ∧
    (2048 ≤ Tab.get (fun _ => 0) x.counts r → ∃ t, exec (.computeRowForcedRefresh b r) s = .next t ∧
      Tab.get (fun _ => 0) (t.bankRows (s.bankNo b)).counts r = 0 ∧ t.koyth.forced = s.koyth.forced + 1 ∧ ∀ a, t.byte a = s.byte a)

/-! ## Faults, links, pre-emption, migration (spec/18, spec/19, spec/31) -/

/-- Fault records and storage errors (R284, R285, R294, R296, R424): the oldest record that may be placed is placed in its free slot and
counted, that of a parked context once it has drained (the model's order, log 30); an answer continues,
faults or ends what it was about and frees the slot; an uncorrectable error marks what it met and nothing else; a window that closes is
counted anew; a tile's lasting fault is declared from four errors on, a storage unit's, at a count that firmware may have lowered (the
model's choice, log 54), enters the list with a record of KIND 4; a core so retired loses its tasks with records of KIND 7, its matrix
commands, its regions, read as zeros from then on, and the records pinned to it; a macro's bytes are lost.
Concludes that exec answers a next state for: faultRecordPlacement, faultAnswer, uncorrectableStorageError, errorWindowClose,
lastingFaultDeclaration. -/
def Obligations.FaultRecords : Prop :=
  (∀ (s : State) (d base n : Nat) (pre rest : List FaultRec) (r : FaultRec), (s.die d).waiting = pre ++ r :: rest → s.ring d = some (base, n) →
    let a := base + 64 * ((s.die d).pushed % n)
    let held := fun r : FaultRec => r.kind = 1 ∧ s.parkedAt r = true ∧ (s.core r.core).drained r.ctx = false
    (∀ q ∈ pre, held q) →
    ((s.readWord a).getLsbD 63 = true ∨ (rest = [] ∧ held r) → exec (.faultRecordPlacement d) s = .next s) ∧
    ((s.readWord a).getLsbD 63 = false → ¬held r → ∃ t, exec (.faultRecordPlacement d) s = .next t ∧ (t.die d).waiting = pre ++ rest ∧
      (t.die d).pushed = ((s.die d).pushed + 1) % 2 ^ 64 ∧ (t.die d).placed = (s.die d).placed ++ [(a, r)] ∧
      (a + 64 ≤ s.portBlock d + 16 ∨ s.portBlock d + 24 ≤ a → t.bytes a 64 = leBytes 8 (2 ^ 63 + r.hdr) ++ leBytes 8 r.ea.toNat ++
        leBytes 8 r.pc.toNat ++ leBytes 8 r.idx.toNat ++ List.replicate 32 0))) ∧
  (∀ (s : State) (d n a : Nat) (r : FaultRec), (s.die d).placed[n]? = some (a, r) → let w := s.readWord (a + 32)
    let x := s.ctx r.core r.ctx
    let code := (w.extractLsb' 0 2).toNat
    (w.getLsbD 63 = false → exec (.faultAnswer d n) s = .next s) ∧
    (w.getLsbD 63 = true → r.kind = 1 → s.parkedAt r = true →
      (code = 1 ∨ (x.pulsed = true ∧ code ≠ 2) → exec (.faultAnswer d n) s = .next ((s.modCtx r.core r.ctx fun x => { x with run := .ready }).answered d n a r)) ∧
      (code = 2 → exec (.faultAnswer d n) s = .next ((s.raise r.core r.ctx 0x0E r.ea (s.missPc r.core r.ctx r.ea)).answered d n a r)) ∧
      (code ≠ 1 → code ≠ 2 → x.pulsed = false → exec (.faultAnswer d n) s = .next ((s.discard r.core r.ctx).answered d n a r))) ∧
    (w.getLsbD 63 = true → r.kind = 2 → exec (.faultAnswer d n) s = .next ((s.answerCmd r code).answered d n a r)) ∧
    (w.getLsbD 63 = true → r.kind ≠ 1 → r.kind ≠ 2 → exec (.faultAnswer d n) s = .next (s.answered d n a r))) ∧
  (∀ (s : State) (c k n w g l : Nat),
    (n < 1024 → w < 96 → ∃ t, exec (.uncorrectableStorageError (.accRow c n w)) s = .next t ∧ sidePoison ((t.core c).side n) = true ∧
      (∀ m, m ≠ accGran n + w / 8 → (t.core c).gran m = (s.core c).gran m) ∧ ∀ b, t.byte b = s.byte b) ∧
    (g < 4096 → ∃ t, exec (.uncorrectableStorageError (.window c g)) s = .next t ∧ (t.core c).bad.contains g = true ∧
      (∀ m, m ≠ g → (t.core c).gran m = (s.core c).gran m ∧ (t.core c).tag m = (s.core c).tag m) ∧ ∀ b, t.byte b = s.byte b) ∧
    (∃ t, exec (.uncorrectableStorageError (.memLine l)) s = .next t ∧ t.poison.contains l = true ∧ ∀ b, t.byte b = s.byte b) ∧
    ((s.ctx c k).task = none → exec (.uncorrectableStorageError (.register c k)) s = .next s) ∧
    ((s.ctx c k).task ≠ none → ∃ t, exec (.uncorrectableStorageError (.register c k)) s = .next t ∧
      (s.settled c k = true → (t.ctx c k).task = none) ∧ (s.settled c k = false → (t.ctx c k).run = .ending) ∧
      ∃ r, (t.die (dieOf c)).waiting = (s.die (dieOf c)).waiting ++ [r] ∧ r.kind = 7 ∧ r.ref = (s.ctx c k).tid) ∧
    (∃ t, exec (.uncorrectableStorageError (.parity c l)) s = .next t ∧ (∀ p ∈ (t.core c).icache, p.1.2 / 64 ≠ l) ∧
      Tab.get (fun _ => 0) (t.core c).errs 2 = Tab.get (fun _ => 0) (s.core c).errs 2 + 1 ∧ ∀ b, t.byte b = s.byte b) ∧
    (∀ u, ∃ t, exec (.uncorrectableStorageError (.corrected u)) s = .next t ∧ t.koyth.corrected = (s.koyth.corrected + 1) % 2 ^ 64 ∧
      t.poison = s.poison ∧ ∀ b, t.byte b = s.byte b) ∧
    (∃ t, exec (.uncorrectableStorageError (.calibration c k)) s = .next t ∧ ((t.core c).tile k).calv = false ∧
      ((t.core c).tile k).xerr = 6 ∧ ((t.core c).tile k).winErr = ((s.core c).tile k).winErr + 1)) ∧
  ∀ (s : State) (c n : Nat),
    (∀ p ∈ [(UnitCode.accStore c, 0), (.windows c, 1), (.icache c, 2), (.scratchMacro c n, 3 + n)],
      ∃ t, exec (.errorWindowClose p.1) s = .next t ∧ Tab.get (fun _ => 0) (t.core c).errs p.2 = 0 ∧
        ∀ m, m ≠ p.2 → Tab.get (fun _ => 0) (t.core c).errs m = Tab.get (fun _ => 0) (s.core c).errs m) ∧
    (2 ^ 20 ≤ ((s.core c).tile n).winAcc → ∃ t, exec (.errorWindowClose (.tile c n)) s = .next t ∧
      ((t.core c).tile n).winAcc = 0 ∧ ((t.core c).tile n).winErr = 0) ∧
    (((s.core c).tile n).winErr < 4 → exec (.lastingFaultDeclaration (.tile c n)) s = .next s) ∧
    (4 ≤ ((s.core c).tile n).winErr → ((s.core c).tile n).lf = false → exec (.lastingFaultDeclaration (.tile c n)) s =
      .next ((s.declare c (unitCode (.tile c n))).retireUnit (.tile c n))) ∧
    (Tab.get (fun _ => 0) (s.core c).errs (3 + n) = 0 → exec (.lastingFaultDeclaration (.scratchMacro c n)) s = .next s) ∧
    (s.koyth.retired.contains (unitCode (.scratchMacro c n)) = false → Tab.get (fun _ => 0) (s.core c).errs (3 + n) ≠ 0 → ∃ t, exec (.lastingFaultDeclaration (.scratchMacro c n)) s = .next t ∧
      t.koyth.retired = s.koyth.retired ++ [unitCode (.scratchMacro c n)] ∧ ∃ r, (t.die (dieOf c)).waiting = (s.die (dieOf c)).waiting ++ [r] ∧
        r.kind = 4 ∧ r.pc = BitVec.ofNat 64 (unitCode (.scratchMacro c n)) ∧ t.macroRetired c n 1 = true ∧
        (c < 2048 → n < 64 → ∀ o, o < 65536 → t.retiredByte (t.sliceBase c + 65536 * n + o) = true)) ∧
    (∀ p ∈ [(UnitCode.accStore c, 0), (.windows c, 1), (.icache c, 2)], s.koyth.retired.contains (unitCode p.1) = false →
      Tab.get (fun _ => 0) (s.core c).errs p.2 ≠ 0 → ∃ t, exec (.lastingFaultDeclaration p.1) s = .next t ∧
        t.koyth.retired = s.koyth.retired ++ [unitCode p.1] ∧ (t.core c).retired = true ∧ (t.core c).regions = [] ∧
        (∀ m ∈ (t.core c).cmds, m.engine ≠ .matrix) ∧
        (∃ r ∈ (t.die (dieOf c)).waiting, r.kind = 4 ∧ r.pc = BitVec.ofNat 64 (unitCode p.1)) ∧
        (∀ k, k < 4 → (s.ctx c k).task ≠ none → (t.ctx c k).task = none ∨ (t.ctx c k).run = .ending) ∧
        (∀ k q, k < 4 → (s.ctx c k).task = some q → q.step = none → (s.ctx c k).run ≠ .ending → (s.ctx c k).run ≠ .finished →
          ∃ r ∈ (t.die (dieOf c)).waiting, r.kind = 7 ∧ r.ref = q.tid) ∧
        (∀ g l, l < 4 → ∀ r ∈ (t.grotto g).queue l, ¬(r.pin = true ∧ r.coreNo = c)) ∧
        (∀ g, ∀ w ∈ (t.grotto g).waits, w.core ≠ c) ∧
        (∀ r ∈ (s.core c).regions, ∀ o, o < 65536 * r.nm → t.byte (s.sliceBase c + 65536 * r.m0 + o) = 0) ∧
        ∀ b, (∀ r ∈ (s.core c).regions, b < s.sliceBase c + 65536 * r.m0 ∨ s.sliceBase c + 65536 * (r.m0 + r.nm) ≤ b) → t.byte b = s.byte b)

/-- Ring and Umaot errors (R412, R416, R417): a failed flit goes out again; after 16 failures a boundary is down; resends are counted, after
four, or with no route left, a module is unreachable until its route is restored; a link goes down once. Traffic keeps clear of a boundary
that is down where one direction allows it (with both closed the model's choice is log 85). What is in flight across a boundary that fails, or
to a module that is lost, is dead: a load takes trap 0x0B, a store is discarded, recorded and counted, with those behind it in its class and
the releases behind it; a command ends with status 3 or 9; a recorded discard is told by the next release, fence, DONE or access to its
module.
Concludes that exec answers a next state for: ringFlitRetransmit, ringBoundaryFault, umaotFlitRetransmit, umaotRequestResend,
destinationUnreachable, routeRestore, umaotLinkDown. -/
def Obligations.Links : Prop :=
  (∀ (s : State) (b : Nat), (b < 9 → ∃ t, exec (.ringFlitRetransmit b) s = .next t ∧
      (Tab.get (fun _ => 0) t.koyth.retry b = 0 ∨ Tab.get (fun _ => 0) t.koyth.retry b = Tab.get (fun _ => 0) s.koyth.retry b + 1) ∧
      ∀ n, n ≠ b → Tab.get (fun _ => 0) t.koyth.retry n = Tab.get (fun _ => 0) s.koyth.retry n) ∧
    (s.koyth.ringDown.contains b = true ∨ Tab.get (fun _ => 0) s.koyth.retry b < 16 → exec (.ringBoundaryFault b) s = .next s) ∧
    (s.koyth.ringDown.contains b = false → 16 ≤ Tab.get (fun _ => 0) s.koyth.retry b → ∃ t, exec (.ringBoundaryFault b) s = .next t ∧
      t.koyth.ringDown = b :: s.koyth.ringDown ∧ t.koyth.retired.contains (0x60000 + b) = true ∧ (∀ a, t.byte a = s.byte a) ∧
      (∀ (c k i : Nat) (a : Access), k < 4 → (s.ctx c k).acc[i]? = some a →
        (t.ctx c k).acc[i]? = some { a with dead := a.dead || (a.places (dieOf c)).any fun v => s.crosses b (dieOf c) v }) ∧
      (∀ c, (t.core c).cmds = (s.core c).cmds.map fun m => if s.cmdCrosses b c m = true ∧ m.fail = none then
        { m with fail := some 3, prog := if s.srcCrosses b m then 1 else m.prog } else m) ∧
      ∀ c k q, k < 4 → (s.ctx c k).win = some q → q.ans = none → s.crosses b (dieOf c) q.w.pa = true →
        (t.ctx c k).win = some { q with ans := some none } ∧ (t.ctx c k).discard = (s.ctx c k).discard.or (some (q.w.ea, s.koyth.modId)))) ∧
  (∀ (down : List Nat) (x y z : Nat), x < 9 → y < 9 → z ∈ ringPath down x y → z ∈ down → ∃ u v, u ∈ down ∧ v ∈ down ∧
    u ∈ boundsUp x ((y + 9 - x) % 9) ∧ v ∈ boundsUp y ((9 - (y + 9 - x) % 9) % 9)) ∧
  (∀ (s : State) (l m : Nat), let u := s.cutOff l m
    (∀ (c k i : Nat) (a : Access), k < 4 → (s.ctx c k).acc[i]? = some a →
      (u.ctx c k).acc[i]? = some { a with dead := a.dead || a.far m s.koyth.modId }) ∧
    (∀ c k q, k < 4 → (s.ctx c k).win = some q → q.ans = none → modOf q.w.pa = m →
      (u.ctx c k).win = some { q with ans := some none } ∧ (u.ctx c k).discard = (s.ctx c k).discard.or (some (q.w.ea, m))) ∧
    (∀ c, (u.core c).cmds = (s.core c).cmds) ∧
    (l < 36 → m ≠ s.koyth.modId → s.inDomain m = true → s.koyth.unreachable.contains m = false →
      (4 ≤ Tab.get (fun _ => 0) s.koyth.resent m ∨ s.koyth.noRoute = true) →
      (∀ pre post c x cm f, s.cores = pre ++ (c, x) :: post → (s.cores.Pairwise fun p q => p.1 < q.1) → x.cmds = [cm] →
        (∀ p ∈ pre ++ post, p.2.cmds = []) → Instr.ef cm.ins = some f → cm.st.running? = true → cm.fail = none →
        let far := ((u.cmdTouch c cm f).any fun r => (pagesIn r.1 (max r.2.1 1)).any fun va =>
            match u.reach cm.space va r.2.2 with | .ok pa _ _ => modOf pa == m | _ => false) = true ∨
          (cm.engine = .coll ∧ ∃ w ∈ (u.group c cm).members, w / 2 ^ 11 = m)
        (¬far → exec (.destinationUnreachable l m) s = .next u) ∧
        (far → cm.engine ≠ .copy → cm.engine ≠ .gather → ∃ t, exec (.destinationUnreachable l m) s = .next t ∧
          (t.core c).cmds = [{ cm with fail := some 9, prog := 0 }]) ∧
        (far → cm.engine = .copy ∨ cm.engine = .gather → (u.runMove c cm f).st = 9 → let r := u.runMove c cm f
          exec (.destinationUnreachable l m) s = .next (r.s.modCore c fun x => x.modCmd cm.id fun m =>
            { m with fail := some 9, prog := r.cnt, poison := r.poison }))))) ∧
  (∀ (s : State) (c k i : Nat) (a : Access), (s.ctx c k).acc[i]? = some a → a.dead = true → s.mayPerform c k i = true →
    let x := s.ctx c k
    let u := s.modCtx c k (·.takeAcc i)
    (a.kind.isLoad = true → x.answered = false → (∀ n w p, x.run ≠ .trapping n w p) → x.delay = none → (u.core c).drained k = true →
      exec (.loadErrorReturn c k i) s = .next (u.enterTrap c k 0x0B
        ((a.ea &&& 0x00FFFFFFFFFFFFFF) ||| (BitVec.ofNat 64 (a.later % 256) <<< 56)) a.pc)) ∧
    (a.kind.isStore = true → ∀ ea md, x.discard.or (some (a.ea, a.modl)) = some (ea, md) → ∃ t, exec (.storePerform c k i) s = .next t ∧
      (t.ctx c k).discard = some (ea, md) ∧ (∀ n, (t.ctx c k).rd n = x.rd n) ∧
      (∀ j b, i < j → x.acc[j]? = some b → b.kind.isLoad = false → b.kind.isFence = false → (b.rl = true ∨ b.k = a.k) →
        ∃ b' ∈ (t.ctx c k).acc, b' = { b with dead := true }) ∧
      (md = s.koyth.modId → ∀ y, t.byte y = s.byte y) ∧
      (md ≠ s.koyth.modId → let l := Tab.get (fun _ => 0) s.koyth.deadLink md
        t.linkAt l 6 = (s.linkAt l 6 + 1) % 2 ^ 64 ∧
        ∀ y, (y < s.pub (0x22030 + 64 * l) ∨ s.pub (0x22030 + 64 * l) + 8 ≤ y) → t.byte y = s.byte y))) ∧
  (∀ (s : State) (ea : Word) (md : Nat), s.me.discard = some (ea, md) → let u := s.modMe fun x => { x with discard := none }
    (∀ f : MF, s.goes 0 f.gd [] = true → ∀ i ∈ [Instr.fence f, .fenceh f], exec i s = .next (u.trapped 0x0B ea)) ∧
    (∀ f : RF, s.goes 0 f.gd [] = true → s.myCore.landed s.curCtx = true → s.me.acc = [] → exec (.done f) s = .next (u.trapped 0x0B ea)) ∧
    (∀ (f : MF) (pa : Nat) (at' : Attr), s.goes 0 f.gd [f.a.toNat, f.b.toNat] = true → s.me.loadRoom = true → eaAlias (s.eaIndexed f) = 0 →
      u.accessPass .load (s.eaIndexed f) (2 ^ f.sz.toNat) f.sc.toNat false pa at' = true →
      ∀ p ∈ [(Instr.ld f, false), (.lds f, true)],
        (md = modOf pa → exec p.1 s = .next (u.trapped 0x0B ea)) ∧
        (md ≠ modOf pa → exec p.1 s = .next ((s.push
          (s.scalarAccess f (.load f.d.toNat p.2) (s.eaIndexed f) [8 * pa] at' pa)).stepped 1))) ∧
    (∀ (f : MF) (pa : Nat) (at' : Attr), s.goes 0 f.gd [f.a.toNat, f.b.toNat, f.d.toNat] = true → s.me.answered = false →
      eaAlias (s.eaIndexed f) = 0 → u.accessPass .store (s.eaIndexed f) (2 ^ f.sz.toNat) f.sc.toNat f.rl pa at' = true →
      (md = modOf pa ∨ f.rl = true → exec (.st f) s = .next (u.trapped 0x0B ea)) ∧
      (md ≠ modOf pa → f.rl = false → s.me.storeRoom = true → exec (.st f) s = .next ((s.push
        { s.scalarAccess f (.store (s.getS f.d)) (s.eaIndexed f) [8 * pa] at' pa with
          due := if s.ownSlice s.curCore pa then some (s.now + 6) else none }).stepped 1)))) ∧
  (∀ (s : State) (l : Nat), l < 36 → ∃ t, exec (.umaotFlitRetransmit l) s = .next t ∧
    ((t.linkAt l 1 = (s.linkAt l 1 + 1) % 2 ^ 64 ∧ t.linkAt l 2 = s.linkAt l 2) ∨
     (t.linkAt l 2 = (s.linkAt l 2 + 1) % 2 ^ 64 ∧ t.linkAt l 1 = s.linkAt l 1))) ∧
  (∀ (s : State) (l m : Nat), l < 36 → m ≠ s.koyth.modId → s.inDomain m = true → s.koyth.unreachable.contains m = false →
    (∃ t, exec (.umaotRequestResend l m) s = .next t ∧ t.linkAt l 3 = (s.linkAt l 3 + 1) % 2 ^ 64 ∧
      Tab.get (fun _ => 0) t.koyth.resent m = Tab.get (fun _ => 0) s.koyth.resent m + 1) ∧
    (Tab.get (fun _ => 0) s.koyth.resent m < 4 → s.koyth.noRoute = false → exec (.destinationUnreachable l m) s = .next s) ∧
    (4 ≤ Tab.get (fun _ => 0) s.koyth.resent m ∨ s.koyth.noRoute = true → ∃ t, exec (.destinationUnreachable l m) s = .next t ∧
      t.koyth.unreachable = m :: s.koyth.unreachable ∧ t.linkAt l 5 = (s.linkAt l 5 + 1) % 2 ^ 64)) ∧
  (∀ (s : State) (m : Nat), ∃ t, exec (.routeRestore m) s = .next t ∧ t.koyth.unreachable.contains m = false ∧
    Tab.get (fun _ => 0) t.koyth.resent m = 0 ∧ ∀ n, n ≠ m → t.koyth.unreachable.contains n = s.koyth.unreachable.contains n) ∧
  ∀ (s : State) (l : Nat), (s.koyth.linkDown.contains l = true → exec (.umaotLinkDown l) s = .next s) ∧
    (l < 36 → s.koyth.linkDown.contains l = false → ∃ t, exec (.umaotLinkDown l) s = .next t ∧ t.koyth.linkDown = l :: s.koyth.linkDown ∧
      t.linkAt l 4 = (s.linkAt l 4 + 1) % 2 ^ 64 ∧ t.koyth.retired.contains (0x70000 + l) = true)

/-- Pre-emption, restore, admission, migration, translation answers and the clock (R148, R218, R287-R289, R292, R304, R308, R309): a request
outside its limits is answered with its status; members stop, and a stopped gang that is not yet quiet waits; a saved gang goes to the head
of those pending; the oldest pending gang starts in the first grotto that holds it; a checked migration sets its leaf in transit; at the end
of a cycle clock and generator step once. The model's choices: what a save area's bytes hold and that a restore takes the latest save at its
address (log 28), how the size of a migrated page is found (log 40), which translations and accesses count as the page's (log 65).
Concludes that exec answers a next state for: preemptRequest, restoreRequest, migrationRequest, gangAdmission, translationQueryAnswer,
coreClockCycle. -/
def Obligations.Moves : Prop :=
  (∀ (s : State) (d : Nat), let w := s.rhdr d
    let c := (w.extractLsb' 16 11).toNat
    let k := (w.extractLsb' 0 2).toNat
    (w.getLsbD 63 = false → exec (.preemptRequest d) s = .next s ∧ exec (.restoreRequest d) s = .next s) ∧
    (w.getLsbD 63 = true → rhdrOp w = 1 → (rhdrPlain w = false ∨ dieOf c ≠ d → exec (.preemptRequest d) s = .next (s.answerRhdr d 8)) ∧
      (rhdrPlain w = true → dieOf c = d →
        ((s.ctx c k).task = none → exec (.preemptRequest d) s = .next (s.answerRhdr d 1)) ∧
        ∀ t, (s.ctx c k).task = some t →
          (t.handler = true → exec (.preemptRequest d) s = .next (s.answerRhdr d 2)) ∧
          (t.handler = false → t.step.isSome = true →
            ((s.ctx c k).pulsed = true → exec (.preemptRequest d) s =
              .next ((s.modCtx c k fun x => { x with preempt := false }).answerRhdr d 4)) ∧
            ((s.ctx c k).pulsed = false → let ready := s.settled c k = true ∧ (s.ctx c k).level = 0 ∧ (s.ctx c k).delay = none
              (ready → exec (.preemptRequest d) s = .next ((s.discard c k).answerRhdr d 3)) ∧
              (¬ready → exec (.preemptRequest d) s = .next (s.modCtx c k fun x => { x with preempt := true })))) ∧
          (t.handler = false → t.step = none → s.saveTransit (s.ctx c k).space (s.savePtr d) 64 = true →
            exec (.preemptRequest d) s = .next s) ∧
          (t.handler = false → t.step = none → s.saveTransit (s.ctx c k).space (s.savePtr d) 64 = false →
            s.saveOk (s.ctx c k).space (s.savePtr d) 64 = false →
            exec (.preemptRequest d) s = .next ((s.releaseMembers (s.members c k)).answerRhdr d 7)) ∧
          (t.handler = false → t.step = none → s.saveOk (s.ctx c k).space (s.savePtr d) 64 = true →
            ((s.members c k).all fun p => (s.ctx p.1 p.2).preempt && s.quiet p.1 p.2) = false →
            exec (.preemptRequest d) s = .next (s.stopMembers (s.members c k))) ∧
          (t.handler = false → t.step = none → s.saveOk (s.ctx c k).space (s.savePtr d) 64 = true →
            ((s.members c k).all fun p => (s.ctx p.1 p.2).preempt && s.quiet p.1 p.2) = true →
            (∃ p ∈ s.members c k, ∃ m ∈ s.cmdsOf p.1 p.2, ∃ t, m.st = .armed t) →
            exec (.preemptRequest d) s = .next ((s.releaseMembers (s.members c k)).answerRhdr d 5)) ∧
          (t.handler = false → t.step = none → s.saveOk (s.ctx c k).space (s.savePtr d) 64 = true →
            ((s.members c k).all fun p => (s.ctx p.1 p.2).preempt && s.quiet p.1 p.2 && (s.cmdsOf p.1 p.2).isEmpty) = true →
            exec (.preemptRequest d) s = .next (s.saveGang d c k (s.members c k))))) ∧
    (w.getLsbD 63 = true → rhdrOp w = 2 → s.pending.any (pendingDie d) = false → rhdrPlain w = true → eaAligned (s.savePtr d) = true →
      let find := s.saved.find? fun g => g.save == (s.savePtr d).toNat
      (find = none → exec (.restoreRequest d) s = .next (s.answerRhdr d 8)) ∧
      ∀ g, find = some g →
        (s.saveTransit g.space (s.savePtr d) (max 64 g.size) = true → exec (.restoreRequest d) s = .next s) ∧
        (s.saveTransit g.space (s.savePtr d) (max 64 g.size) = false → s.saveOk g.space (s.savePtr d) (max 64 g.size) = false →
          exec (.restoreRequest d) s = .next (s.answerRhdr d 7)) ∧
        (s.saveOk g.space (s.savePtr d) (max 64 g.size) = true → exec (.restoreRequest d) s =
          .next { s with pending := .saved d g :: s.pending })) ∧
    ∀ st, (s.answerRhdr d st).rhdr d = (w &&& 0x0000FF0007FF0003) ||| BitVec.ofNat 64 (2 ^ 62 + st * 2 ^ 48)) ∧
  (∀ s : State, (s.pending = [] → exec .gangAdmission s = .next s) ∧
    ∀ p rest, s.pending = p :: rest → ((List.range 64).findSome? (s.placesFor p) = none → exec .gangAdmission s = .next s) ∧
      ∀ l, (List.range 64).findSome? (s.placesFor p) = some l →
        (∀ space lid ms qp tag pipes, p = .fresh space lid ms qp tag pipes → ∃ t, exec .gangAdmission s = .next t ∧ t.pending = rest ∧
          t.nextGang = s.nextGang + 1 ∧ t.gangs = s.gangs ++ [⟨s.nextGang, space, lid, ms.length, ms.length, [], l⟩] ∧
          t.io.replies = s.io.replies ++ [(qp, reply 1 0 tag.toNat 0 space pipes.toNat)]) ∧
        (∀ d v, p = .saved d v → ∃ t, exec .gangAdmission s = .next t ∧ t.pending = rest)) ∧
  (∀ s : State, let ptea := (s.readWord s.migBlock).toNat
    let new := (s.readWord (s.migBlock + 8)).toNat
    let e := s.readWord ptea
    ((s.readWord (s.migBlock + 16)).getLsbD 63 = false → exec .migrationRequest s = .next s) ∧
    ((s.readWord (s.migBlock + 16)).getLsbD 63 = true → s.transit = none →
      (s.leafOk ptea = false → exec .migrationRequest s = .next (s.answerMig 2)) ∧
      (s.leafOk ptea = true → e.extractLsb' 3 2 ≠ 0 ∨ e.getLsbD 6 = true → exec .migrationRequest s = .next (s.answerMig 1)) ∧
      (s.leafOk ptea = true → e.extractLsb' 3 2 = 0 → e.getLsbD 6 = false →
        (s.newpaOk (ptAddr e) new (s.leafBytes ptea) = false → exec .migrationRequest s = .next (s.answerMig 3)) ∧
        (s.newpaOk (ptAddr e) new (s.leafBytes ptea) = true → ∃ t, exec .migrationRequest s = .next t ∧ t.transit = some ptea ∧
          ∀ b, t.byte b = s.byte b))) ∧
    (∀ a, (s.readWord (s.migBlock + 16)).getLsbD 63 = true → s.transit = some a →
      (s.pageBusy (ptAddr (s.readWord a)) (s.leafBytes a) = true → exec .migrationRequest s = .next s) ∧
      (s.pageBusy (ptAddr (s.readWord a)) (s.leafBytes a) = false → ∃ t, exec .migrationRequest s = .next t ∧ t = s.migRun a new ∧
        t.transit = none))) ∧
  (∀ (s : State) (c k : Nat) (q : Query), (s.ctx c k).query = some q → let va := eaVa q.va
    let space := (s.ctx c k).space
    let h := homeSlice space va
    let joined := (s.core h).asked.filter fun a => (s.askOf a.1 a.2).any fun p => p.1 == space && p.2 / 2 ^ 21 == va / 2 ^ 21
    let t := s.answerQuery c k
    (q.ans.isSome = true → exec (.translationQueryAnswer c k) s = .next s) ∧
    (q.ans = none → let there := (s.core h).asked.contains (c, k)
      (there = false → exec (.translationQueryAnswer c k) s = .next s) ∧
      (there = true → s.sliceHit (space, va) = true → exec (.translationQueryAnswer c k) s = .next t) ∧
      (there = true → s.sliceHit (space, va) = false →
        ((s.walks h).contains (space, va / 2 ^ 21) = false → exec (.translationQueryAnswer c k) s = .next s) ∧
        ((s.walks h).contains (space, va / 2 ^ 21) = true → exec (.translationQueryAnswer c k) s =
          .next (joined.foldl (fun s a => s.answerQuery a.1 a.2) s)))) ∧
    (s.walks h).length ≤ 32 ∧
    (s.homeAnswer space va = .transit → t = s) ∧
    (s.homeAnswer space va = .miss → (t.ctx c k).query = some { q with ans := some true }) ∧
    (s.homeAnswer space va = .malformed → (t.ctx c k).query = some { q with ans := some false }) ∧
    (∀ e, s.homeAnswer space va = .hit e → (t.ctx c k).query = none ∧ e ∈ (t.core c).tlb ∧ (t.core c).tlb.length ≤ 64 ∧
      e ∈ (t.core h).l2tlb)) ∧
  ∀ (s : State) (c : Nat), ∃ t, exec (.coreClockCycle c) s = .next t ∧ (t.core c).clock = (s.core c).clock + 1 ∧
    (t.core c).rng = rngStep (s.core c).rng ∧ (∀ d, d ≠ c → t.core d = s.core d) ∧ (∀ b, t.byte b = s.byte b) ∧
    ∀ k n, (t.ctx c k).rd n = (s.ctx c k).rd n

/-! ## The host port and the controller (spec/30, spec/32) -/

/-- The host port (R402-R404, R406-R408): a pair connects; RDMA stores and returns the bytes a host may reach and answers others with an
error, a remote access error where the host may not reach and a Remote Operational Error where a line is poisoned; a write may move a queue's
ring, and a ring given up so holds undefined bytes (R211); a mailbox, retire or open request that may be taken up is answered 0x0E before STATE
1, 0x01 where it breaks its limits, else it has its effect and its reply; a close replies once nothing is in flight, a transport error closes.
The model's choices: what a close of a connection that is not open, or is closing, is answered (log 58); a refused access leaves the queue pair
usable, and a connect clears its error (log 59).
Concludes that exec answers a next state for: mailboxWrite, mailboxRead, retireLaunch, openStorageConnection, closeStorageConnection,
hostRdmaWrite, hostRdmaRead, nvmeTransportError, hostQueuePairConnect. -/
def Obligations.HostServices : Prop :=
  (∀ (s : State) (qp pa n : Nat) (data : List Byte),
    (s.io.started = true → s.io.qps.contains qp = false → s.io.qps.length < 16 → ∃ t, exec (.hostQueuePairConnect qp) s = .next t ∧
      t.io.qps = s.io.qps ++ [qp]) ∧
    (s.io.started = true → s.io.qps.contains qp = true → ∃ t, exec (.hostQueuePairConnect qp) s = .next t ∧ t.io.qps = s.io.qps ∧
      t.io.qpErr.contains qp = false) ∧
    (s.hears qp = false → exec (.hostRdmaWrite qp pa data) s = .next s ∧ exec (.hostRdmaRead qp pa n) s = .next s) ∧
    (s.hears qp = true →
      (s.hostOk pa data.length true = true → ∃ t, exec (.hostRdmaWrite qp pa data) s = .next t ∧
        (∀ i v, data[i]? = some v → (s.roByte (pa + i) = 0 ∨ s.blurred (pa + i) = false) → t.byte (pa + i) = s.wrote (pa + i) v) ∧
        t.rings = (s.storeD (some ioParty) pa 0 data none).queueRings ∧
        ∀ b, (b < pa ∨ pa + data.length ≤ b) → (∀ r ∈ s.rings, r ∉ t.rings → b < r.1 ∨ r.1 + r.2 ≤ b) → t.byte b = s.byte b) ∧
      (s.hostOk pa data.length true = false → ∃ t, exec (.hostRdmaWrite qp pa data) s = .next t ∧ t.mem = s.mem ∧
        t.io.reads = s.io.reads ++ [(qp, .accessError)]) ∧
      (s.hostOk pa n false = false → ∃ t, exec (.hostRdmaRead qp pa n) s = .next t ∧ t.io.reads = s.io.reads ++ [(qp, .accessError)]) ∧
      (s.hostOk pa n false = true → 0 < n → s.anyPoison pa n = true → ∃ t, exec (.hostRdmaRead qp pa n) s = .next t ∧
        t.io.reads = s.io.reads ++ [(qp, .operationalError)] ∧ t.hears qp = false) ∧
      (s.hostOk pa n false = true → s.anyPoison pa n = false → ∃ t, exec (.hostRdmaRead qp pa n) s = .next t ∧
        t.io.reads = s.io.reads ++ [(qp, .data (s.seen pa n))] ∧ t.mem = s.mem))) ∧
  (∀ (s : State) (q : HostReq),
    ∀ p ∈ [(Instr.mailboxWrite q, 2, zeros q.msg 2 2 && decide (fld q.msg 12 4 < 16) && zeros q.msg 24 232),
        (.mailboxRead q, 3, zeros q.msg 2 2 && decide (fld q.msg 12 4 < 16) && zeros q.msg 16 240),
        (.retireLaunch q, 4, zeros q.msg 2 2 && zeros q.msg 12 244), (.openStorageConnection q, 5, openOk q.msg)],
      (s.takes q p.2.1 = false → exec p.1 s = .next s) ∧
      (s.takes q p.2.1 = true → s.koyth.state ≠ 1 → exec p.1 s = .next (s.status q 0x0E)) ∧
      (s.takes q p.2.1 = true → s.koyth.state = 1 → p.2.2 = false → exec p.1 s = .next (s.status q 1)) ∧
      (s.takes q p.2.1 = true → s.koyth.state = 1 → p.2.2 = true →
        (p.2.1 ≠ 5 → s.launchOf (fld q.msg 8 4) = none → exec p.1 s = .next (s.status q 9)) ∧
        (∀ l, s.launchOf (fld q.msg 8 4) = some l →
          (p.2.1 = 2 → ∃ t, exec p.1 s = .next t ∧ t.mailbox l.space (fld q.msg 12 4) = wordAt q.msg 16 ∧
            t.io.replies = s.io.replies ++ [(q.qp, reply 2 0 (fld q.msg 4 4) 0 0xFFFFFFFF 0)]) ∧
          (p.2.1 = 3 → exec p.1 s = .next (s.answer q 0 0 0xFFFFFFFF (s.mailbox l.space (fld q.msg 12 4)).toNat)) ∧
          (p.2.1 = 4 → s.launchBusy l.space = true → exec p.1 s = .next (s.status q 0x0A)) ∧
          (p.2.1 = 4 → s.launchBusy l.space = false → ∃ t, exec p.1 s = .next t ∧ t.launchOf l.space = none ∧
            ∀ c e, e ∈ (t.core c).tlb → e.space ≠ l.space)) ∧
        (p.2.1 = 5 → (s.conn (fld q.msg 8 2)).isSome = true → exec p.1 s = .next (s.status q 0x0A)) ∧
        (p.2.1 = 5 → s.conn (fld q.msg 8 2) = none → ∃ t, exec p.1 s = .next t ∧
          (t.conn (fld q.msg 8 2) = none ∨ t.conn (fld q.msg 8 2) = some ⟨fld q.msg 10 1, fld q.msg 12 2, none⟩)))) ∧
  (∀ (s : State) (q : HostReq), let n := fld q.msg 8 2
    s.takes q 6 = true → s.koyth.state = 1 → zeros q.msg 2 2 = true → n < 256 → zeros q.msg 10 246 = true →
    (s.conn n = none → exec (.closeStorageConnection q) s = .next (s.status q 0)) ∧
    (∀ k, s.conn n = some k → k.closing = none → s.connBusy n = false → ∃ t, exec (.closeStorageConnection q) s = .next t ∧
      t.conn n = none ∧ t.io.replies = s.io.replies ++ [(q.qp, reply 6 0 (fld q.msg 4 4) 0 0xFFFFFFFF 0)]) ∧
    (∀ k, s.conn n = some k → k.closing = none → s.connBusy n = true → ∃ t, exec (.closeStorageConnection q) s = .next t ∧
      t.conn n = some { k with closing := some (q.qp, BitVec.ofNat 32 (fld q.msg 4 4)) } ∧ t.io.replies = s.io.replies)) ∧
  (∀ (s : State) (n : Nat), (s.conn n = none → exec (.nvmeTransportError n) s = .next s) ∧
    (∀ k, s.conn n = some k → ∃ t, exec (.nvmeTransportError n) s = .next t ∧ t.conn n = none))

/-- LAUNCH (R51-R53, R210, R212, R297, R405, R406): a message that may be taken up is answered 0x0E before STATE 1, 0x01 where it breaks its
limits, 0x02 to 0x08 where a later step refuses it; one that passes becomes resident, a gang waiting for its admission and a single entry's
record pushed, or waiting for room. The model's choices: the checks made before a space is taken and what a refusal's other fields hold (log
57), a launch waits while a migration is in transit (log 60), the order of the checks of an image with several faults (log 84).
Concludes that exec answers a next state for: launch. -/
def Obligations.Launching : Prop :=
  ∀ (s : State) (q : HostReq), (s.transit.isSome = true → (∀ p ∈ s.launching, p.1 ≠ q) → exec (.launch q) s = .next s) ∧
    (∀ p, s.launching.find? (fun p => p.1 == q) = some p →
      (s.pushRec 0 p.2.1 64 = none → exec (.launch q) s = .next s) ∧
      (∀ u, s.pushRec 0 p.2.1 64 = some u → exec (.launch q) s = .next (State.answer
        { u with launching := u.launching.filter fun p => p.1 != q } q 0 0 p.2.2 (fld q.msg 48 8)))) ∧
    (s.transit = none → s.takes q 1 = true →
      (s.koyth.state ≠ 1 → exec (.launch q) s = .next (s.status q 0x0E)) ∧
      (s.koyth.state = 1 → s.launchOk q.msg = false → exec (.launch q) s = .next (s.status q 1)) ∧
      (s.koyth.state = 1 → s.launchOk q.msg = true → let l0 := fld q.msg 16 8
        let va := fld q.msg 8 8
        (s.freeSpace = none → exec (.launch q) s = .next (s.status q 6)) ∧
        ∀ sp, s.freeSpace = some sp → (s.imgRead l0 va 128 = none → exec (.launch q) s = .next (s.status q 7)) ∧
          ∀ h, s.imgRead l0 va 128 = some h → (hdrOk h = false → exec (.launch q) s = .next (s.status q 2)) ∧
            ∀ img, hdrOk h = true → s.imgRead l0 va (imgSize h) = some img →
              (recsOk h img = false → exec (.launch q) s = .next (s.status q 2)) ∧
              (∀ b, recsOk h img = true → lackedBit h = some b → exec (.launch q) s = .next (s.answer q 3 b 0xFFFFFFFF (launchPipes q))) ∧
              (recsOk h img = true → lackedBit h = none →
                (itemEntries q.msg h img = none → exec (.launch q) s = .next (s.status q 8)) ∧
                ∀ items, itemEntries q.msg h img = some items → (fld q.msg 48 8 ≠ 0 ∨ imgPipes h = 0) →
                  s.pipesOk l0 (fld q.msg 48 8) (pipeBytes h img) = true →
                  (fld q.msg 2 2 = 0 → let u := ({ s with rings := s.queueRings } : State).makeLaunch q sp h img items
                    exec (.launch q) s = .next u ∧ ∃ l, u.launches = s.launches ++ [l] ∧ l.space = sp ∧ l.lid = s.nextLid ∧ l.l0tab = l0 ∧
                      Tab.get (fun _ => 0) l.mb 3 = wordAt q.msg 88) ∧
                  (fld q.msg 2 2 = 1 → fld (imgRec h img 72 (fld q.msg 24 4)) 4 4 ≤ 8 → (BitVec.ofNat 32 (fld q.msg 28 4)).getLsbD 4 = false →
                    s.pending = [] → ∃ t, exec (.launch q) s = .next t ∧ t.pending.length = 1 ∧ t.io.replies = s.io.replies ∧
                      t.nextLid = s.nextLid + 1 ∧ ∃ l, t.launches = s.launches ++ [l] ∧ l.space = sp ∧ l.l0tab = l0))))

/-- The start order (R36, R40, R113, R148, R183, R418, R419, R425): from power-up, when the flash image is signed and not below the floor,
each step follows the one before it, and a started core holds what reset gives it, but the conductances of its tiles, which stand as they
were; a refused image means recovery; a power-up may come at any stage, and but after a recovery it finds memory empty. Training gives the
module its number and its bytes their addresses; at the end the public region is zero but for the bring-up record. That a running module may be
powered up, losing what it held, is the model's choice (log 61).
Concludes that exec answers a next state for: powerUp, ioDieStart, computeDieStart, grottoStart, linkTraining, moduleReady. -/
def Obligations.StartOrder : Prop :=
  (∀ s : State, (let bs := s.flashImage
      let mem := if s.koyth.stage = 0 ∧ s.koyth.state ≠ 3 then s.mem else []
      let floor := max s.koyth.floor Config.fusedFloor
      (fwGood bs = false ∨ fwSvn bs < floor → ∃ t, exec .powerUp s = .next t ∧ t.koyth.recovery = true ∧ t.koyth.state = 2 ∧
        t.koyth.stage = 1 ∧ t.mem = mem ∧ s.keepsTiles t) ∧
      (fwGood bs = true → floor ≤ fwSvn bs → (∀ u ∈ allUnits, Config.selfTest (unitCode u) = true) → ∃ t, exec .powerUp s = .next t ∧
        t.koyth.recovery = false ∧ t.koyth.stage = 1 ∧ t.koyth.svn = fwSvn bs ∧ t.koyth.retired = [] ∧ t.koyth.flash = s.koyth.flash ∧
        t.mem = mem ∧ s.keepsTiles t ∧ t.launches = [])) ∧
    (s.koyth.stage = 1 → ∃ t, exec .ioDieStart s = .next t ∧ t.io.started = true ∧ t.koyth.stage = 2) ∧
    (s.koyth.stage ≠ 1 → exec .ioDieStart s = .next s)) ∧
  (∀ (s : State) (d : Nat), s.koyth.stage = 2 → s.koyth.recovery = false → d < 8 → (s.die d).started = false → s.startedBelow (8 * d) = true →
    ∃ t, exec (.computeDieStart d) s = .next t ∧ (t.die d).started = true) ∧
  (∀ (s : State) (g c : Nat), s.koyth.stage = 2 → s.koyth.recovery = false → g < 64 → (s.die (g / 8)).started = true →
    (s.grotto g).started = false → s.startedBelow g = true → c / 32 = g → { s.core c with tiles := [] } = Core.init c →
    ∃ t, exec (.grottoStart g) s = .next t ∧ (t.grotto g).started = true ∧ (t.core c).started = true ∧
      t.koyth.stage = (if g = 63 then 3 else 2) ∧
      (t.core c).seed = BitVec.ofNat 64 c ∧ (t.core c).rng = rngStep (seedState (BitVec.ofNat 64 c)) ∧
      (∀ n, (t.core c).gran n = 0 ∧ (t.core c).tag n = Tag.exact ∧ (t.core c).side n = 0 ∧ ((t.core c).tab n).valid = false) ∧
      (t.core c).bank = 0xFFFFFFFF ∧
      ∀ k, ((t.core c).ctx k).viewV = 0x0000030000000000 ∧ ((t.core c).ctx k).viewT = 0x0000180000000000 ∧
        ∀ l, (((t.core c).ctx k).loop l).act = false) ∧
  (∀ (s : State) (m : Nat) (ds : List Nat), s.koyth.stage = 3 → m < 1024 → (∀ d ∈ ds, d < 1024) →
    ∃ t, exec (.linkTraining m ds) s = .next t ∧ t.koyth.modId = m ∧ t.koyth.domain = ds ∧ t.koyth.stage = 4 ∧
      (Memory.wf s.mem = true → (∀ p ∈ s.mem, p.1 < 2 ^ 54) → ∀ a, a < 2 ^ 54 → t.byte (m * 2 ^ 54 + a) = s.byte a)) ∧
  (∀ s : State, (s.koyth.stage = 4 → s.koyth.recovery = false → ∃ t, exec .moduleReady s = .next t ∧ t.koyth.stage = 5 ∧ t.koyth.state = 1 ∧
      t.koyth.floor = max s.koyth.floor s.koyth.svn ∧ t.bytes (s.pub 0) 4 = [0x51, 0x58, 0x42, 0x52] ∧ t.readN (s.pub 4) 4 = 1 ∧
      ∀ a, 64 ≤ a → a < 0x100000 → t.byte (s.pub a) = 0) ∧
    (s.koyth.stage = 2 → s.koyth.recovery = true → ∃ t, exec .moduleReady s = .next t ∧ t.koyth.stage = 5 ∧ t.koyth.state = s.koyth.state ∧
      ∀ a, 64 ≤ a → a < 0x100000 → t.byte (s.pub a) = 0))

/-- Power, heat and the controller's requests (R420, R422, R425-R428): power and heat move the caps; after a thermal stop nothing runs but a
power-up, which finds the tiles' conductances as they were (R310); requests 0x11 to 0x13 have their effect: one firmware request is in progress
at a time, a report holds its nonce and the measurement of the launch it names. The model's choices: which codes refuse an image that reads
poisoned or a source outside HBM (log 61); DST is a physical address, refused with 0x01 where the host could not write it (log 62).
Concludes that exec answers a next state for: firmwareRecovery, attestationReport, certificateChain, powerWindowEnd, thermalThrottle,
thermalStop, throttleEnd. -/
def Obligations.ControllerEvents : Prop :=
  (∀ (s : State) (draw n x : Nat) (ts : List Nat),
    (s.koyth.stage = 5 → s.koyth.recovery = false → ∃ t, exec (.powerWindowEnd draw) s = .next t ∧ t.koyth.draw = draw ∧
      let cap := fun c top => if 4400 < draw then max 1 (c - 1) else if draw < 4000 ∧ s.koyth.throttled = false then min top (c + 1) else c
      t.koyth.capM = cap s.koyth.capM 8 ∧ t.koyth.capX = cap s.koyth.capX 4) ∧
    (s.koyth.stage ≠ 0 → n < 17 → (if n < 9 then 95 else 85) ≤ x → ∃ t, exec (.thermalThrottle n x) s = .next t ∧
      t.koyth.throttled = true ∧ t.koyth.capM = 1 ∧ t.koyth.capX = 1) ∧
    (x < (if n < 9 then 95 else 85) → exec (.thermalThrottle n x) s = .next s) ∧
    (ts.length = 17 → (∀ i v, ts[i]? = some v → v < if i < 9 then 95 else 85) → ∃ t, exec (.throttleEnd ts) s = .next t ∧
      t.koyth.throttled = false ∧ t.koyth.capM = s.koyth.capM ∧ t.koyth.capX = s.koyth.capX)) ∧
  (∀ (s t u : State) (n x : Nat), s.koyth.stage ≠ 0 → n < 17 → (if n < 9 then 105 else 95) ≤ x → exec (.thermalStop n x) s = .next t →
    t.koyth.state = 3 ∧ s.keepsTiles t ∧ t.mem = [] ∧ t.launches = [] ∧ t.koyth.flash = s.koyth.flash ∧
    (t.inputs = [] → step t ≠ .next u ∧ step t = .fault .thermalStop)) ∧
  (∀ (s : State) (n x : Nat), s.koyth.stage ≠ 0 → n < 17 → (if n < 9 then 105 else 95) ≤ x → ∃ t, exec (.thermalStop n x) s = .next t) ∧
  ∀ (s : State) (q : HostReq), let src := fld q.msg 8 8
    let len := fld q.msg 16 8
    let bs := s.seen src len
    let dst := fld q.msg 16 8
    let u := ({ s with koyth := { s.koyth with loading := none } } : State)
    (s.takes q 0x11 = true → s.koyth.loading ≠ some q →
      let ok := (zeros q.msg 2 2 = true ∧ zeros q.msg 24 232 = true ∧ src % 64 = 0 ∧ len ≤ 2 ^ 25 ∧ s.hostOk src len false = true)
      (¬ok → exec (.firmwareRecovery q) s = .next (s.status q 1)) ∧
      (ok → s.koyth.loading = none → exec (.firmwareRecovery q) s = .next { s with koyth := { s.koyth with loading := some q } }) ∧
      (ok → s.koyth.loading ≠ none → exec (.firmwareRecovery q) s = .next (s.status q 0x0A))) ∧
    (s.koyth.loading = some q →
      (s.anyPoison src (max len 1) = true ∨ fwGood bs = false → exec (.firmwareRecovery q) s = .next (u.status q 0x0C)) ∧
      (s.anyPoison src (max len 1) = false → fwGood bs = true →
        (fwSvn bs < s.koyth.floor → exec (.firmwareRecovery q) s = .next (u.status q 0x0D)) ∧
        (s.koyth.floor ≤ fwSvn bs → ∃ t, exec (.firmwareRecovery q) s = .next t ∧ t.koyth.flash = bs ∧ t.mem = s.mem ∧
          t.koyth.stage = if s.koyth.recovery then 0 else s.koyth.stage))) ∧
    (s.takes q 0x12 = true → s.koyth.recovery = false → zeros q.msg 2 2 = true → zeros q.msg 12 4 = true → zeros q.msg 24 8 = true →
      zeros q.msg 80 176 = true → s.hostOk dst 512 true = true →
      (fld q.msg 8 4 ≠ 0xFFFFFFFF → s.launchOf (fld q.msg 8 4) = none → exec (.attestationReport q) s = .next (s.status q 9)) ∧
      (∀ m, (fld q.msg 8 4 = 0xFFFFFFFF ∧ m = List.replicate 48 0 ∨
          fld q.msg 8 4 ≠ 0xFFFFFFFF ∧ ∃ l, s.launchOf (fld q.msg 8 4) = some l ∧ m = fit 48 l.measure) →
        ∃ t, exec (.attestationReport q) s = .next t ∧ t.bytes dst 4 = [0x51, 0x58, 0x41, 0x52] ∧ t.readN (dst + 4) 4 = fld q.msg 8 4 ∧
          t.bytes (dst + 16) 48 = fit 48 ((q.msg.drop 32).take 48) ∧ t.bytes (dst + 160) 48 = m ∧
          ∀ b, (b < dst ∨ dst + 512 ≤ b) → t.byte b = s.byte b)) ∧
    (let chain := (Config.certChain s.koyth.fwHash).take 4096
     s.takes q 0x13 = true → s.koyth.recovery = false → zeros q.msg 2 2 = true → zeros q.msg 8 8 = true → zeros q.msg 24 232 = true →
      s.hostOk dst chain.length true = true → ∃ t, exec (.certificateChain q) s = .next t ∧ t.bytes dst chain.length = chain ∧
        t.io.replies = s.io.replies ++ [(q.qp, reply 0x13 0 (fld q.msg 4 4) chain.length 0xFFFFFFFF 0)])
end

