-- ==== Sys2Proof/Laws/Tables.lean ====
section
/-! SUPPORT. Sparse tables: what a write leaves at its own number and at every other, and that writes keep the canonical form. -/

set_option Elab.async false

namespace Sys2Proof.Machine

variable {α : Type} (d : Nat → α)

theorem Tab.get_insert_same (t : Tab α) (k : Nat) (v : α) : Tab.get d (Tab.insert k v t) k = v := by
  induction t with
  | nil => simp [Tab.insert, Tab.get]
  | cons p t ih =>
    obtain ⟨i, u⟩ := p
    simp only [Tab.insert]
    split
    · simp [Tab.get]
    · split
      · simp [Tab.get]
      · simp [Tab.get, *]

theorem Tab.get_insert_ne (t : Tab α) {k j : Nat} (v : α) (h : j ≠ k) : Tab.get d (Tab.insert k v t) j = Tab.get d t j := by
  induction t with
  | nil => simp [Tab.insert, Tab.get, Ne.symm h]
  | cons p t ih =>
    obtain ⟨i, u⟩ := p
    simp only [Tab.insert]
    split
    · simp [Tab.get, Ne.symm h]
    · split
      · subst_vars; simp [Tab.get, Ne.symm h]
      · simp [Tab.get, ih]

theorem Tab.get_erase_same (t : Tab α) (k : Nat) : Tab.get d (Tab.erase k t) k = d k := by
  induction t with
  | nil => simp [Tab.erase, Tab.get]
  | cons p t ih =>
    simp only [Tab.erase, List.filter_cons] at ih ⊢
    split
    · rename_i h
      simp only [bne_iff_ne, ne_eq] at h
      simp [Tab.get, h, ih]
    · exact ih

theorem Tab.get_erase_ne (t : Tab α) {k j : Nat} (h : j ≠ k) : Tab.get d (Tab.erase k t) j = Tab.get d t j := by
  induction t with
  | nil => simp [Tab.erase]
  | cons p t ih =>
    simp only [Tab.erase, List.filter_cons] at ih ⊢
    split
    · simp [Tab.get, ih]
    · rename_i hp
      simp only [bne_iff_ne, ne_eq, not_not] at hp
      rw [ih]
      simp [Tab.get, hp, Ne.symm h]

variable [DecidableEq α]

/-- A read after a write to the same number gives the value written. -/
@[simp] theorem Tab.get_set_same (t : Tab α) (k : Nat) (v : α) : Tab.get d (Tab.set d t k v) k = v := by
  unfold Tab.set
  split
  · rw [Tab.get_erase_same]; exact Eq.symm ‹v = d k›
  · exact Tab.get_insert_same d t k v

/-- A write leaves every other number alone. -/
theorem Tab.get_set_ne (t : Tab α) {k j : Nat} (v : α) (h : j ≠ k) : Tab.get d (Tab.set d t k v) j = Tab.get d t j := by
  unfold Tab.set
  split
  · exact Tab.get_erase_ne d t h
  · exact Tab.get_insert_ne d t v h

/-- A write, read back at any number. -/
theorem Tab.get_set (t : Tab α) (k j : Nat) (v : α) : Tab.get d (Tab.set d t k v) j = if j = k then v else Tab.get d t j := by
  split
  · subst_vars; exact Tab.get_set_same d t _ v
  · exact Tab.get_set_ne d t v ‹_›

theorem Tab.wfFrom_mono (t : Tab α) {lo hi : Nat} (h : lo ≤ hi) (w : Tab.wfFrom d hi t = true) : Tab.wfFrom d lo t = true := by
  cases t with
  | nil => rfl
  | cons p t =>
    simp only [Tab.wfFrom, Bool.and_eq_true, decide_eq_true_eq] at w ⊢
    exact ⟨⟨by omega, w.1.2⟩, w.2⟩

theorem Tab.wfFrom_erase (t : Tab α) (k : Nat) : ∀ lo, Tab.wfFrom d lo t = true → Tab.wfFrom d lo (Tab.erase k t) = true := by
  induction t with
  | nil => intro _ h; exact h
  | cons p t ih =>
    intro lo h
    obtain ⟨i, u⟩ := p
    simp only [Tab.wfFrom, Bool.and_eq_true, decide_eq_true_eq] at h
    simp only [Tab.erase, List.filter_cons] at ih ⊢
    split
    · simp only [Tab.wfFrom, Bool.and_eq_true, decide_eq_true_eq]
      exact ⟨h.1, ih _ h.2⟩
    · exact ih lo (Tab.wfFrom_mono d t (by omega) h.2)

theorem Tab.wfFrom_insert (t : Tab α) (k : Nat) (v : α) (hv : v ≠ d k) :
    ∀ lo, lo ≤ k → Tab.wfFrom d lo t = true → Tab.wfFrom d lo (Tab.insert k v t) = true := by
  induction t with
  | nil => intro lo hl _; simp [Tab.insert, Tab.wfFrom, hl, hv]
  | cons p t ih =>
    intro lo hl h
    obtain ⟨i, u⟩ := p
    simp only [Tab.wfFrom, Bool.and_eq_true, decide_eq_true_eq] at h
    simp only [Tab.insert]
    split
    · simp only [Tab.wfFrom, Bool.and_eq_true, decide_eq_true_eq]
      exact ⟨⟨hl, hv⟩, ⟨by omega, h.1.2⟩, h.2⟩
    · split
      · subst_vars
        simp only [Tab.wfFrom, Bool.and_eq_true, decide_eq_true_eq]
        exact ⟨⟨h.1.1, hv⟩, h.2⟩
      · simp only [Tab.wfFrom, Bool.and_eq_true, decide_eq_true_eq]
        exact ⟨h.1, ih _ (by omega) h.2⟩

/-- A write keeps the canonical form. -/
theorem Tab.wf_set (t : Tab α) (k : Nat) (v : α) (h : Tab.wf d t = true) : Tab.wf d (Tab.set d t k v) = true := by
  unfold Tab.set
  split
  · exact Tab.wfFrom_erase d t k 0 h
  · exact Tab.wfFrom_insert d t k v ‹_› 0 (Nat.zero_le _) h

/-- Dropping entries keeps the canonical form. -/
theorem Tab.wfFrom_filter (p : Nat × α → Bool) (t : Tab α) : ∀ lo, Tab.wfFrom d lo t = true → Tab.wfFrom d lo (t.filter p) = true := by
  induction t with
  | nil => intro _ h; exact h
  | cons q t ih =>
    intro lo h
    obtain ⟨i, u⟩ := q
    simp only [Tab.wfFrom, Bool.and_eq_true, decide_eq_true_eq] at h
    simp only [List.filter_cons]
    split
    · simp only [Tab.wfFrom, Bool.and_eq_true, decide_eq_true_eq]
      exact ⟨h.1, ih _ h.2⟩
    · exact ih lo (Tab.wfFrom_mono d t (by omega) h.2)

theorem Tab.wf_filter (p : Nat × α → Bool) (t : Tab α) (h : Tab.wf d t = true) : Tab.wf d (t.filter p) = true :=
  Tab.wfFrom_filter d p t 0 h

end Sys2Proof.Machine
end

