-- ==== Sys2Proof/Laws/State.lean ====
section
/-! SUPPORT. Reading the parts of a state after an update: every field an update leaves alone, and the parts it writes. -/

set_option Elab.async false

namespace Sys2Proof.Machine

/-! ## Fields an update leaves alone -/

@[simp] theorem State.setCore_curCore (s : State) (c : Nat) (x : Core) : (s.setCore c x).curCore = s.curCore := rfl
@[simp] theorem State.setCore_curCtx (s : State) (c : Nat) (x : Core) : (s.setCore c x).curCtx = s.curCtx := rfl
@[simp] theorem State.setCore_tick (s : State) (c : Nat) (x : Core) : (s.setCore c x).tick = s.tick := rfl
@[simp] theorem State.setCore_inputs (s : State) (c : Nat) (x : Core) : (s.setCore c x).inputs = s.inputs := rfl
@[simp] theorem State.setCore_mem (s : State) (c : Nat) (x : Core) : (s.setCore c x).mem = s.mem := rfl
@[simp] theorem State.setCore_poison (s : State) (c : Nat) (x : Core) : (s.setCore c x).poison = s.poison := rfl
@[simp] theorem State.setCore_grottos (s : State) (c : Nat) (x : Core) : (s.setCore c x).grottos = s.grottos := rfl
@[simp] theorem State.setCore_dies (s : State) (c : Nat) (x : Core) : (s.setCore c x).dies = s.dies := rfl
@[simp] theorem State.setCore_pearls (s : State) (c : Nat) (x : Core) : (s.setCore c x).pearls = s.pearls := rfl
@[simp] theorem State.setCore_banks (s : State) (c : Nat) (x : Core) : (s.setCore c x).banks = s.banks := rfl
@[simp] theorem State.setCore_launches (s : State) (c : Nat) (x : Core) : (s.setCore c x).launches = s.launches := rfl
@[simp] theorem State.setCore_nextLid (s : State) (c : Nat) (x : Core) : (s.setCore c x).nextLid = s.nextLid := rfl
@[simp] theorem State.setCore_nextTid (s : State) (c : Nat) (x : Core) : (s.setCore c x).nextTid = s.nextTid := rfl
@[simp] theorem State.setCore_nextReq (s : State) (c : Nat) (x : Core) : (s.setCore c x).nextReq = s.nextReq := rfl
@[simp] theorem State.setCore_collFar (s : State) (c : Nat) (x : Core) : (s.setCore c x).collFar = s.collFar := rfl
@[simp] theorem State.setCore_collDead (s : State) (c : Nat) (x : Core) : (s.setCore c x).collDead = s.collDead := rfl
@[simp] theorem State.setCore_records (s : State) (c : Nat) (x : Core) : (s.setCore c x).records = s.records := rfl
@[simp] theorem State.setCore_gangs (s : State) (c : Nat) (x : Core) : (s.setCore c x).gangs = s.gangs := rfl
@[simp] theorem State.setCore_nextGang (s : State) (c : Nat) (x : Core) : (s.setCore c x).nextGang = s.nextGang := rfl
@[simp] theorem State.setCore_pending (s : State) (c : Nat) (x : Core) : (s.setCore c x).pending = s.pending := rfl
@[simp] theorem State.setCore_launching (s : State) (c : Nat) (x : Core) : (s.setCore c x).launching = s.launching := rfl
@[simp] theorem State.setCore_saved (s : State) (c : Nat) (x : Core) : (s.setCore c x).saved = s.saved := rfl
@[simp] theorem State.setCore_transit (s : State) (c : Nat) (x : Core) : (s.setCore c x).transit = s.transit := rfl
@[simp] theorem State.setCore_patience (s : State) (c : Nat) (x : Core) : (s.setCore c x).patience = s.patience := rfl
@[simp] theorem State.setCore_rings (s : State) (c : Nat) (x : Core) : (s.setCore c x).rings = s.rings := rfl
@[simp] theorem State.setCore_blur (s : State) (c : Nat) (x : Core) : (s.setCore c x).blur = s.blur := rfl
@[simp] theorem State.setCore_owed (s : State) (c : Nat) (x : Core) : (s.setCore c x).owed = s.owed := rfl
@[simp] theorem State.setCore_io (s : State) (c : Nat) (x : Core) : (s.setCore c x).io = s.io := rfl
@[simp] theorem State.setCore_koyth (s : State) (c : Nat) (x : Core) : (s.setCore c x).koyth = s.koyth := rfl
@[simp] theorem State.setCtx_curCore (s : State) (c k : Nat) (x : Ctx) : (s.setCtx c k x).curCore = s.curCore := rfl
@[simp] theorem State.setCtx_curCtx (s : State) (c k : Nat) (x : Ctx) : (s.setCtx c k x).curCtx = s.curCtx := rfl
@[simp] theorem State.setCtx_tick (s : State) (c k : Nat) (x : Ctx) : (s.setCtx c k x).tick = s.tick := rfl
@[simp] theorem State.setCtx_inputs (s : State) (c k : Nat) (x : Ctx) : (s.setCtx c k x).inputs = s.inputs := rfl
@[simp] theorem State.setCtx_mem (s : State) (c k : Nat) (x : Ctx) : (s.setCtx c k x).mem = s.mem := rfl
@[simp] theorem State.setCtx_poison (s : State) (c k : Nat) (x : Ctx) : (s.setCtx c k x).poison = s.poison := rfl
@[simp] theorem State.setCtx_grottos (s : State) (c k : Nat) (x : Ctx) : (s.setCtx c k x).grottos = s.grottos := rfl
@[simp] theorem State.setCtx_dies (s : State) (c k : Nat) (x : Ctx) : (s.setCtx c k x).dies = s.dies := rfl
@[simp] theorem State.setCtx_pearls (s : State) (c k : Nat) (x : Ctx) : (s.setCtx c k x).pearls = s.pearls := rfl
@[simp] theorem State.setCtx_banks (s : State) (c k : Nat) (x : Ctx) : (s.setCtx c k x).banks = s.banks := rfl
@[simp] theorem State.setCtx_launches (s : State) (c k : Nat) (x : Ctx) : (s.setCtx c k x).launches = s.launches := rfl
@[simp] theorem State.setCtx_nextLid (s : State) (c k : Nat) (x : Ctx) : (s.setCtx c k x).nextLid = s.nextLid := rfl
@[simp] theorem State.setCtx_nextTid (s : State) (c k : Nat) (x : Ctx) : (s.setCtx c k x).nextTid = s.nextTid := rfl
@[simp] theorem State.setCtx_nextReq (s : State) (c k : Nat) (x : Ctx) : (s.setCtx c k x).nextReq = s.nextReq := rfl
@[simp] theorem State.setCtx_collFar (s : State) (c k : Nat) (x : Ctx) : (s.setCtx c k x).collFar = s.collFar := rfl
@[simp] theorem State.setCtx_collDead (s : State) (c k : Nat) (x : Ctx) : (s.setCtx c k x).collDead = s.collDead := rfl
@[simp] theorem State.setCtx_records (s : State) (c k : Nat) (x : Ctx) : (s.setCtx c k x).records = s.records := rfl
@[simp] theorem State.setCtx_gangs (s : State) (c k : Nat) (x : Ctx) : (s.setCtx c k x).gangs = s.gangs := rfl
@[simp] theorem State.setCtx_nextGang (s : State) (c k : Nat) (x : Ctx) : (s.setCtx c k x).nextGang = s.nextGang := rfl
@[simp] theorem State.setCtx_pending (s : State) (c k : Nat) (x : Ctx) : (s.setCtx c k x).pending = s.pending := rfl
@[simp] theorem State.setCtx_launching (s : State) (c k : Nat) (x : Ctx) : (s.setCtx c k x).launching = s.launching := rfl
@[simp] theorem State.setCtx_saved (s : State) (c k : Nat) (x : Ctx) : (s.setCtx c k x).saved = s.saved := rfl
@[simp] theorem State.setCtx_transit (s : State) (c k : Nat) (x : Ctx) : (s.setCtx c k x).transit = s.transit := rfl
@[simp] theorem State.setCtx_patience (s : State) (c k : Nat) (x : Ctx) : (s.setCtx c k x).patience = s.patience := rfl
@[simp] theorem State.setCtx_rings (s : State) (c k : Nat) (x : Ctx) : (s.setCtx c k x).rings = s.rings := rfl
@[simp] theorem State.setCtx_blur (s : State) (c k : Nat) (x : Ctx) : (s.setCtx c k x).blur = s.blur := rfl
@[simp] theorem State.setCtx_owed (s : State) (c k : Nat) (x : Ctx) : (s.setCtx c k x).owed = s.owed := rfl
@[simp] theorem State.setCtx_io (s : State) (c k : Nat) (x : Ctx) : (s.setCtx c k x).io = s.io := rfl
@[simp] theorem State.setCtx_koyth (s : State) (c k : Nat) (x : Ctx) : (s.setCtx c k x).koyth = s.koyth := rfl
@[simp] theorem State.modCore_curCore (s : State) (c : Nat) (f : Core → Core) : (s.modCore c f).curCore = s.curCore := rfl
@[simp] theorem State.modCore_curCtx (s : State) (c : Nat) (f : Core → Core) : (s.modCore c f).curCtx = s.curCtx := rfl
@[simp] theorem State.modCore_tick (s : State) (c : Nat) (f : Core → Core) : (s.modCore c f).tick = s.tick := rfl
@[simp] theorem State.modCore_inputs (s : State) (c : Nat) (f : Core → Core) : (s.modCore c f).inputs = s.inputs := rfl
@[simp] theorem State.modCore_mem (s : State) (c : Nat) (f : Core → Core) : (s.modCore c f).mem = s.mem := rfl
@[simp] theorem State.modCore_poison (s : State) (c : Nat) (f : Core → Core) : (s.modCore c f).poison = s.poison := rfl
@[simp] theorem State.modCore_grottos (s : State) (c : Nat) (f : Core → Core) : (s.modCore c f).grottos = s.grottos := rfl
@[simp] theorem State.modCore_dies (s : State) (c : Nat) (f : Core → Core) : (s.modCore c f).dies = s.dies := rfl
@[simp] theorem State.modCore_pearls (s : State) (c : Nat) (f : Core → Core) : (s.modCore c f).pearls = s.pearls := rfl
@[simp] theorem State.modCore_banks (s : State) (c : Nat) (f : Core → Core) : (s.modCore c f).banks = s.banks := rfl
@[simp] theorem State.modCore_launches (s : State) (c : Nat) (f : Core → Core) : (s.modCore c f).launches = s.launches := rfl
@[simp] theorem State.modCore_nextLid (s : State) (c : Nat) (f : Core → Core) : (s.modCore c f).nextLid = s.nextLid := rfl
@[simp] theorem State.modCore_nextTid (s : State) (c : Nat) (f : Core → Core) : (s.modCore c f).nextTid = s.nextTid := rfl
@[simp] theorem State.modCore_nextReq (s : State) (c : Nat) (f : Core → Core) : (s.modCore c f).nextReq = s.nextReq := rfl
@[simp] theorem State.modCore_collFar (s : State) (c : Nat) (f : Core → Core) : (s.modCore c f).collFar = s.collFar := rfl
@[simp] theorem State.modCore_collDead (s : State) (c : Nat) (f : Core → Core) : (s.modCore c f).collDead = s.collDead := rfl
@[simp] theorem State.modCore_records (s : State) (c : Nat) (f : Core → Core) : (s.modCore c f).records = s.records := rfl
@[simp] theorem State.modCore_gangs (s : State) (c : Nat) (f : Core → Core) : (s.modCore c f).gangs = s.gangs := rfl
@[simp] theorem State.modCore_nextGang (s : State) (c : Nat) (f : Core → Core) : (s.modCore c f).nextGang = s.nextGang := rfl
@[simp] theorem State.modCore_pending (s : State) (c : Nat) (f : Core → Core) : (s.modCore c f).pending = s.pending := rfl
@[simp] theorem State.modCore_launching (s : State) (c : Nat) (f : Core → Core) : (s.modCore c f).launching = s.launching := rfl
@[simp] theorem State.modCore_saved (s : State) (c : Nat) (f : Core → Core) : (s.modCore c f).saved = s.saved := rfl
@[simp] theorem State.modCore_transit (s : State) (c : Nat) (f : Core → Core) : (s.modCore c f).transit = s.transit := rfl
@[simp] theorem State.modCore_patience (s : State) (c : Nat) (f : Core → Core) : (s.modCore c f).patience = s.patience := rfl
@[simp] theorem State.modCore_rings (s : State) (c : Nat) (f : Core → Core) : (s.modCore c f).rings = s.rings := rfl
@[simp] theorem State.modCore_blur (s : State) (c : Nat) (f : Core → Core) : (s.modCore c f).blur = s.blur := rfl
@[simp] theorem State.modCore_owed (s : State) (c : Nat) (f : Core → Core) : (s.modCore c f).owed = s.owed := rfl
@[simp] theorem State.modCore_io (s : State) (c : Nat) (f : Core → Core) : (s.modCore c f).io = s.io := rfl
@[simp] theorem State.modCore_koyth (s : State) (c : Nat) (f : Core → Core) : (s.modCore c f).koyth = s.koyth := rfl
@[simp] theorem State.modCtx_curCore (s : State) (c k : Nat) (f : Ctx → Ctx) : (s.modCtx c k f).curCore = s.curCore := rfl
@[simp] theorem State.modCtx_curCtx (s : State) (c k : Nat) (f : Ctx → Ctx) : (s.modCtx c k f).curCtx = s.curCtx := rfl
@[simp] theorem State.modCtx_tick (s : State) (c k : Nat) (f : Ctx → Ctx) : (s.modCtx c k f).tick = s.tick := rfl
@[simp] theorem State.modCtx_inputs (s : State) (c k : Nat) (f : Ctx → Ctx) : (s.modCtx c k f).inputs = s.inputs := rfl
@[simp] theorem State.modCtx_mem (s : State) (c k : Nat) (f : Ctx → Ctx) : (s.modCtx c k f).mem = s.mem := rfl
@[simp] theorem State.modCtx_poison (s : State) (c k : Nat) (f : Ctx → Ctx) : (s.modCtx c k f).poison = s.poison := rfl
@[simp] theorem State.modCtx_grottos (s : State) (c k : Nat) (f : Ctx → Ctx) : (s.modCtx c k f).grottos = s.grottos := rfl
@[simp] theorem State.modCtx_dies (s : State) (c k : Nat) (f : Ctx → Ctx) : (s.modCtx c k f).dies = s.dies := rfl
@[simp] theorem State.modCtx_pearls (s : State) (c k : Nat) (f : Ctx → Ctx) : (s.modCtx c k f).pearls = s.pearls := rfl
@[simp] theorem State.modCtx_banks (s : State) (c k : Nat) (f : Ctx → Ctx) : (s.modCtx c k f).banks = s.banks := rfl
@[simp] theorem State.modCtx_launches (s : State) (c k : Nat) (f : Ctx → Ctx) : (s.modCtx c k f).launches = s.launches := rfl
@[simp] theorem State.modCtx_nextLid (s : State) (c k : Nat) (f : Ctx → Ctx) : (s.modCtx c k f).nextLid = s.nextLid := rfl
@[simp] theorem State.modCtx_nextTid (s : State) (c k : Nat) (f : Ctx → Ctx) : (s.modCtx c k f).nextTid = s.nextTid := rfl
@[simp] theorem State.modCtx_nextReq (s : State) (c k : Nat) (f : Ctx → Ctx) : (s.modCtx c k f).nextReq = s.nextReq := rfl
@[simp] theorem State.modCtx_collFar (s : State) (c k : Nat) (f : Ctx → Ctx) : (s.modCtx c k f).collFar = s.collFar := rfl
@[simp] theorem State.modCtx_collDead (s : State) (c k : Nat) (f : Ctx → Ctx) : (s.modCtx c k f).collDead = s.collDead := rfl
@[simp] theorem State.modCtx_records (s : State) (c k : Nat) (f : Ctx → Ctx) : (s.modCtx c k f).records = s.records := rfl
@[simp] theorem State.modCtx_gangs (s : State) (c k : Nat) (f : Ctx → Ctx) : (s.modCtx c k f).gangs = s.gangs := rfl
@[simp] theorem State.modCtx_nextGang (s : State) (c k : Nat) (f : Ctx → Ctx) : (s.modCtx c k f).nextGang = s.nextGang := rfl
@[simp] theorem State.modCtx_pending (s : State) (c k : Nat) (f : Ctx → Ctx) : (s.modCtx c k f).pending = s.pending := rfl
@[simp] theorem State.modCtx_launching (s : State) (c k : Nat) (f : Ctx → Ctx) : (s.modCtx c k f).launching = s.launching := rfl
@[simp] theorem State.modCtx_saved (s : State) (c k : Nat) (f : Ctx → Ctx) : (s.modCtx c k f).saved = s.saved := rfl
@[simp] theorem State.modCtx_transit (s : State) (c k : Nat) (f : Ctx → Ctx) : (s.modCtx c k f).transit = s.transit := rfl
@[simp] theorem State.modCtx_patience (s : State) (c k : Nat) (f : Ctx → Ctx) : (s.modCtx c k f).patience = s.patience := rfl
@[simp] theorem State.modCtx_rings (s : State) (c k : Nat) (f : Ctx → Ctx) : (s.modCtx c k f).rings = s.rings := rfl
@[simp] theorem State.modCtx_blur (s : State) (c k : Nat) (f : Ctx → Ctx) : (s.modCtx c k f).blur = s.blur := rfl
@[simp] theorem State.modCtx_owed (s : State) (c k : Nat) (f : Ctx → Ctx) : (s.modCtx c k f).owed = s.owed := rfl
@[simp] theorem State.modCtx_io (s : State) (c k : Nat) (f : Ctx → Ctx) : (s.modCtx c k f).io = s.io := rfl
@[simp] theorem State.modCtx_koyth (s : State) (c k : Nat) (f : Ctx → Ctx) : (s.modCtx c k f).koyth = s.koyth := rfl
@[simp] theorem State.modMy_curCore (s : State) (f : Core → Core) : (s.modMy f).curCore = s.curCore := rfl
@[simp] theorem State.modMy_curCtx (s : State) (f : Core → Core) : (s.modMy f).curCtx = s.curCtx := rfl
@[simp] theorem State.modMy_tick (s : State) (f : Core → Core) : (s.modMy f).tick = s.tick := rfl
@[simp] theorem State.modMy_inputs (s : State) (f : Core → Core) : (s.modMy f).inputs = s.inputs := rfl
@[simp] theorem State.modMy_mem (s : State) (f : Core → Core) : (s.modMy f).mem = s.mem := rfl
@[simp] theorem State.modMy_poison (s : State) (f : Core → Core) : (s.modMy f).poison = s.poison := rfl
@[simp] theorem State.modMy_grottos (s : State) (f : Core → Core) : (s.modMy f).grottos = s.grottos := rfl
@[simp] theorem State.modMy_dies (s : State) (f : Core → Core) : (s.modMy f).dies = s.dies := rfl
@[simp] theorem State.modMy_pearls (s : State) (f : Core → Core) : (s.modMy f).pearls = s.pearls := rfl
@[simp] theorem State.modMy_banks (s : State) (f : Core → Core) : (s.modMy f).banks = s.banks := rfl
@[simp] theorem State.modMy_launches (s : State) (f : Core → Core) : (s.modMy f).launches = s.launches := rfl
@[simp] theorem State.modMy_nextLid (s : State) (f : Core → Core) : (s.modMy f).nextLid = s.nextLid := rfl
@[simp] theorem State.modMy_nextTid (s : State) (f : Core → Core) : (s.modMy f).nextTid = s.nextTid := rfl
@[simp] theorem State.modMy_nextReq (s : State) (f : Core → Core) : (s.modMy f).nextReq = s.nextReq := rfl
@[simp] theorem State.modMy_collFar (s : State) (f : Core → Core) : (s.modMy f).collFar = s.collFar := rfl
@[simp] theorem State.modMy_collDead (s : State) (f : Core → Core) : (s.modMy f).collDead = s.collDead := rfl
@[simp] theorem State.modMy_records (s : State) (f : Core → Core) : (s.modMy f).records = s.records := rfl
@[simp] theorem State.modMy_gangs (s : State) (f : Core → Core) : (s.modMy f).gangs = s.gangs := rfl
@[simp] theorem State.modMy_nextGang (s : State) (f : Core → Core) : (s.modMy f).nextGang = s.nextGang := rfl
@[simp] theorem State.modMy_pending (s : State) (f : Core → Core) : (s.modMy f).pending = s.pending := rfl
@[simp] theorem State.modMy_launching (s : State) (f : Core → Core) : (s.modMy f).launching = s.launching := rfl
@[simp] theorem State.modMy_saved (s : State) (f : Core → Core) : (s.modMy f).saved = s.saved := rfl
@[simp] theorem State.modMy_transit (s : State) (f : Core → Core) : (s.modMy f).transit = s.transit := rfl
@[simp] theorem State.modMy_patience (s : State) (f : Core → Core) : (s.modMy f).patience = s.patience := rfl
@[simp] theorem State.modMy_rings (s : State) (f : Core → Core) : (s.modMy f).rings = s.rings := rfl
@[simp] theorem State.modMy_blur (s : State) (f : Core → Core) : (s.modMy f).blur = s.blur := rfl
@[simp] theorem State.modMy_owed (s : State) (f : Core → Core) : (s.modMy f).owed = s.owed := rfl
@[simp] theorem State.modMy_io (s : State) (f : Core → Core) : (s.modMy f).io = s.io := rfl
@[simp] theorem State.modMy_koyth (s : State) (f : Core → Core) : (s.modMy f).koyth = s.koyth := rfl
@[simp] theorem State.modMe_curCore (s : State) (f : Ctx → Ctx) : (s.modMe f).curCore = s.curCore := rfl
@[simp] theorem State.modMe_curCtx (s : State) (f : Ctx → Ctx) : (s.modMe f).curCtx = s.curCtx := rfl
@[simp] theorem State.modMe_tick (s : State) (f : Ctx → Ctx) : (s.modMe f).tick = s.tick := rfl
@[simp] theorem State.modMe_inputs (s : State) (f : Ctx → Ctx) : (s.modMe f).inputs = s.inputs := rfl
@[simp] theorem State.modMe_mem (s : State) (f : Ctx → Ctx) : (s.modMe f).mem = s.mem := rfl
@[simp] theorem State.modMe_poison (s : State) (f : Ctx → Ctx) : (s.modMe f).poison = s.poison := rfl
@[simp] theorem State.modMe_grottos (s : State) (f : Ctx → Ctx) : (s.modMe f).grottos = s.grottos := rfl
@[simp] theorem State.modMe_dies (s : State) (f : Ctx → Ctx) : (s.modMe f).dies = s.dies := rfl
@[simp] theorem State.modMe_pearls (s : State) (f : Ctx → Ctx) : (s.modMe f).pearls = s.pearls := rfl
@[simp] theorem State.modMe_banks (s : State) (f : Ctx → Ctx) : (s.modMe f).banks = s.banks := rfl
@[simp] theorem State.modMe_launches (s : State) (f : Ctx → Ctx) : (s.modMe f).launches = s.launches := rfl
@[simp] theorem State.modMe_nextLid (s : State) (f : Ctx → Ctx) : (s.modMe f).nextLid = s.nextLid := rfl
@[simp] theorem State.modMe_nextTid (s : State) (f : Ctx → Ctx) : (s.modMe f).nextTid = s.nextTid := rfl
@[simp] theorem State.modMe_nextReq (s : State) (f : Ctx → Ctx) : (s.modMe f).nextReq = s.nextReq := rfl
@[simp] theorem State.modMe_collFar (s : State) (f : Ctx → Ctx) : (s.modMe f).collFar = s.collFar := rfl
@[simp] theorem State.modMe_collDead (s : State) (f : Ctx → Ctx) : (s.modMe f).collDead = s.collDead := rfl
@[simp] theorem State.modMe_records (s : State) (f : Ctx → Ctx) : (s.modMe f).records = s.records := rfl
@[simp] theorem State.modMe_gangs (s : State) (f : Ctx → Ctx) : (s.modMe f).gangs = s.gangs := rfl
@[simp] theorem State.modMe_nextGang (s : State) (f : Ctx → Ctx) : (s.modMe f).nextGang = s.nextGang := rfl
@[simp] theorem State.modMe_pending (s : State) (f : Ctx → Ctx) : (s.modMe f).pending = s.pending := rfl
@[simp] theorem State.modMe_launching (s : State) (f : Ctx → Ctx) : (s.modMe f).launching = s.launching := rfl
@[simp] theorem State.modMe_saved (s : State) (f : Ctx → Ctx) : (s.modMe f).saved = s.saved := rfl
@[simp] theorem State.modMe_transit (s : State) (f : Ctx → Ctx) : (s.modMe f).transit = s.transit := rfl
@[simp] theorem State.modMe_patience (s : State) (f : Ctx → Ctx) : (s.modMe f).patience = s.patience := rfl
@[simp] theorem State.modMe_rings (s : State) (f : Ctx → Ctx) : (s.modMe f).rings = s.rings := rfl
@[simp] theorem State.modMe_blur (s : State) (f : Ctx → Ctx) : (s.modMe f).blur = s.blur := rfl
@[simp] theorem State.modMe_owed (s : State) (f : Ctx → Ctx) : (s.modMe f).owed = s.owed := rfl
@[simp] theorem State.modMe_io (s : State) (f : Ctx → Ctx) : (s.modMe f).io = s.io := rfl
@[simp] theorem State.modMe_koyth (s : State) (f : Ctx → Ctx) : (s.modMe f).koyth = s.koyth := rfl
@[simp] theorem State.putS_curCore (s : State) (n : Nat) (v : Word) (l : Nat) : (s.putS n v l).curCore = s.curCore := rfl
@[simp] theorem State.putS_curCtx (s : State) (n : Nat) (v : Word) (l : Nat) : (s.putS n v l).curCtx = s.curCtx := rfl
@[simp] theorem State.putS_tick (s : State) (n : Nat) (v : Word) (l : Nat) : (s.putS n v l).tick = s.tick := rfl
@[simp] theorem State.putS_inputs (s : State) (n : Nat) (v : Word) (l : Nat) : (s.putS n v l).inputs = s.inputs := rfl
@[simp] theorem State.putS_mem (s : State) (n : Nat) (v : Word) (l : Nat) : (s.putS n v l).mem = s.mem := rfl
@[simp] theorem State.putS_poison (s : State) (n : Nat) (v : Word) (l : Nat) : (s.putS n v l).poison = s.poison := rfl
@[simp] theorem State.putS_grottos (s : State) (n : Nat) (v : Word) (l : Nat) : (s.putS n v l).grottos = s.grottos := rfl
@[simp] theorem State.putS_dies (s : State) (n : Nat) (v : Word) (l : Nat) : (s.putS n v l).dies = s.dies := rfl
@[simp] theorem State.putS_pearls (s : State) (n : Nat) (v : Word) (l : Nat) : (s.putS n v l).pearls = s.pearls := rfl
@[simp] theorem State.putS_banks (s : State) (n : Nat) (v : Word) (l : Nat) : (s.putS n v l).banks = s.banks := rfl
@[simp] theorem State.putS_launches (s : State) (n : Nat) (v : Word) (l : Nat) : (s.putS n v l).launches = s.launches := rfl
@[simp] theorem State.putS_nextLid (s : State) (n : Nat) (v : Word) (l : Nat) : (s.putS n v l).nextLid = s.nextLid := rfl
@[simp] theorem State.putS_nextTid (s : State) (n : Nat) (v : Word) (l : Nat) : (s.putS n v l).nextTid = s.nextTid := rfl
@[simp] theorem State.putS_nextReq (s : State) (n : Nat) (v : Word) (l : Nat) : (s.putS n v l).nextReq = s.nextReq := rfl
@[simp] theorem State.putS_collFar (s : State) (n : Nat) (v : Word) (l : Nat) : (s.putS n v l).collFar = s.collFar := rfl
@[simp] theorem State.putS_collDead (s : State) (n : Nat) (v : Word) (l : Nat) : (s.putS n v l).collDead = s.collDead := rfl
@[simp] theorem State.putS_records (s : State) (n : Nat) (v : Word) (l : Nat) : (s.putS n v l).records = s.records := rfl
@[simp] theorem State.putS_gangs (s : State) (n : Nat) (v : Word) (l : Nat) : (s.putS n v l).gangs = s.gangs := rfl
@[simp] theorem State.putS_nextGang (s : State) (n : Nat) (v : Word) (l : Nat) : (s.putS n v l).nextGang = s.nextGang := rfl
@[simp] theorem State.putS_pending (s : State) (n : Nat) (v : Word) (l : Nat) : (s.putS n v l).pending = s.pending := rfl
@[simp] theorem State.putS_launching (s : State) (n : Nat) (v : Word) (l : Nat) : (s.putS n v l).launching = s.launching := rfl
@[simp] theorem State.putS_saved (s : State) (n : Nat) (v : Word) (l : Nat) : (s.putS n v l).saved = s.saved := rfl
@[simp] theorem State.putS_transit (s : State) (n : Nat) (v : Word) (l : Nat) : (s.putS n v l).transit = s.transit := rfl
@[simp] theorem State.putS_patience (s : State) (n : Nat) (v : Word) (l : Nat) : (s.putS n v l).patience = s.patience := rfl
@[simp] theorem State.putS_rings (s : State) (n : Nat) (v : Word) (l : Nat) : (s.putS n v l).rings = s.rings := rfl
@[simp] theorem State.putS_blur (s : State) (n : Nat) (v : Word) (l : Nat) : (s.putS n v l).blur = s.blur := rfl
@[simp] theorem State.putS_owed (s : State) (n : Nat) (v : Word) (l : Nat) : (s.putS n v l).owed = s.owed := rfl
@[simp] theorem State.putS_io (s : State) (n : Nat) (v : Word) (l : Nat) : (s.putS n v l).io = s.io := rfl
@[simp] theorem State.putS_koyth (s : State) (n : Nat) (v : Word) (l : Nat) : (s.putS n v l).koyth = s.koyth := rfl
@[simp] theorem State.putP_curCore (s : State) (n : Nat) (v : Lanes) (m : Bool) (l : Nat) : (s.putP n v m l).curCore = s.curCore := rfl
@[simp] theorem State.putP_curCtx (s : State) (n : Nat) (v : Lanes) (m : Bool) (l : Nat) : (s.putP n v m l).curCtx = s.curCtx := rfl
@[simp] theorem State.putP_tick (s : State) (n : Nat) (v : Lanes) (m : Bool) (l : Nat) : (s.putP n v m l).tick = s.tick := rfl
@[simp] theorem State.putP_inputs (s : State) (n : Nat) (v : Lanes) (m : Bool) (l : Nat) : (s.putP n v m l).inputs = s.inputs := rfl
@[simp] theorem State.putP_mem (s : State) (n : Nat) (v : Lanes) (m : Bool) (l : Nat) : (s.putP n v m l).mem = s.mem := rfl
@[simp] theorem State.putP_poison (s : State) (n : Nat) (v : Lanes) (m : Bool) (l : Nat) : (s.putP n v m l).poison = s.poison := rfl
@[simp] theorem State.putP_grottos (s : State) (n : Nat) (v : Lanes) (m : Bool) (l : Nat) : (s.putP n v m l).grottos = s.grottos := rfl
@[simp] theorem State.putP_dies (s : State) (n : Nat) (v : Lanes) (m : Bool) (l : Nat) : (s.putP n v m l).dies = s.dies := rfl
@[simp] theorem State.putP_pearls (s : State) (n : Nat) (v : Lanes) (m : Bool) (l : Nat) : (s.putP n v m l).pearls = s.pearls := rfl
@[simp] theorem State.putP_banks (s : State) (n : Nat) (v : Lanes) (m : Bool) (l : Nat) : (s.putP n v m l).banks = s.banks := rfl
@[simp] theorem State.putP_launches (s : State) (n : Nat) (v : Lanes) (m : Bool) (l : Nat) : (s.putP n v m l).launches = s.launches := rfl
@[simp] theorem State.putP_nextLid (s : State) (n : Nat) (v : Lanes) (m : Bool) (l : Nat) : (s.putP n v m l).nextLid = s.nextLid := rfl
@[simp] theorem State.putP_nextTid (s : State) (n : Nat) (v : Lanes) (m : Bool) (l : Nat) : (s.putP n v m l).nextTid = s.nextTid := rfl
@[simp] theorem State.putP_nextReq (s : State) (n : Nat) (v : Lanes) (m : Bool) (l : Nat) : (s.putP n v m l).nextReq = s.nextReq := rfl
@[simp] theorem State.putP_collFar (s : State) (n : Nat) (v : Lanes) (m : Bool) (l : Nat) : (s.putP n v m l).collFar = s.collFar := rfl
@[simp] theorem State.putP_collDead (s : State) (n : Nat) (v : Lanes) (m : Bool) (l : Nat) : (s.putP n v m l).collDead = s.collDead := rfl
@[simp] theorem State.putP_records (s : State) (n : Nat) (v : Lanes) (m : Bool) (l : Nat) : (s.putP n v m l).records = s.records := rfl
@[simp] theorem State.putP_gangs (s : State) (n : Nat) (v : Lanes) (m : Bool) (l : Nat) : (s.putP n v m l).gangs = s.gangs := rfl
@[simp] theorem State.putP_nextGang (s : State) (n : Nat) (v : Lanes) (m : Bool) (l : Nat) : (s.putP n v m l).nextGang = s.nextGang := rfl
@[simp] theorem State.putP_pending (s : State) (n : Nat) (v : Lanes) (m : Bool) (l : Nat) : (s.putP n v m l).pending = s.pending := rfl
@[simp] theorem State.putP_launching (s : State) (n : Nat) (v : Lanes) (m : Bool) (l : Nat) : (s.putP n v m l).launching = s.launching := rfl
@[simp] theorem State.putP_saved (s : State) (n : Nat) (v : Lanes) (m : Bool) (l : Nat) : (s.putP n v m l).saved = s.saved := rfl
@[simp] theorem State.putP_transit (s : State) (n : Nat) (v : Lanes) (m : Bool) (l : Nat) : (s.putP n v m l).transit = s.transit := rfl
@[simp] theorem State.putP_patience (s : State) (n : Nat) (v : Lanes) (m : Bool) (l : Nat) : (s.putP n v m l).patience = s.patience := rfl
@[simp] theorem State.putP_rings (s : State) (n : Nat) (v : Lanes) (m : Bool) (l : Nat) : (s.putP n v m l).rings = s.rings := rfl
@[simp] theorem State.putP_blur (s : State) (n : Nat) (v : Lanes) (m : Bool) (l : Nat) : (s.putP n v m l).blur = s.blur := rfl
@[simp] theorem State.putP_owed (s : State) (n : Nat) (v : Lanes) (m : Bool) (l : Nat) : (s.putP n v m l).owed = s.owed := rfl
@[simp] theorem State.putP_io (s : State) (n : Nat) (v : Lanes) (m : Bool) (l : Nat) : (s.putP n v m l).io = s.io := rfl
@[simp] theorem State.putP_koyth (s : State) (n : Nat) (v : Lanes) (m : Bool) (l : Nat) : (s.putP n v m l).koyth = s.koyth := rfl
@[simp] theorem State.setGrotto_curCore (s : State) (g : Nat) (x : Grotto) : (s.setGrotto g x).curCore = s.curCore := rfl
@[simp] theorem State.setGrotto_curCtx (s : State) (g : Nat) (x : Grotto) : (s.setGrotto g x).curCtx = s.curCtx := rfl
@[simp] theorem State.setGrotto_tick (s : State) (g : Nat) (x : Grotto) : (s.setGrotto g x).tick = s.tick := rfl
@[simp] theorem State.setGrotto_inputs (s : State) (g : Nat) (x : Grotto) : (s.setGrotto g x).inputs = s.inputs := rfl
@[simp] theorem State.setGrotto_mem (s : State) (g : Nat) (x : Grotto) : (s.setGrotto g x).mem = s.mem := rfl
@[simp] theorem State.setGrotto_poison (s : State) (g : Nat) (x : Grotto) : (s.setGrotto g x).poison = s.poison := rfl
@[simp] theorem State.setGrotto_cores (s : State) (g : Nat) (x : Grotto) : (s.setGrotto g x).cores = s.cores := rfl
@[simp] theorem State.setGrotto_dies (s : State) (g : Nat) (x : Grotto) : (s.setGrotto g x).dies = s.dies := rfl
@[simp] theorem State.setGrotto_pearls (s : State) (g : Nat) (x : Grotto) : (s.setGrotto g x).pearls = s.pearls := rfl
@[simp] theorem State.setGrotto_banks (s : State) (g : Nat) (x : Grotto) : (s.setGrotto g x).banks = s.banks := rfl
@[simp] theorem State.setGrotto_launches (s : State) (g : Nat) (x : Grotto) : (s.setGrotto g x).launches = s.launches := rfl
@[simp] theorem State.setGrotto_nextLid (s : State) (g : Nat) (x : Grotto) : (s.setGrotto g x).nextLid = s.nextLid := rfl
@[simp] theorem State.setGrotto_nextTid (s : State) (g : Nat) (x : Grotto) : (s.setGrotto g x).nextTid = s.nextTid := rfl
@[simp] theorem State.setGrotto_nextReq (s : State) (g : Nat) (x : Grotto) : (s.setGrotto g x).nextReq = s.nextReq := rfl
@[simp] theorem State.setGrotto_collFar (s : State) (g : Nat) (x : Grotto) : (s.setGrotto g x).collFar = s.collFar := rfl
@[simp] theorem State.setGrotto_collDead (s : State) (g : Nat) (x : Grotto) : (s.setGrotto g x).collDead = s.collDead := rfl
@[simp] theorem State.setGrotto_records (s : State) (g : Nat) (x : Grotto) : (s.setGrotto g x).records = s.records := rfl
@[simp] theorem State.setGrotto_gangs (s : State) (g : Nat) (x : Grotto) : (s.setGrotto g x).gangs = s.gangs := rfl
@[simp] theorem State.setGrotto_nextGang (s : State) (g : Nat) (x : Grotto) : (s.setGrotto g x).nextGang = s.nextGang := rfl
@[simp] theorem State.setGrotto_pending (s : State) (g : Nat) (x : Grotto) : (s.setGrotto g x).pending = s.pending := rfl
@[simp] theorem State.setGrotto_launching (s : State) (g : Nat) (x : Grotto) : (s.setGrotto g x).launching = s.launching := rfl
@[simp] theorem State.setGrotto_saved (s : State) (g : Nat) (x : Grotto) : (s.setGrotto g x).saved = s.saved := rfl
@[simp] theorem State.setGrotto_transit (s : State) (g : Nat) (x : Grotto) : (s.setGrotto g x).transit = s.transit := rfl
@[simp] theorem State.setGrotto_patience (s : State) (g : Nat) (x : Grotto) : (s.setGrotto g x).patience = s.patience := rfl
@[simp] theorem State.setGrotto_rings (s : State) (g : Nat) (x : Grotto) : (s.setGrotto g x).rings = s.rings := rfl
@[simp] theorem State.setGrotto_blur (s : State) (g : Nat) (x : Grotto) : (s.setGrotto g x).blur = s.blur := rfl
@[simp] theorem State.setGrotto_owed (s : State) (g : Nat) (x : Grotto) : (s.setGrotto g x).owed = s.owed := rfl
@[simp] theorem State.setGrotto_io (s : State) (g : Nat) (x : Grotto) : (s.setGrotto g x).io = s.io := rfl
@[simp] theorem State.setGrotto_koyth (s : State) (g : Nat) (x : Grotto) : (s.setGrotto g x).koyth = s.koyth := rfl
@[simp] theorem State.setDie_curCore (s : State) (d : Nat) (x : Die) : (s.setDie d x).curCore = s.curCore := rfl
@[simp] theorem State.setDie_curCtx (s : State) (d : Nat) (x : Die) : (s.setDie d x).curCtx = s.curCtx := rfl
@[simp] theorem State.setDie_tick (s : State) (d : Nat) (x : Die) : (s.setDie d x).tick = s.tick := rfl
@[simp] theorem State.setDie_inputs (s : State) (d : Nat) (x : Die) : (s.setDie d x).inputs = s.inputs := rfl
@[simp] theorem State.setDie_mem (s : State) (d : Nat) (x : Die) : (s.setDie d x).mem = s.mem := rfl
@[simp] theorem State.setDie_poison (s : State) (d : Nat) (x : Die) : (s.setDie d x).poison = s.poison := rfl
@[simp] theorem State.setDie_cores (s : State) (d : Nat) (x : Die) : (s.setDie d x).cores = s.cores := rfl
@[simp] theorem State.setDie_grottos (s : State) (d : Nat) (x : Die) : (s.setDie d x).grottos = s.grottos := rfl
@[simp] theorem State.setDie_pearls (s : State) (d : Nat) (x : Die) : (s.setDie d x).pearls = s.pearls := rfl
@[simp] theorem State.setDie_banks (s : State) (d : Nat) (x : Die) : (s.setDie d x).banks = s.banks := rfl
@[simp] theorem State.setDie_launches (s : State) (d : Nat) (x : Die) : (s.setDie d x).launches = s.launches := rfl
@[simp] theorem State.setDie_nextLid (s : State) (d : Nat) (x : Die) : (s.setDie d x).nextLid = s.nextLid := rfl
@[simp] theorem State.setDie_nextTid (s : State) (d : Nat) (x : Die) : (s.setDie d x).nextTid = s.nextTid := rfl
@[simp] theorem State.setDie_nextReq (s : State) (d : Nat) (x : Die) : (s.setDie d x).nextReq = s.nextReq := rfl
@[simp] theorem State.setDie_collFar (s : State) (d : Nat) (x : Die) : (s.setDie d x).collFar = s.collFar := rfl
@[simp] theorem State.setDie_collDead (s : State) (d : Nat) (x : Die) : (s.setDie d x).collDead = s.collDead := rfl
@[simp] theorem State.setDie_records (s : State) (d : Nat) (x : Die) : (s.setDie d x).records = s.records := rfl
@[simp] theorem State.setDie_gangs (s : State) (d : Nat) (x : Die) : (s.setDie d x).gangs = s.gangs := rfl
@[simp] theorem State.setDie_nextGang (s : State) (d : Nat) (x : Die) : (s.setDie d x).nextGang = s.nextGang := rfl
@[simp] theorem State.setDie_pending (s : State) (d : Nat) (x : Die) : (s.setDie d x).pending = s.pending := rfl
@[simp] theorem State.setDie_launching (s : State) (d : Nat) (x : Die) : (s.setDie d x).launching = s.launching := rfl
@[simp] theorem State.setDie_saved (s : State) (d : Nat) (x : Die) : (s.setDie d x).saved = s.saved := rfl
@[simp] theorem State.setDie_transit (s : State) (d : Nat) (x : Die) : (s.setDie d x).transit = s.transit := rfl
@[simp] theorem State.setDie_patience (s : State) (d : Nat) (x : Die) : (s.setDie d x).patience = s.patience := rfl
@[simp] theorem State.setDie_rings (s : State) (d : Nat) (x : Die) : (s.setDie d x).rings = s.rings := rfl
@[simp] theorem State.setDie_blur (s : State) (d : Nat) (x : Die) : (s.setDie d x).blur = s.blur := rfl
@[simp] theorem State.setDie_owed (s : State) (d : Nat) (x : Die) : (s.setDie d x).owed = s.owed := rfl
@[simp] theorem State.setDie_io (s : State) (d : Nat) (x : Die) : (s.setDie d x).io = s.io := rfl
@[simp] theorem State.setDie_koyth (s : State) (d : Nat) (x : Die) : (s.setDie d x).koyth = s.koyth := rfl
@[simp] theorem State.setPearl_curCore (s : State) (b : Nat) (x : Pearl) : (s.setPearl b x).curCore = s.curCore := rfl
@[simp] theorem State.setPearl_curCtx (s : State) (b : Nat) (x : Pearl) : (s.setPearl b x).curCtx = s.curCtx := rfl
@[simp] theorem State.setPearl_tick (s : State) (b : Nat) (x : Pearl) : (s.setPearl b x).tick = s.tick := rfl
@[simp] theorem State.setPearl_inputs (s : State) (b : Nat) (x : Pearl) : (s.setPearl b x).inputs = s.inputs := rfl
@[simp] theorem State.setPearl_mem (s : State) (b : Nat) (x : Pearl) : (s.setPearl b x).mem = s.mem := rfl
@[simp] theorem State.setPearl_poison (s : State) (b : Nat) (x : Pearl) : (s.setPearl b x).poison = s.poison := rfl
@[simp] theorem State.setPearl_cores (s : State) (b : Nat) (x : Pearl) : (s.setPearl b x).cores = s.cores := rfl
@[simp] theorem State.setPearl_grottos (s : State) (b : Nat) (x : Pearl) : (s.setPearl b x).grottos = s.grottos := rfl
@[simp] theorem State.setPearl_dies (s : State) (b : Nat) (x : Pearl) : (s.setPearl b x).dies = s.dies := rfl
@[simp] theorem State.setPearl_banks (s : State) (b : Nat) (x : Pearl) : (s.setPearl b x).banks = s.banks := rfl
@[simp] theorem State.setPearl_launches (s : State) (b : Nat) (x : Pearl) : (s.setPearl b x).launches = s.launches := rfl
@[simp] theorem State.setPearl_nextLid (s : State) (b : Nat) (x : Pearl) : (s.setPearl b x).nextLid = s.nextLid := rfl
@[simp] theorem State.setPearl_nextTid (s : State) (b : Nat) (x : Pearl) : (s.setPearl b x).nextTid = s.nextTid := rfl
@[simp] theorem State.setPearl_nextReq (s : State) (b : Nat) (x : Pearl) : (s.setPearl b x).nextReq = s.nextReq := rfl
@[simp] theorem State.setPearl_collFar (s : State) (b : Nat) (x : Pearl) : (s.setPearl b x).collFar = s.collFar := rfl
@[simp] theorem State.setPearl_collDead (s : State) (b : Nat) (x : Pearl) : (s.setPearl b x).collDead = s.collDead := rfl
@[simp] theorem State.setPearl_records (s : State) (b : Nat) (x : Pearl) : (s.setPearl b x).records = s.records := rfl
@[simp] theorem State.setPearl_gangs (s : State) (b : Nat) (x : Pearl) : (s.setPearl b x).gangs = s.gangs := rfl
@[simp] theorem State.setPearl_nextGang (s : State) (b : Nat) (x : Pearl) : (s.setPearl b x).nextGang = s.nextGang := rfl
@[simp] theorem State.setPearl_pending (s : State) (b : Nat) (x : Pearl) : (s.setPearl b x).pending = s.pending := rfl
@[simp] theorem State.setPearl_launching (s : State) (b : Nat) (x : Pearl) : (s.setPearl b x).launching = s.launching := rfl
@[simp] theorem State.setPearl_saved (s : State) (b : Nat) (x : Pearl) : (s.setPearl b x).saved = s.saved := rfl
@[simp] theorem State.setPearl_transit (s : State) (b : Nat) (x : Pearl) : (s.setPearl b x).transit = s.transit := rfl
@[simp] theorem State.setPearl_patience (s : State) (b : Nat) (x : Pearl) : (s.setPearl b x).patience = s.patience := rfl
@[simp] theorem State.setPearl_rings (s : State) (b : Nat) (x : Pearl) : (s.setPearl b x).rings = s.rings := rfl
@[simp] theorem State.setPearl_blur (s : State) (b : Nat) (x : Pearl) : (s.setPearl b x).blur = s.blur := rfl
@[simp] theorem State.setPearl_owed (s : State) (b : Nat) (x : Pearl) : (s.setPearl b x).owed = s.owed := rfl
@[simp] theorem State.setPearl_io (s : State) (b : Nat) (x : Pearl) : (s.setPearl b x).io = s.io := rfl
@[simp] theorem State.setPearl_koyth (s : State) (b : Nat) (x : Pearl) : (s.setPearl b x).koyth = s.koyth := rfl
@[simp] theorem State.setByte_curCore (s : State) (a : Nat) (v : Byte) : (s.setByte a v).curCore = s.curCore := rfl
@[simp] theorem State.setByte_curCtx (s : State) (a : Nat) (v : Byte) : (s.setByte a v).curCtx = s.curCtx := rfl
@[simp] theorem State.setByte_tick (s : State) (a : Nat) (v : Byte) : (s.setByte a v).tick = s.tick := rfl
@[simp] theorem State.setByte_inputs (s : State) (a : Nat) (v : Byte) : (s.setByte a v).inputs = s.inputs := rfl
@[simp] theorem State.setByte_poison (s : State) (a : Nat) (v : Byte) : (s.setByte a v).poison = s.poison := rfl
@[simp] theorem State.setByte_cores (s : State) (a : Nat) (v : Byte) : (s.setByte a v).cores = s.cores := rfl
@[simp] theorem State.setByte_grottos (s : State) (a : Nat) (v : Byte) : (s.setByte a v).grottos = s.grottos := rfl
@[simp] theorem State.setByte_dies (s : State) (a : Nat) (v : Byte) : (s.setByte a v).dies = s.dies := rfl
@[simp] theorem State.setByte_pearls (s : State) (a : Nat) (v : Byte) : (s.setByte a v).pearls = s.pearls := rfl
@[simp] theorem State.setByte_banks (s : State) (a : Nat) (v : Byte) : (s.setByte a v).banks = s.banks := rfl
@[simp] theorem State.setByte_launches (s : State) (a : Nat) (v : Byte) : (s.setByte a v).launches = s.launches := rfl
@[simp] theorem State.setByte_nextLid (s : State) (a : Nat) (v : Byte) : (s.setByte a v).nextLid = s.nextLid := rfl
@[simp] theorem State.setByte_nextTid (s : State) (a : Nat) (v : Byte) : (s.setByte a v).nextTid = s.nextTid := rfl
@[simp] theorem State.setByte_nextReq (s : State) (a : Nat) (v : Byte) : (s.setByte a v).nextReq = s.nextReq := rfl
@[simp] theorem State.setByte_collFar (s : State) (a : Nat) (v : Byte) : (s.setByte a v).collFar = s.collFar := rfl
@[simp] theorem State.setByte_collDead (s : State) (a : Nat) (v : Byte) : (s.setByte a v).collDead = s.collDead := rfl
@[simp] theorem State.setByte_records (s : State) (a : Nat) (v : Byte) : (s.setByte a v).records = s.records := rfl
@[simp] theorem State.setByte_gangs (s : State) (a : Nat) (v : Byte) : (s.setByte a v).gangs = s.gangs := rfl
@[simp] theorem State.setByte_nextGang (s : State) (a : Nat) (v : Byte) : (s.setByte a v).nextGang = s.nextGang := rfl
@[simp] theorem State.setByte_pending (s : State) (a : Nat) (v : Byte) : (s.setByte a v).pending = s.pending := rfl
@[simp] theorem State.setByte_launching (s : State) (a : Nat) (v : Byte) : (s.setByte a v).launching = s.launching := rfl
@[simp] theorem State.setByte_saved (s : State) (a : Nat) (v : Byte) : (s.setByte a v).saved = s.saved := rfl
@[simp] theorem State.setByte_transit (s : State) (a : Nat) (v : Byte) : (s.setByte a v).transit = s.transit := rfl
@[simp] theorem State.setByte_patience (s : State) (a : Nat) (v : Byte) : (s.setByte a v).patience = s.patience := rfl
@[simp] theorem State.setByte_rings (s : State) (a : Nat) (v : Byte) : (s.setByte a v).rings = s.rings := rfl
@[simp] theorem State.setByte_blur (s : State) (a : Nat) (v : Byte) : (s.setByte a v).blur = s.blur := rfl
@[simp] theorem State.setByte_owed (s : State) (a : Nat) (v : Byte) : (s.setByte a v).owed = s.owed := rfl
@[simp] theorem State.setByte_io (s : State) (a : Nat) (v : Byte) : (s.setByte a v).io = s.io := rfl
@[simp] theorem State.setByte_koyth (s : State) (a : Nat) (v : Byte) : (s.setByte a v).koyth = s.koyth := rfl
@[simp] theorem State.putBytes_curCore (s : State) (a : Nat) (l : List Byte) : (s.putBytes a l).curCore = s.curCore := rfl
@[simp] theorem State.putBytes_curCtx (s : State) (a : Nat) (l : List Byte) : (s.putBytes a l).curCtx = s.curCtx := rfl
@[simp] theorem State.putBytes_tick (s : State) (a : Nat) (l : List Byte) : (s.putBytes a l).tick = s.tick := rfl
@[simp] theorem State.putBytes_inputs (s : State) (a : Nat) (l : List Byte) : (s.putBytes a l).inputs = s.inputs := rfl
@[simp] theorem State.putBytes_poison (s : State) (a : Nat) (l : List Byte) : (s.putBytes a l).poison = s.poison := rfl
@[simp] theorem State.putBytes_cores (s : State) (a : Nat) (l : List Byte) : (s.putBytes a l).cores = s.cores := rfl
@[simp] theorem State.putBytes_grottos (s : State) (a : Nat) (l : List Byte) : (s.putBytes a l).grottos = s.grottos := rfl
@[simp] theorem State.putBytes_dies (s : State) (a : Nat) (l : List Byte) : (s.putBytes a l).dies = s.dies := rfl
@[simp] theorem State.putBytes_pearls (s : State) (a : Nat) (l : List Byte) : (s.putBytes a l).pearls = s.pearls := rfl
@[simp] theorem State.putBytes_banks (s : State) (a : Nat) (l : List Byte) : (s.putBytes a l).banks = s.banks := rfl
@[simp] theorem State.putBytes_launches (s : State) (a : Nat) (l : List Byte) : (s.putBytes a l).launches = s.launches := rfl
@[simp] theorem State.putBytes_nextLid (s : State) (a : Nat) (l : List Byte) : (s.putBytes a l).nextLid = s.nextLid := rfl
@[simp] theorem State.putBytes_nextTid (s : State) (a : Nat) (l : List Byte) : (s.putBytes a l).nextTid = s.nextTid := rfl
@[simp] theorem State.putBytes_nextReq (s : State) (a : Nat) (l : List Byte) : (s.putBytes a l).nextReq = s.nextReq := rfl
@[simp] theorem State.putBytes_collFar (s : State) (a : Nat) (l : List Byte) : (s.putBytes a l).collFar = s.collFar := rfl
@[simp] theorem State.putBytes_collDead (s : State) (a : Nat) (l : List Byte) : (s.putBytes a l).collDead = s.collDead := rfl
@[simp] theorem State.putBytes_records (s : State) (a : Nat) (l : List Byte) : (s.putBytes a l).records = s.records := rfl
@[simp] theorem State.putBytes_gangs (s : State) (a : Nat) (l : List Byte) : (s.putBytes a l).gangs = s.gangs := rfl
@[simp] theorem State.putBytes_nextGang (s : State) (a : Nat) (l : List Byte) : (s.putBytes a l).nextGang = s.nextGang := rfl
@[simp] theorem State.putBytes_pending (s : State) (a : Nat) (l : List Byte) : (s.putBytes a l).pending = s.pending := rfl
@[simp] theorem State.putBytes_launching (s : State) (a : Nat) (l : List Byte) : (s.putBytes a l).launching = s.launching := rfl
@[simp] theorem State.putBytes_saved (s : State) (a : Nat) (l : List Byte) : (s.putBytes a l).saved = s.saved := rfl
@[simp] theorem State.putBytes_transit (s : State) (a : Nat) (l : List Byte) : (s.putBytes a l).transit = s.transit := rfl
@[simp] theorem State.putBytes_patience (s : State) (a : Nat) (l : List Byte) : (s.putBytes a l).patience = s.patience := rfl
@[simp] theorem State.putBytes_rings (s : State) (a : Nat) (l : List Byte) : (s.putBytes a l).rings = s.rings := rfl
@[simp] theorem State.putBytes_blur (s : State) (a : Nat) (l : List Byte) : (s.putBytes a l).blur = s.blur := rfl
@[simp] theorem State.putBytes_owed (s : State) (a : Nat) (l : List Byte) : (s.putBytes a l).owed = s.owed := rfl
@[simp] theorem State.putBytes_io (s : State) (a : Nat) (l : List Byte) : (s.putBytes a l).io = s.io := rfl
@[simp] theorem State.putBytes_koyth (s : State) (a : Nat) (l : List Byte) : (s.putBytes a l).koyth = s.koyth := rfl
@[simp] theorem Core.setCtx_started (x : Core) (k : Nat) (t : Ctx) : (x.setCtx k t).started = x.started := rfl
@[simp] theorem Core.setCtx_clock (x : Core) (k : Nat) (t : Ctx) : (x.setCtx k t).clock = x.clock := rfl
@[simp] theorem Core.setCtx_rng (x : Core) (k : Nat) (t : Ctx) : (x.setCtx k t).rng = x.rng := rfl
@[simp] theorem Core.setCtx_seed (x : Core) (k : Nat) (t : Ctx) : (x.setCtx k t).seed = x.seed := rfl
@[simp] theorem Core.setCtx_last (x : Core) (k : Nat) (t : Ctx) : (x.setCtx k t).last = x.last := rfl
@[simp] theorem Core.setCtx_issued (x : Core) (k : Nat) (t : Ctx) : (x.setCtx k t).issued = x.issued := rfl
@[simp] theorem Core.setCtx_space (x : Core) (k : Nat) (t : Ctx) : (x.setCtx k t).space = x.space := rfl
@[simp] theorem Core.setCtx_tags (x : Core) (k : Nat) (t : Ctx) : (x.setCtx k t).tags = x.tags := rfl
@[simp] theorem Core.setCtx_sides (x : Core) (k : Nat) (t : Ctx) : (x.setCtx k t).sides = x.sides := rfl
@[simp] theorem Core.setCtx_bank (x : Core) (k : Nat) (t : Ctx) : (x.setCtx k t).bank = x.bank := rfl
@[simp] theorem Core.setCtx_bad (x : Core) (k : Nat) (t : Ctx) : (x.setCtx k t).bad = x.bad := rfl
@[simp] theorem Core.setCtx_landings (x : Core) (k : Nat) (t : Ctx) : (x.setCtx k t).landings = x.landings := rfl
@[simp] theorem Core.setCtx_tabs (x : Core) (k : Nat) (t : Ctx) : (x.setCtx k t).tabs = x.tabs := rfl
@[simp] theorem Core.setCtx_evcnt (x : Core) (k : Nat) (t : Ctx) : (x.setCtx k t).evcnt = x.evcnt := rfl
@[simp] theorem Core.setCtx_evterm (x : Core) (k : Nat) (t : Ctx) : (x.setCtx k t).evterm = x.evterm := rfl
@[simp] theorem Core.setCtx_pulses (x : Core) (k : Nat) (t : Ctx) : (x.setCtx k t).pulses = x.pulses := rfl
@[simp] theorem Core.setCtx_slots (x : Core) (k : Nat) (t : Ctx) : (x.setCtx k t).slots = x.slots := rfl
@[simp] theorem Core.setCtx_cmds (x : Core) (k : Nat) (t : Ctx) : (x.setCtx k t).cmds = x.cmds := rfl
@[simp] theorem Core.setCtx_nextCmd (x : Core) (k : Nat) (t : Ctx) : (x.setCtx k t).nextCmd = x.nextCmd := rfl
@[simp] theorem Core.setCtx_collSeq (x : Core) (k : Nat) (t : Ctx) : (x.setCtx k t).collSeq = x.collSeq := rfl
@[simp] theorem Core.setCtx_regions (x : Core) (k : Nat) (t : Ctx) : (x.setCtx k t).regions = x.regions := rfl
@[simp] theorem Core.setCtx_macs (x : Core) (k : Nat) (t : Ctx) : (x.setCtx k t).macs = x.macs := rfl
@[simp] theorem Core.setCtx_allowM (x : Core) (k : Nat) (t : Ctx) : (x.setCtx k t).allowM = x.allowM := rfl
@[simp] theorem Core.setCtx_allowX (x : Core) (k : Nat) (t : Ctx) : (x.setCtx k t).allowX = x.allowX := rfl
@[simp] theorem Core.setCtx_tiles (x : Core) (k : Nat) (t : Ctx) : (x.setCtx k t).tiles = x.tiles := rfl
@[simp] theorem Core.setCtx_handlers (x : Core) (k : Nat) (t : Ctx) : (x.setCtx k t).handlers = x.handlers := rfl
@[simp] theorem Core.setCtx_handlerRun (x : Core) (k : Nat) (t : Ctx) : (x.setCtx k t).handlerRun = x.handlerRun := rfl
@[simp] theorem Core.setCtx_ltags (x : Core) (k : Nat) (t : Ctx) : (x.setCtx k t).ltags = x.ltags := rfl
@[simp] theorem Core.setCtx_tlb (x : Core) (k : Nat) (t : Ctx) : (x.setCtx k t).tlb = x.tlb := rfl
@[simp] theorem Core.setCtx_l2tlb (x : Core) (k : Nat) (t : Ctx) : (x.setCtx k t).l2tlb = x.l2tlb := rfl
@[simp] theorem Core.setCtx_ptrs (x : Core) (k : Nat) (t : Ctx) : (x.setCtx k t).ptrs = x.ptrs := rfl
@[simp] theorem Core.setCtx_asked (x : Core) (k : Nat) (t : Ctx) : (x.setCtx k t).asked = x.asked := rfl
@[simp] theorem Core.setCtx_icache (x : Core) (k : Nat) (t : Ctx) : (x.setCtx k t).icache = x.icache := rfl
@[simp] theorem Core.setCtx_fwvec (x : Core) (k : Nat) (t : Ctx) : (x.setCtx k t).fwvec = x.fwvec := rfl
@[simp] theorem Core.setCtx_errs (x : Core) (k : Nat) (t : Ctx) : (x.setCtx k t).errs = x.errs := rfl
@[simp] theorem Core.setCtx_retired (x : Core) (k : Nat) (t : Ctx) : (x.setCtx k t).retired = x.retired := rfl
@[simp] theorem Core.setGran_started (x : Core) (g : Nat) (v : Granule) : (x.setGran g v).started = x.started := rfl
@[simp] theorem Core.setGran_clock (x : Core) (g : Nat) (v : Granule) : (x.setGran g v).clock = x.clock := rfl
@[simp] theorem Core.setGran_rng (x : Core) (g : Nat) (v : Granule) : (x.setGran g v).rng = x.rng := rfl
@[simp] theorem Core.setGran_seed (x : Core) (g : Nat) (v : Granule) : (x.setGran g v).seed = x.seed := rfl
@[simp] theorem Core.setGran_last (x : Core) (g : Nat) (v : Granule) : (x.setGran g v).last = x.last := rfl
@[simp] theorem Core.setGran_issued (x : Core) (g : Nat) (v : Granule) : (x.setGran g v).issued = x.issued := rfl
@[simp] theorem Core.setGran_ctxs (x : Core) (g : Nat) (v : Granule) : (x.setGran g v).ctxs = x.ctxs := rfl
@[simp] theorem Core.setGran_tags (x : Core) (g : Nat) (v : Granule) : (x.setGran g v).tags = x.tags := rfl
@[simp] theorem Core.setGran_sides (x : Core) (g : Nat) (v : Granule) : (x.setGran g v).sides = x.sides := rfl
@[simp] theorem Core.setGran_bank (x : Core) (g : Nat) (v : Granule) : (x.setGran g v).bank = x.bank := rfl
@[simp] theorem Core.setGran_bad (x : Core) (g : Nat) (v : Granule) : (x.setGran g v).bad = x.bad := rfl
@[simp] theorem Core.setGran_landings (x : Core) (g : Nat) (v : Granule) : (x.setGran g v).landings = x.landings := rfl
@[simp] theorem Core.setGran_tabs (x : Core) (g : Nat) (v : Granule) : (x.setGran g v).tabs = x.tabs := rfl
@[simp] theorem Core.setGran_evcnt (x : Core) (g : Nat) (v : Granule) : (x.setGran g v).evcnt = x.evcnt := rfl
@[simp] theorem Core.setGran_evterm (x : Core) (g : Nat) (v : Granule) : (x.setGran g v).evterm = x.evterm := rfl
@[simp] theorem Core.setGran_pulses (x : Core) (g : Nat) (v : Granule) : (x.setGran g v).pulses = x.pulses := rfl
@[simp] theorem Core.setGran_slots (x : Core) (g : Nat) (v : Granule) : (x.setGran g v).slots = x.slots := rfl
@[simp] theorem Core.setGran_cmds (x : Core) (g : Nat) (v : Granule) : (x.setGran g v).cmds = x.cmds := rfl
@[simp] theorem Core.setGran_nextCmd (x : Core) (g : Nat) (v : Granule) : (x.setGran g v).nextCmd = x.nextCmd := rfl
@[simp] theorem Core.setGran_collSeq (x : Core) (g : Nat) (v : Granule) : (x.setGran g v).collSeq = x.collSeq := rfl
@[simp] theorem Core.setGran_regions (x : Core) (g : Nat) (v : Granule) : (x.setGran g v).regions = x.regions := rfl
@[simp] theorem Core.setGran_macs (x : Core) (g : Nat) (v : Granule) : (x.setGran g v).macs = x.macs := rfl
@[simp] theorem Core.setGran_allowM (x : Core) (g : Nat) (v : Granule) : (x.setGran g v).allowM = x.allowM := rfl
@[simp] theorem Core.setGran_allowX (x : Core) (g : Nat) (v : Granule) : (x.setGran g v).allowX = x.allowX := rfl
@[simp] theorem Core.setGran_tiles (x : Core) (g : Nat) (v : Granule) : (x.setGran g v).tiles = x.tiles := rfl
@[simp] theorem Core.setGran_handlers (x : Core) (g : Nat) (v : Granule) : (x.setGran g v).handlers = x.handlers := rfl
@[simp] theorem Core.setGran_handlerRun (x : Core) (g : Nat) (v : Granule) : (x.setGran g v).handlerRun = x.handlerRun := rfl
@[simp] theorem Core.setGran_ltags (x : Core) (g : Nat) (v : Granule) : (x.setGran g v).ltags = x.ltags := rfl
@[simp] theorem Core.setGran_tlb (x : Core) (g : Nat) (v : Granule) : (x.setGran g v).tlb = x.tlb := rfl
@[simp] theorem Core.setGran_l2tlb (x : Core) (g : Nat) (v : Granule) : (x.setGran g v).l2tlb = x.l2tlb := rfl
@[simp] theorem Core.setGran_ptrs (x : Core) (g : Nat) (v : Granule) : (x.setGran g v).ptrs = x.ptrs := rfl
@[simp] theorem Core.setGran_asked (x : Core) (g : Nat) (v : Granule) : (x.setGran g v).asked = x.asked := rfl
@[simp] theorem Core.setGran_icache (x : Core) (g : Nat) (v : Granule) : (x.setGran g v).icache = x.icache := rfl
@[simp] theorem Core.setGran_fwvec (x : Core) (g : Nat) (v : Granule) : (x.setGran g v).fwvec = x.fwvec := rfl
@[simp] theorem Core.setGran_errs (x : Core) (g : Nat) (v : Granule) : (x.setGran g v).errs = x.errs := rfl
@[simp] theorem Core.setGran_retired (x : Core) (g : Nat) (v : Granule) : (x.setGran g v).retired = x.retired := rfl
@[simp] theorem Core.setTag_started (x : Core) (g : Nat) (v : Tag) : (x.setTag g v).started = x.started := rfl
@[simp] theorem Core.setTag_clock (x : Core) (g : Nat) (v : Tag) : (x.setTag g v).clock = x.clock := rfl
@[simp] theorem Core.setTag_rng (x : Core) (g : Nat) (v : Tag) : (x.setTag g v).rng = x.rng := rfl
@[simp] theorem Core.setTag_seed (x : Core) (g : Nat) (v : Tag) : (x.setTag g v).seed = x.seed := rfl
@[simp] theorem Core.setTag_last (x : Core) (g : Nat) (v : Tag) : (x.setTag g v).last = x.last := rfl
@[simp] theorem Core.setTag_issued (x : Core) (g : Nat) (v : Tag) : (x.setTag g v).issued = x.issued := rfl
@[simp] theorem Core.setTag_ctxs (x : Core) (g : Nat) (v : Tag) : (x.setTag g v).ctxs = x.ctxs := rfl
@[simp] theorem Core.setTag_space (x : Core) (g : Nat) (v : Tag) : (x.setTag g v).space = x.space := rfl
@[simp] theorem Core.setTag_sides (x : Core) (g : Nat) (v : Tag) : (x.setTag g v).sides = x.sides := rfl
@[simp] theorem Core.setTag_bank (x : Core) (g : Nat) (v : Tag) : (x.setTag g v).bank = x.bank := rfl
@[simp] theorem Core.setTag_bad (x : Core) (g : Nat) (v : Tag) : (x.setTag g v).bad = x.bad := rfl
@[simp] theorem Core.setTag_landings (x : Core) (g : Nat) (v : Tag) : (x.setTag g v).landings = x.landings := rfl
@[simp] theorem Core.setTag_tabs (x : Core) (g : Nat) (v : Tag) : (x.setTag g v).tabs = x.tabs := rfl
@[simp] theorem Core.setTag_evcnt (x : Core) (g : Nat) (v : Tag) : (x.setTag g v).evcnt = x.evcnt := rfl
@[simp] theorem Core.setTag_evterm (x : Core) (g : Nat) (v : Tag) : (x.setTag g v).evterm = x.evterm := rfl
@[simp] theorem Core.setTag_pulses (x : Core) (g : Nat) (v : Tag) : (x.setTag g v).pulses = x.pulses := rfl
@[simp] theorem Core.setTag_slots (x : Core) (g : Nat) (v : Tag) : (x.setTag g v).slots = x.slots := rfl
@[simp] theorem Core.setTag_cmds (x : Core) (g : Nat) (v : Tag) : (x.setTag g v).cmds = x.cmds := rfl
@[simp] theorem Core.setTag_nextCmd (x : Core) (g : Nat) (v : Tag) : (x.setTag g v).nextCmd = x.nextCmd := rfl
@[simp] theorem Core.setTag_collSeq (x : Core) (g : Nat) (v : Tag) : (x.setTag g v).collSeq = x.collSeq := rfl
@[simp] theorem Core.setTag_regions (x : Core) (g : Nat) (v : Tag) : (x.setTag g v).regions = x.regions := rfl
@[simp] theorem Core.setTag_macs (x : Core) (g : Nat) (v : Tag) : (x.setTag g v).macs = x.macs := rfl
@[simp] theorem Core.setTag_allowM (x : Core) (g : Nat) (v : Tag) : (x.setTag g v).allowM = x.allowM := rfl
@[simp] theorem Core.setTag_allowX (x : Core) (g : Nat) (v : Tag) : (x.setTag g v).allowX = x.allowX := rfl
@[simp] theorem Core.setTag_tiles (x : Core) (g : Nat) (v : Tag) : (x.setTag g v).tiles = x.tiles := rfl
@[simp] theorem Core.setTag_handlers (x : Core) (g : Nat) (v : Tag) : (x.setTag g v).handlers = x.handlers := rfl
@[simp] theorem Core.setTag_handlerRun (x : Core) (g : Nat) (v : Tag) : (x.setTag g v).handlerRun = x.handlerRun := rfl
@[simp] theorem Core.setTag_ltags (x : Core) (g : Nat) (v : Tag) : (x.setTag g v).ltags = x.ltags := rfl
@[simp] theorem Core.setTag_tlb (x : Core) (g : Nat) (v : Tag) : (x.setTag g v).tlb = x.tlb := rfl
@[simp] theorem Core.setTag_l2tlb (x : Core) (g : Nat) (v : Tag) : (x.setTag g v).l2tlb = x.l2tlb := rfl
@[simp] theorem Core.setTag_ptrs (x : Core) (g : Nat) (v : Tag) : (x.setTag g v).ptrs = x.ptrs := rfl
@[simp] theorem Core.setTag_asked (x : Core) (g : Nat) (v : Tag) : (x.setTag g v).asked = x.asked := rfl
@[simp] theorem Core.setTag_icache (x : Core) (g : Nat) (v : Tag) : (x.setTag g v).icache = x.icache := rfl
@[simp] theorem Core.setTag_fwvec (x : Core) (g : Nat) (v : Tag) : (x.setTag g v).fwvec = x.fwvec := rfl
@[simp] theorem Core.setTag_errs (x : Core) (g : Nat) (v : Tag) : (x.setTag g v).errs = x.errs := rfl
@[simp] theorem Core.setTag_retired (x : Core) (g : Nat) (v : Tag) : (x.setTag g v).retired = x.retired := rfl
@[simp] theorem Core.setSide_started (x : Core) (r : Nat) (v : BitVec 32) : (x.setSide r v).started = x.started := rfl
@[simp] theorem Core.setSide_clock (x : Core) (r : Nat) (v : BitVec 32) : (x.setSide r v).clock = x.clock := rfl
@[simp] theorem Core.setSide_rng (x : Core) (r : Nat) (v : BitVec 32) : (x.setSide r v).rng = x.rng := rfl
@[simp] theorem Core.setSide_seed (x : Core) (r : Nat) (v : BitVec 32) : (x.setSide r v).seed = x.seed := rfl
@[simp] theorem Core.setSide_last (x : Core) (r : Nat) (v : BitVec 32) : (x.setSide r v).last = x.last := rfl
@[simp] theorem Core.setSide_issued (x : Core) (r : Nat) (v : BitVec 32) : (x.setSide r v).issued = x.issued := rfl
@[simp] theorem Core.setSide_ctxs (x : Core) (r : Nat) (v : BitVec 32) : (x.setSide r v).ctxs = x.ctxs := rfl
@[simp] theorem Core.setSide_space (x : Core) (r : Nat) (v : BitVec 32) : (x.setSide r v).space = x.space := rfl
@[simp] theorem Core.setSide_tags (x : Core) (r : Nat) (v : BitVec 32) : (x.setSide r v).tags = x.tags := rfl
@[simp] theorem Core.setSide_bank (x : Core) (r : Nat) (v : BitVec 32) : (x.setSide r v).bank = x.bank := rfl
@[simp] theorem Core.setSide_bad (x : Core) (r : Nat) (v : BitVec 32) : (x.setSide r v).bad = x.bad := rfl
@[simp] theorem Core.setSide_landings (x : Core) (r : Nat) (v : BitVec 32) : (x.setSide r v).landings = x.landings := rfl
@[simp] theorem Core.setSide_tabs (x : Core) (r : Nat) (v : BitVec 32) : (x.setSide r v).tabs = x.tabs := rfl
@[simp] theorem Core.setSide_evcnt (x : Core) (r : Nat) (v : BitVec 32) : (x.setSide r v).evcnt = x.evcnt := rfl
@[simp] theorem Core.setSide_evterm (x : Core) (r : Nat) (v : BitVec 32) : (x.setSide r v).evterm = x.evterm := rfl
@[simp] theorem Core.setSide_pulses (x : Core) (r : Nat) (v : BitVec 32) : (x.setSide r v).pulses = x.pulses := rfl
@[simp] theorem Core.setSide_slots (x : Core) (r : Nat) (v : BitVec 32) : (x.setSide r v).slots = x.slots := rfl
@[simp] theorem Core.setSide_cmds (x : Core) (r : Nat) (v : BitVec 32) : (x.setSide r v).cmds = x.cmds := rfl
@[simp] theorem Core.setSide_nextCmd (x : Core) (r : Nat) (v : BitVec 32) : (x.setSide r v).nextCmd = x.nextCmd := rfl
@[simp] theorem Core.setSide_collSeq (x : Core) (r : Nat) (v : BitVec 32) : (x.setSide r v).collSeq = x.collSeq := rfl
@[simp] theorem Core.setSide_regions (x : Core) (r : Nat) (v : BitVec 32) : (x.setSide r v).regions = x.regions := rfl
@[simp] theorem Core.setSide_macs (x : Core) (r : Nat) (v : BitVec 32) : (x.setSide r v).macs = x.macs := rfl
@[simp] theorem Core.setSide_allowM (x : Core) (r : Nat) (v : BitVec 32) : (x.setSide r v).allowM = x.allowM := rfl
@[simp] theorem Core.setSide_allowX (x : Core) (r : Nat) (v : BitVec 32) : (x.setSide r v).allowX = x.allowX := rfl
@[simp] theorem Core.setSide_tiles (x : Core) (r : Nat) (v : BitVec 32) : (x.setSide r v).tiles = x.tiles := rfl
@[simp] theorem Core.setSide_handlers (x : Core) (r : Nat) (v : BitVec 32) : (x.setSide r v).handlers = x.handlers := rfl
@[simp] theorem Core.setSide_handlerRun (x : Core) (r : Nat) (v : BitVec 32) : (x.setSide r v).handlerRun = x.handlerRun := rfl
@[simp] theorem Core.setSide_ltags (x : Core) (r : Nat) (v : BitVec 32) : (x.setSide r v).ltags = x.ltags := rfl
@[simp] theorem Core.setSide_tlb (x : Core) (r : Nat) (v : BitVec 32) : (x.setSide r v).tlb = x.tlb := rfl
@[simp] theorem Core.setSide_l2tlb (x : Core) (r : Nat) (v : BitVec 32) : (x.setSide r v).l2tlb = x.l2tlb := rfl
@[simp] theorem Core.setSide_ptrs (x : Core) (r : Nat) (v : BitVec 32) : (x.setSide r v).ptrs = x.ptrs := rfl
@[simp] theorem Core.setSide_asked (x : Core) (r : Nat) (v : BitVec 32) : (x.setSide r v).asked = x.asked := rfl
@[simp] theorem Core.setSide_icache (x : Core) (r : Nat) (v : BitVec 32) : (x.setSide r v).icache = x.icache := rfl
@[simp] theorem Core.setSide_fwvec (x : Core) (r : Nat) (v : BitVec 32) : (x.setSide r v).fwvec = x.fwvec := rfl
@[simp] theorem Core.setSide_errs (x : Core) (r : Nat) (v : BitVec 32) : (x.setSide r v).errs = x.errs := rfl
@[simp] theorem Core.setSide_retired (x : Core) (r : Nat) (v : BitVec 32) : (x.setSide r v).retired = x.retired := rfl
@[simp] theorem Ctx.setBt_pc (x : Ctx) (n : Nat) (v : Word) : (x.setBt n v).pc = x.pc := rfl
@[simp] theorem Ctx.setBt_level (x : Ctx) (n : Nat) (v : Word) : (x.setBt n v).level = x.level := rfl
@[simp] theorem Ctx.setBt_sregs (x : Ctx) (n : Nat) (v : Word) : (x.setBt n v).sregs = x.sregs := rfl
@[simp] theorem Ctx.setBt_preds (x : Ctx) (n : Nat) (v : Word) : (x.setBt n v).preds = x.preds := rfl
@[simp] theorem Ctx.setBt_marks (x : Ctx) (n : Nat) (v : Word) : (x.setBt n v).marks = x.marks := rfl
@[simp] theorem Ctx.setBt_loops (x : Ctx) (n : Nat) (v : Word) : (x.setBt n v).loops = x.loops := rfl
@[simp] theorem Ctx.setBt_delay (x : Ctx) (n : Nat) (v : Word) : (x.setBt n v).delay = x.delay := rfl
@[simp] theorem Ctx.setBt_viewV (x : Ctx) (n : Nat) (v : Word) : (x.setBt n v).viewV = x.viewV := rfl
@[simp] theorem Ctx.setBt_viewT (x : Ctx) (n : Nat) (v : Word) : (x.setBt n v).viewT = x.viewT := rfl
@[simp] theorem Ctx.setBt_grant (x : Ctx) (n : Nat) (v : Word) : (x.setBt n v).grant = x.grant := rfl
@[simp] theorem Ctx.setBt_trapBase (x : Ctx) (n : Nat) (v : Word) : (x.setBt n v).trapBase = x.trapBase := rfl
@[simp] theorem Ctx.setBt_trapCause (x : Ctx) (n : Nat) (v : Word) : (x.setBt n v).trapCause = x.trapCause := rfl
@[simp] theorem Ctx.setBt_trapPc (x : Ctx) (n : Nat) (v : Word) : (x.setBt n v).trapPc = x.trapPc := rfl
@[simp] theorem Ctx.setBt_trapInfo (x : Ctx) (n : Nat) (v : Word) : (x.setBt n v).trapInfo = x.trapInfo := rfl
@[simp] theorem Ctx.setBt_dbgPend (x : Ctx) (n : Nat) (v : Word) : (x.setBt n v).dbgPend = x.dbgPend := rfl
@[simp] theorem Ctx.setBt_dbgLayout (x : Ctx) (n : Nat) (v : Word) : (x.setBt n v).dbgLayout = x.dbgLayout := rfl
@[simp] theorem Ctx.setBt_engPoison (x : Ctx) (n : Nat) (v : Word) : (x.setBt n v).engPoison = x.engPoison := rfl
@[simp] theorem Ctx.setBt_poisonNow (x : Ctx) (n : Nat) (v : Word) : (x.setBt n v).poisonNow = x.poisonNow := rfl
@[simp] theorem Ctx.setBt_engStatus (x : Ctx) (n : Nat) (v : Word) : (x.setBt n v).engStatus = x.engStatus := rfl
@[simp] theorem Ctx.setBt_resv (x : Ctx) (n : Nat) (v : Word) : (x.setBt n v).resv = x.resv := rfl
@[simp] theorem Ctx.setBt_spin (x : Ctx) (n : Nat) (v : Word) : (x.setBt n v).spin = x.spin := rfl
@[simp] theorem Ctx.setBt_acc (x : Ctx) (n : Nat) (v : Word) : (x.setBt n v).acc = x.acc := rfl
@[simp] theorem Ctx.setBt_busy (x : Ctx) (n : Nat) (v : Word) : (x.setBt n v).busy = x.busy := rfl
@[simp] theorem Ctx.setBt_discard (x : Ctx) (n : Nat) (v : Word) : (x.setBt n v).discard = x.discard := rfl
@[simp] theorem Ctx.setBt_task (x : Ctx) (n : Nat) (v : Word) : (x.setBt n v).task = x.task := rfl
@[simp] theorem Ctx.setBt_run (x : Ctx) (n : Nat) (v : Word) : (x.setBt n v).run = x.run := rfl
@[simp] theorem Ctx.setBt_since (x : Ctx) (n : Nat) (v : Word) : (x.setBt n v).since = x.since := rfl
@[simp] theorem Ctx.setBt_yieldTo (x : Ctx) (n : Nat) (v : Word) : (x.setBt n v).yieldTo = x.yieldTo := rfl
@[simp] theorem Ctx.setBt_query (x : Ctx) (n : Nat) (v : Word) : (x.setBt n v).query = x.query := rfl
@[simp] theorem Ctx.setBt_win (x : Ctx) (n : Nat) (v : Word) : (x.setBt n v).win = x.win := rfl
@[simp] theorem Ctx.setBt_held (x : Ctx) (n : Nat) (v : Word) : (x.setBt n v).held = x.held := rfl
@[simp] theorem Ctx.setBt_stall (x : Ctx) (n : Nat) (v : Word) : (x.setBt n v).stall = x.stall := rfl
@[simp] theorem Ctx.setBt_fenceh (x : Ctx) (n : Nat) (v : Word) : (x.setBt n v).fenceh = x.fenceh := rfl
@[simp] theorem Ctx.setBt_preempt (x : Ctx) (n : Nat) (v : Word) : (x.setBt n v).preempt = x.preempt := rfl
@[simp] theorem Ctx.setBt_lastLid (x : Ctx) (n : Nat) (v : Word) : (x.setBt n v).lastLid = x.lastLid := rfl
@[simp] theorem Ctx.setBt_engFail (x : Ctx) (n : Nat) (v : Word) : (x.setBt n v).engFail = x.engFail := rfl
@[simp] theorem Ctx.setBt_pulsed (x : Ctx) (n : Nat) (v : Word) : (x.setBt n v).pulsed = x.pulsed := rfl
@[simp] theorem Ctx.setLoop_pc (x : Ctx) (l : Nat) (v : LoopLevel) : (x.setLoop l v).pc = x.pc := rfl
@[simp] theorem Ctx.setLoop_level (x : Ctx) (l : Nat) (v : LoopLevel) : (x.setLoop l v).level = x.level := rfl
@[simp] theorem Ctx.setLoop_sregs (x : Ctx) (l : Nat) (v : LoopLevel) : (x.setLoop l v).sregs = x.sregs := rfl
@[simp] theorem Ctx.setLoop_preds (x : Ctx) (l : Nat) (v : LoopLevel) : (x.setLoop l v).preds = x.preds := rfl
@[simp] theorem Ctx.setLoop_marks (x : Ctx) (l : Nat) (v : LoopLevel) : (x.setLoop l v).marks = x.marks := rfl
@[simp] theorem Ctx.setLoop_bts (x : Ctx) (l : Nat) (v : LoopLevel) : (x.setLoop l v).bts = x.bts := rfl
@[simp] theorem Ctx.setLoop_delay (x : Ctx) (l : Nat) (v : LoopLevel) : (x.setLoop l v).delay = x.delay := rfl
@[simp] theorem Ctx.setLoop_viewV (x : Ctx) (l : Nat) (v : LoopLevel) : (x.setLoop l v).viewV = x.viewV := rfl
@[simp] theorem Ctx.setLoop_viewT (x : Ctx) (l : Nat) (v : LoopLevel) : (x.setLoop l v).viewT = x.viewT := rfl
@[simp] theorem Ctx.setLoop_grant (x : Ctx) (l : Nat) (v : LoopLevel) : (x.setLoop l v).grant = x.grant := rfl
@[simp] theorem Ctx.setLoop_trapBase (x : Ctx) (l : Nat) (v : LoopLevel) : (x.setLoop l v).trapBase = x.trapBase := rfl
@[simp] theorem Ctx.setLoop_trapCause (x : Ctx) (l : Nat) (v : LoopLevel) : (x.setLoop l v).trapCause = x.trapCause := rfl
@[simp] theorem Ctx.setLoop_trapPc (x : Ctx) (l : Nat) (v : LoopLevel) : (x.setLoop l v).trapPc = x.trapPc := rfl
@[simp] theorem Ctx.setLoop_trapInfo (x : Ctx) (l : Nat) (v : LoopLevel) : (x.setLoop l v).trapInfo = x.trapInfo := rfl
@[simp] theorem Ctx.setLoop_dbgPend (x : Ctx) (l : Nat) (v : LoopLevel) : (x.setLoop l v).dbgPend = x.dbgPend := rfl
@[simp] theorem Ctx.setLoop_dbgLayout (x : Ctx) (l : Nat) (v : LoopLevel) : (x.setLoop l v).dbgLayout = x.dbgLayout := rfl
@[simp] theorem Ctx.setLoop_engPoison (x : Ctx) (l : Nat) (v : LoopLevel) : (x.setLoop l v).engPoison = x.engPoison := rfl
@[simp] theorem Ctx.setLoop_poisonNow (x : Ctx) (l : Nat) (v : LoopLevel) : (x.setLoop l v).poisonNow = x.poisonNow := rfl
@[simp] theorem Ctx.setLoop_engStatus (x : Ctx) (l : Nat) (v : LoopLevel) : (x.setLoop l v).engStatus = x.engStatus := rfl
@[simp] theorem Ctx.setLoop_resv (x : Ctx) (l : Nat) (v : LoopLevel) : (x.setLoop l v).resv = x.resv := rfl
@[simp] theorem Ctx.setLoop_spin (x : Ctx) (l : Nat) (v : LoopLevel) : (x.setLoop l v).spin = x.spin := rfl
@[simp] theorem Ctx.setLoop_acc (x : Ctx) (l : Nat) (v : LoopLevel) : (x.setLoop l v).acc = x.acc := rfl
@[simp] theorem Ctx.setLoop_busy (x : Ctx) (l : Nat) (v : LoopLevel) : (x.setLoop l v).busy = x.busy := rfl
@[simp] theorem Ctx.setLoop_discard (x : Ctx) (l : Nat) (v : LoopLevel) : (x.setLoop l v).discard = x.discard := rfl
@[simp] theorem Ctx.setLoop_task (x : Ctx) (l : Nat) (v : LoopLevel) : (x.setLoop l v).task = x.task := rfl
@[simp] theorem Ctx.setLoop_run (x : Ctx) (l : Nat) (v : LoopLevel) : (x.setLoop l v).run = x.run := rfl
@[simp] theorem Ctx.setLoop_since (x : Ctx) (l : Nat) (v : LoopLevel) : (x.setLoop l v).since = x.since := rfl
@[simp] theorem Ctx.setLoop_yieldTo (x : Ctx) (l : Nat) (v : LoopLevel) : (x.setLoop l v).yieldTo = x.yieldTo := rfl
@[simp] theorem Ctx.setLoop_query (x : Ctx) (l : Nat) (v : LoopLevel) : (x.setLoop l v).query = x.query := rfl
@[simp] theorem Ctx.setLoop_win (x : Ctx) (l : Nat) (v : LoopLevel) : (x.setLoop l v).win = x.win := rfl
@[simp] theorem Ctx.setLoop_held (x : Ctx) (l : Nat) (v : LoopLevel) : (x.setLoop l v).held = x.held := rfl
@[simp] theorem Ctx.setLoop_stall (x : Ctx) (l : Nat) (v : LoopLevel) : (x.setLoop l v).stall = x.stall := rfl
@[simp] theorem Ctx.setLoop_fenceh (x : Ctx) (l : Nat) (v : LoopLevel) : (x.setLoop l v).fenceh = x.fenceh := rfl
@[simp] theorem Ctx.setLoop_preempt (x : Ctx) (l : Nat) (v : LoopLevel) : (x.setLoop l v).preempt = x.preempt := rfl
@[simp] theorem Ctx.setLoop_lastLid (x : Ctx) (l : Nat) (v : LoopLevel) : (x.setLoop l v).lastLid = x.lastLid := rfl
@[simp] theorem Ctx.setLoop_engFail (x : Ctx) (l : Nat) (v : LoopLevel) : (x.setLoop l v).engFail = x.engFail := rfl
@[simp] theorem Ctx.setLoop_pulsed (x : Ctx) (l : Nat) (v : LoopLevel) : (x.setLoop l v).pulsed = x.pulsed := rfl
@[simp] theorem Ctx.stopClear_pc (x : Ctx) : (x.stopClear).pc = x.pc := rfl
@[simp] theorem Ctx.stopClear_level (x : Ctx) : (x.stopClear).level = x.level := rfl
@[simp] theorem Ctx.stopClear_sregs (x : Ctx) : (x.stopClear).sregs = x.sregs := rfl
@[simp] theorem Ctx.stopClear_preds (x : Ctx) : (x.stopClear).preds = x.preds := rfl
@[simp] theorem Ctx.stopClear_marks (x : Ctx) : (x.stopClear).marks = x.marks := rfl
@[simp] theorem Ctx.stopClear_bts (x : Ctx) : (x.stopClear).bts = x.bts := rfl
@[simp] theorem Ctx.stopClear_loops (x : Ctx) : (x.stopClear).loops = x.loops := rfl
@[simp] theorem Ctx.stopClear_delay (x : Ctx) : (x.stopClear).delay = x.delay := rfl
@[simp] theorem Ctx.stopClear_viewV (x : Ctx) : (x.stopClear).viewV = x.viewV := rfl
@[simp] theorem Ctx.stopClear_viewT (x : Ctx) : (x.stopClear).viewT = x.viewT := rfl
@[simp] theorem Ctx.stopClear_grant (x : Ctx) : (x.stopClear).grant = x.grant := rfl
@[simp] theorem Ctx.stopClear_trapBase (x : Ctx) : (x.stopClear).trapBase = x.trapBase := rfl
@[simp] theorem Ctx.stopClear_trapCause (x : Ctx) : (x.stopClear).trapCause = x.trapCause := rfl
@[simp] theorem Ctx.stopClear_trapPc (x : Ctx) : (x.stopClear).trapPc = x.trapPc := rfl
@[simp] theorem Ctx.stopClear_trapInfo (x : Ctx) : (x.stopClear).trapInfo = x.trapInfo := rfl
@[simp] theorem Ctx.stopClear_dbgPend (x : Ctx) : (x.stopClear).dbgPend = x.dbgPend := rfl
@[simp] theorem Ctx.stopClear_dbgLayout (x : Ctx) : (x.stopClear).dbgLayout = x.dbgLayout := rfl
@[simp] theorem Ctx.stopClear_engPoison (x : Ctx) : (x.stopClear).engPoison = x.engPoison := rfl
@[simp] theorem Ctx.stopClear_poisonNow (x : Ctx) : (x.stopClear).poisonNow = x.poisonNow := rfl
@[simp] theorem Ctx.stopClear_engStatus (x : Ctx) : (x.stopClear).engStatus = x.engStatus := rfl
@[simp] theorem Ctx.stopClear_acc (x : Ctx) : (x.stopClear).acc = x.acc := rfl
@[simp] theorem Ctx.stopClear_busy (x : Ctx) : (x.stopClear).busy = x.busy := rfl
@[simp] theorem Ctx.stopClear_discard (x : Ctx) : (x.stopClear).discard = x.discard := rfl
@[simp] theorem Ctx.stopClear_task (x : Ctx) : (x.stopClear).task = x.task := rfl
@[simp] theorem Ctx.stopClear_run (x : Ctx) : (x.stopClear).run = x.run := rfl
@[simp] theorem Ctx.stopClear_since (x : Ctx) : (x.stopClear).since = x.since := rfl
@[simp] theorem Ctx.stopClear_yieldTo (x : Ctx) : (x.stopClear).yieldTo = x.yieldTo := rfl
@[simp] theorem Ctx.stopClear_held (x : Ctx) : (x.stopClear).held = x.held := rfl
@[simp] theorem Ctx.stopClear_stall (x : Ctx) : (x.stopClear).stall = x.stall := rfl
@[simp] theorem Ctx.stopClear_preempt (x : Ctx) : (x.stopClear).preempt = x.preempt := rfl
@[simp] theorem Ctx.stopClear_lastLid (x : Ctx) : (x.stopClear).lastLid = x.lastLid := rfl
@[simp] theorem Ctx.stopClear_engFail (x : Ctx) : (x.stopClear).engFail = x.engFail := rfl
@[simp] theorem Ctx.stopClear_pulsed (x : Ctx) : (x.stopClear).pulsed = x.pulsed := rfl
@[simp] theorem Ctx.counted_pc (x : Ctx) : (x.counted).pc = x.pc := rfl
@[simp] theorem Ctx.counted_level (x : Ctx) : (x.counted).level = x.level := rfl
@[simp] theorem Ctx.counted_sregs (x : Ctx) : (x.counted).sregs = x.sregs := rfl
@[simp] theorem Ctx.counted_preds (x : Ctx) : (x.counted).preds = x.preds := rfl
@[simp] theorem Ctx.counted_marks (x : Ctx) : (x.counted).marks = x.marks := rfl
@[simp] theorem Ctx.counted_bts (x : Ctx) : (x.counted).bts = x.bts := rfl
@[simp] theorem Ctx.counted_loops (x : Ctx) : (x.counted).loops = x.loops := rfl
@[simp] theorem Ctx.counted_delay (x : Ctx) : (x.counted).delay = x.delay := rfl
@[simp] theorem Ctx.counted_viewV (x : Ctx) : (x.counted).viewV = x.viewV := rfl
@[simp] theorem Ctx.counted_viewT (x : Ctx) : (x.counted).viewT = x.viewT := rfl
@[simp] theorem Ctx.counted_grant (x : Ctx) : (x.counted).grant = x.grant := rfl
@[simp] theorem Ctx.counted_trapBase (x : Ctx) : (x.counted).trapBase = x.trapBase := rfl
@[simp] theorem Ctx.counted_trapCause (x : Ctx) : (x.counted).trapCause = x.trapCause := rfl
@[simp] theorem Ctx.counted_trapPc (x : Ctx) : (x.counted).trapPc = x.trapPc := rfl
@[simp] theorem Ctx.counted_trapInfo (x : Ctx) : (x.counted).trapInfo = x.trapInfo := rfl
@[simp] theorem Ctx.counted_dbgPend (x : Ctx) : (x.counted).dbgPend = x.dbgPend := rfl
@[simp] theorem Ctx.counted_dbgLayout (x : Ctx) : (x.counted).dbgLayout = x.dbgLayout := rfl
@[simp] theorem Ctx.counted_engPoison (x : Ctx) : (x.counted).engPoison = x.engPoison := rfl
@[simp] theorem Ctx.counted_poisonNow (x : Ctx) : (x.counted).poisonNow = x.poisonNow := rfl
@[simp] theorem Ctx.counted_engStatus (x : Ctx) : (x.counted).engStatus = x.engStatus := rfl
@[simp] theorem Ctx.counted_spin (x : Ctx) : (x.counted).spin = x.spin := rfl
@[simp] theorem Ctx.counted_busy (x : Ctx) : (x.counted).busy = x.busy := rfl
@[simp] theorem Ctx.counted_discard (x : Ctx) : (x.counted).discard = x.discard := rfl
@[simp] theorem Ctx.counted_task (x : Ctx) : (x.counted).task = x.task := rfl
@[simp] theorem Ctx.counted_run (x : Ctx) : (x.counted).run = x.run := rfl
@[simp] theorem Ctx.counted_since (x : Ctx) : (x.counted).since = x.since := rfl
@[simp] theorem Ctx.counted_yieldTo (x : Ctx) : (x.counted).yieldTo = x.yieldTo := rfl
@[simp] theorem Ctx.counted_query (x : Ctx) : (x.counted).query = x.query := rfl
@[simp] theorem Ctx.counted_win (x : Ctx) : (x.counted).win = x.win := rfl
@[simp] theorem Ctx.counted_held (x : Ctx) : (x.counted).held = x.held := rfl
@[simp] theorem Ctx.counted_stall (x : Ctx) : (x.counted).stall = x.stall := rfl
@[simp] theorem Ctx.counted_fenceh (x : Ctx) : (x.counted).fenceh = x.fenceh := rfl
@[simp] theorem Ctx.counted_preempt (x : Ctx) : (x.counted).preempt = x.preempt := rfl
@[simp] theorem Ctx.counted_lastLid (x : Ctx) : (x.counted).lastLid = x.lastLid := rfl
@[simp] theorem Ctx.counted_engFail (x : Ctx) : (x.counted).engFail = x.engFail := rfl
@[simp] theorem Ctx.counted_pulsed (x : Ctx) : (x.counted).pulsed = x.pulsed := rfl
@[simp] theorem Ctx.trapReturn_sregs (x : Ctx) : (x.trapReturn).sregs = x.sregs := rfl
@[simp] theorem Ctx.trapReturn_preds (x : Ctx) : (x.trapReturn).preds = x.preds := rfl
@[simp] theorem Ctx.trapReturn_marks (x : Ctx) : (x.trapReturn).marks = x.marks := rfl
@[simp] theorem Ctx.trapReturn_bts (x : Ctx) : (x.trapReturn).bts = x.bts := rfl
@[simp] theorem Ctx.trapReturn_loops (x : Ctx) : (x.trapReturn).loops = x.loops := rfl
@[simp] theorem Ctx.trapReturn_delay (x : Ctx) : (x.trapReturn).delay = x.delay := rfl
@[simp] theorem Ctx.trapReturn_viewV (x : Ctx) : (x.trapReturn).viewV = x.viewV := rfl
@[simp] theorem Ctx.trapReturn_viewT (x : Ctx) : (x.trapReturn).viewT = x.viewT := rfl
@[simp] theorem Ctx.trapReturn_grant (x : Ctx) : (x.trapReturn).grant = x.grant := rfl
@[simp] theorem Ctx.trapReturn_trapBase (x : Ctx) : (x.trapReturn).trapBase = x.trapBase := rfl
@[simp] theorem Ctx.trapReturn_trapCause (x : Ctx) : (x.trapReturn).trapCause = x.trapCause := rfl
@[simp] theorem Ctx.trapReturn_trapPc (x : Ctx) : (x.trapReturn).trapPc = x.trapPc := rfl
@[simp] theorem Ctx.trapReturn_trapInfo (x : Ctx) : (x.trapReturn).trapInfo = x.trapInfo := rfl
@[simp] theorem Ctx.trapReturn_dbgPend (x : Ctx) : (x.trapReturn).dbgPend = x.dbgPend := rfl
@[simp] theorem Ctx.trapReturn_dbgLayout (x : Ctx) : (x.trapReturn).dbgLayout = x.dbgLayout := rfl
@[simp] theorem Ctx.trapReturn_engPoison (x : Ctx) : (x.trapReturn).engPoison = x.engPoison := rfl
@[simp] theorem Ctx.trapReturn_poisonNow (x : Ctx) : (x.trapReturn).poisonNow = x.poisonNow := rfl
@[simp] theorem Ctx.trapReturn_engStatus (x : Ctx) : (x.trapReturn).engStatus = x.engStatus := rfl
@[simp] theorem Ctx.trapReturn_spin (x : Ctx) : (x.trapReturn).spin = x.spin := rfl
@[simp] theorem Ctx.trapReturn_acc (x : Ctx) : (x.trapReturn).acc = x.acc := rfl
@[simp] theorem Ctx.trapReturn_busy (x : Ctx) : (x.trapReturn).busy = x.busy := rfl
@[simp] theorem Ctx.trapReturn_discard (x : Ctx) : (x.trapReturn).discard = x.discard := rfl
@[simp] theorem Ctx.trapReturn_task (x : Ctx) : (x.trapReturn).task = x.task := rfl
@[simp] theorem Ctx.trapReturn_run (x : Ctx) : (x.trapReturn).run = x.run := rfl
@[simp] theorem Ctx.trapReturn_since (x : Ctx) : (x.trapReturn).since = x.since := rfl
@[simp] theorem Ctx.trapReturn_yieldTo (x : Ctx) : (x.trapReturn).yieldTo = x.yieldTo := rfl
@[simp] theorem Ctx.trapReturn_query (x : Ctx) : (x.trapReturn).query = x.query := rfl
@[simp] theorem Ctx.trapReturn_win (x : Ctx) : (x.trapReturn).win = x.win := rfl
@[simp] theorem Ctx.trapReturn_held (x : Ctx) : (x.trapReturn).held = x.held := rfl
@[simp] theorem Ctx.trapReturn_stall (x : Ctx) : (x.trapReturn).stall = x.stall := rfl
@[simp] theorem Ctx.trapReturn_fenceh (x : Ctx) : (x.trapReturn).fenceh = x.fenceh := rfl
@[simp] theorem Ctx.trapReturn_preempt (x : Ctx) : (x.trapReturn).preempt = x.preempt := rfl
@[simp] theorem Ctx.trapReturn_lastLid (x : Ctx) : (x.trapReturn).lastLid = x.lastLid := rfl
@[simp] theorem Ctx.trapReturn_engFail (x : Ctx) : (x.trapReturn).engFail = x.engFail := rfl
@[simp] theorem Ctx.trapReturn_pulsed (x : Ctx) : (x.trapReturn).pulsed = x.pulsed := rfl
@[simp] theorem Ctx.enterTrap_sregs (fw : Word) (x : Ctx) (n : Nat) (v pc : Word) : (Ctx.enterTrap fw x n v pc).sregs = x.sregs := rfl
@[simp] theorem Ctx.enterTrap_preds (fw : Word) (x : Ctx) (n : Nat) (v pc : Word) : (Ctx.enterTrap fw x n v pc).preds = x.preds := rfl
@[simp] theorem Ctx.enterTrap_marks (fw : Word) (x : Ctx) (n : Nat) (v pc : Word) : (Ctx.enterTrap fw x n v pc).marks = x.marks := rfl
@[simp] theorem Ctx.enterTrap_bts (fw : Word) (x : Ctx) (n : Nat) (v pc : Word) : (Ctx.enterTrap fw x n v pc).bts = x.bts := rfl
@[simp] theorem Ctx.enterTrap_loops (fw : Word) (x : Ctx) (n : Nat) (v pc : Word) : (Ctx.enterTrap fw x n v pc).loops = x.loops := rfl
@[simp] theorem Ctx.enterTrap_viewV (fw : Word) (x : Ctx) (n : Nat) (v pc : Word) : (Ctx.enterTrap fw x n v pc).viewV = x.viewV := rfl
@[simp] theorem Ctx.enterTrap_viewT (fw : Word) (x : Ctx) (n : Nat) (v pc : Word) : (Ctx.enterTrap fw x n v pc).viewT = x.viewT := rfl
@[simp] theorem Ctx.enterTrap_grant (fw : Word) (x : Ctx) (n : Nat) (v pc : Word) : (Ctx.enterTrap fw x n v pc).grant = x.grant := rfl
@[simp] theorem Ctx.enterTrap_trapBase (fw : Word) (x : Ctx) (n : Nat) (v pc : Word) : (Ctx.enterTrap fw x n v pc).trapBase = x.trapBase := rfl
@[simp] theorem Ctx.enterTrap_dbgPend (fw : Word) (x : Ctx) (n : Nat) (v pc : Word) : (Ctx.enterTrap fw x n v pc).dbgPend = x.dbgPend := rfl
@[simp] theorem Ctx.enterTrap_dbgLayout (fw : Word) (x : Ctx) (n : Nat) (v pc : Word) : (Ctx.enterTrap fw x n v pc).dbgLayout = x.dbgLayout := rfl
@[simp] theorem Ctx.enterTrap_engPoison (fw : Word) (x : Ctx) (n : Nat) (v pc : Word) : (Ctx.enterTrap fw x n v pc).engPoison = x.engPoison := rfl
@[simp] theorem Ctx.enterTrap_poisonNow (fw : Word) (x : Ctx) (n : Nat) (v pc : Word) : (Ctx.enterTrap fw x n v pc).poisonNow = x.poisonNow := rfl
@[simp] theorem Ctx.enterTrap_engStatus (fw : Word) (x : Ctx) (n : Nat) (v pc : Word) : (Ctx.enterTrap fw x n v pc).engStatus = x.engStatus := rfl
@[simp] theorem Ctx.enterTrap_acc (fw : Word) (x : Ctx) (n : Nat) (v pc : Word) : (Ctx.enterTrap fw x n v pc).acc = x.acc := rfl
@[simp] theorem Ctx.enterTrap_busy (fw : Word) (x : Ctx) (n : Nat) (v pc : Word) : (Ctx.enterTrap fw x n v pc).busy = x.busy := rfl
@[simp] theorem Ctx.enterTrap_discard (fw : Word) (x : Ctx) (n : Nat) (v pc : Word) : (Ctx.enterTrap fw x n v pc).discard = x.discard := rfl
@[simp] theorem Ctx.enterTrap_task (fw : Word) (x : Ctx) (n : Nat) (v pc : Word) : (Ctx.enterTrap fw x n v pc).task = x.task := rfl
@[simp] theorem Ctx.enterTrap_since (fw : Word) (x : Ctx) (n : Nat) (v pc : Word) : (Ctx.enterTrap fw x n v pc).since = x.since := rfl
@[simp] theorem Ctx.enterTrap_yieldTo (fw : Word) (x : Ctx) (n : Nat) (v pc : Word) : (Ctx.enterTrap fw x n v pc).yieldTo = x.yieldTo := rfl
@[simp] theorem Ctx.enterTrap_held (fw : Word) (x : Ctx) (n : Nat) (v pc : Word) : (Ctx.enterTrap fw x n v pc).held = x.held := rfl
@[simp] theorem Ctx.enterTrap_stall (fw : Word) (x : Ctx) (n : Nat) (v pc : Word) : (Ctx.enterTrap fw x n v pc).stall = x.stall := rfl
@[simp] theorem Ctx.enterTrap_preempt (fw : Word) (x : Ctx) (n : Nat) (v pc : Word) : (Ctx.enterTrap fw x n v pc).preempt = x.preempt := rfl
@[simp] theorem Ctx.enterTrap_lastLid (fw : Word) (x : Ctx) (n : Nat) (v pc : Word) : (Ctx.enterTrap fw x n v pc).lastLid = x.lastLid := rfl
@[simp] theorem Ctx.enterTrap_engFail (fw : Word) (x : Ctx) (n : Nat) (v pc : Word) : (Ctx.enterTrap fw x n v pc).engFail = x.engFail := rfl
@[simp] theorem Ctx.enterTrap_pulsed (fw : Word) (x : Ctx) (n : Nat) (v pc : Word) : (Ctx.enterTrap fw x n v pc).pulsed = x.pulsed := rfl

@[simp] theorem Ctx.supersede_pc (x : Ctx) (n : Nat) : (x.supersede n).pc = x.pc := rfl
@[simp] theorem Ctx.supersede_level (x : Ctx) (n : Nat) : (x.supersede n).level = x.level := rfl
@[simp] theorem Ctx.supersede_preds (x : Ctx) (n : Nat) : (x.supersede n).preds = x.preds := rfl
@[simp] theorem Ctx.supersede_marks (x : Ctx) (n : Nat) : (x.supersede n).marks = x.marks := rfl
@[simp] theorem Ctx.supersede_bts (x : Ctx) (n : Nat) : (x.supersede n).bts = x.bts := rfl
@[simp] theorem Ctx.supersede_loops (x : Ctx) (n : Nat) : (x.supersede n).loops = x.loops := rfl
@[simp] theorem Ctx.supersede_delay (x : Ctx) (n : Nat) : (x.supersede n).delay = x.delay := rfl
@[simp] theorem Ctx.supersede_viewV (x : Ctx) (n : Nat) : (x.supersede n).viewV = x.viewV := rfl
@[simp] theorem Ctx.supersede_viewT (x : Ctx) (n : Nat) : (x.supersede n).viewT = x.viewT := rfl
@[simp] theorem Ctx.supersede_grant (x : Ctx) (n : Nat) : (x.supersede n).grant = x.grant := rfl
@[simp] theorem Ctx.supersede_trapBase (x : Ctx) (n : Nat) : (x.supersede n).trapBase = x.trapBase := rfl
@[simp] theorem Ctx.supersede_trapCause (x : Ctx) (n : Nat) : (x.supersede n).trapCause = x.trapCause := rfl
@[simp] theorem Ctx.supersede_trapPc (x : Ctx) (n : Nat) : (x.supersede n).trapPc = x.trapPc := rfl
@[simp] theorem Ctx.supersede_trapInfo (x : Ctx) (n : Nat) : (x.supersede n).trapInfo = x.trapInfo := rfl
@[simp] theorem Ctx.supersede_dbgPend (x : Ctx) (n : Nat) : (x.supersede n).dbgPend = x.dbgPend := rfl
@[simp] theorem Ctx.supersede_dbgLayout (x : Ctx) (n : Nat) : (x.supersede n).dbgLayout = x.dbgLayout := rfl
@[simp] theorem Ctx.supersede_engPoison (x : Ctx) (n : Nat) : (x.supersede n).engPoison = x.engPoison := rfl
@[simp] theorem Ctx.supersede_poisonNow (x : Ctx) (n : Nat) : (x.supersede n).poisonNow = x.poisonNow := rfl
@[simp] theorem Ctx.supersede_engStatus (x : Ctx) (n : Nat) : (x.supersede n).engStatus = x.engStatus := rfl
@[simp] theorem Ctx.supersede_resv (x : Ctx) (n : Nat) : (x.supersede n).resv = x.resv := rfl
@[simp] theorem Ctx.supersede_spin (x : Ctx) (n : Nat) : (x.supersede n).spin = x.spin := rfl
@[simp] theorem Ctx.supersede_busy (x : Ctx) (n : Nat) : (x.supersede n).busy = x.busy := rfl
@[simp] theorem Ctx.supersede_discard (x : Ctx) (n : Nat) : (x.supersede n).discard = x.discard := rfl
@[simp] theorem Ctx.supersede_task (x : Ctx) (n : Nat) : (x.supersede n).task = x.task := rfl
@[simp] theorem Ctx.supersede_run (x : Ctx) (n : Nat) : (x.supersede n).run = x.run := rfl
@[simp] theorem Ctx.supersede_since (x : Ctx) (n : Nat) : (x.supersede n).since = x.since := rfl
@[simp] theorem Ctx.supersede_yieldTo (x : Ctx) (n : Nat) : (x.supersede n).yieldTo = x.yieldTo := rfl
@[simp] theorem Ctx.supersede_query (x : Ctx) (n : Nat) : (x.supersede n).query = x.query := rfl
@[simp] theorem Ctx.supersede_win (x : Ctx) (n : Nat) : (x.supersede n).win = x.win := rfl
@[simp] theorem Ctx.supersede_held (x : Ctx) (n : Nat) : (x.supersede n).held = x.held := rfl
@[simp] theorem Ctx.supersede_stall (x : Ctx) (n : Nat) : (x.supersede n).stall = x.stall := rfl
@[simp] theorem Ctx.supersede_fenceh (x : Ctx) (n : Nat) : (x.supersede n).fenceh = x.fenceh := rfl
@[simp] theorem Ctx.supersede_preempt (x : Ctx) (n : Nat) : (x.supersede n).preempt = x.preempt := rfl
@[simp] theorem Ctx.supersede_lastLid (x : Ctx) (n : Nat) : (x.supersede n).lastLid = x.lastLid := rfl
@[simp] theorem Ctx.supersede_engFail (x : Ctx) (n : Nat) : (x.supersede n).engFail = x.engFail := rfl
@[simp] theorem Ctx.supersede_pulsed (x : Ctx) (n : Nat) : (x.supersede n).pulsed = x.pulsed := rfl
@[simp] theorem Ctx.supersede_sregs (x : Ctx) (n : Nat) : (x.supersede n).sregs = x.sregs := rfl
/-- No outstanding load will write a superseded register (R77). -/
theorem Ctx.supersede_free (x : Ctx) (n : Nat) (h : n ≠ 0) (a : Access) (ha : a ∈ (x.supersede n).acc) : a.kind.dst ≠ n := by
  simp only [Ctx.supersede, List.mem_map] at ha
  obtain ⟨b, -, rfl⟩ := ha
  split
  · cases b.kind <;> simp [AccKind.noDst, AccKind.dst, Ne.symm h]
  · rename_i hb; simpa using hb
@[simp] theorem Ctx.wr_pc (x : Ctx) (n : Nat) (v : Word) : (x.wr n v).pc = x.pc := by unfold Ctx.wr; split <;> rfl
@[simp] theorem Ctx.wr_level (x : Ctx) (n : Nat) (v : Word) : (x.wr n v).level = x.level := by unfold Ctx.wr; split <;> rfl
@[simp] theorem Ctx.wr_preds (x : Ctx) (n : Nat) (v : Word) : (x.wr n v).preds = x.preds := by unfold Ctx.wr; split <;> rfl
@[simp] theorem Ctx.wr_marks (x : Ctx) (n : Nat) (v : Word) : (x.wr n v).marks = x.marks := by unfold Ctx.wr; split <;> rfl
@[simp] theorem Ctx.wr_bts (x : Ctx) (n : Nat) (v : Word) : (x.wr n v).bts = x.bts := by unfold Ctx.wr; split <;> rfl
@[simp] theorem Ctx.wr_loops (x : Ctx) (n : Nat) (v : Word) : (x.wr n v).loops = x.loops := by unfold Ctx.wr; split <;> rfl
@[simp] theorem Ctx.wr_delay (x : Ctx) (n : Nat) (v : Word) : (x.wr n v).delay = x.delay := by unfold Ctx.wr; split <;> rfl
@[simp] theorem Ctx.wr_viewV (x : Ctx) (n : Nat) (v : Word) : (x.wr n v).viewV = x.viewV := by unfold Ctx.wr; split <;> rfl
@[simp] theorem Ctx.wr_viewT (x : Ctx) (n : Nat) (v : Word) : (x.wr n v).viewT = x.viewT := by unfold Ctx.wr; split <;> rfl
@[simp] theorem Ctx.wr_grant (x : Ctx) (n : Nat) (v : Word) : (x.wr n v).grant = x.grant := by unfold Ctx.wr; split <;> rfl
@[simp] theorem Ctx.wr_trapBase (x : Ctx) (n : Nat) (v : Word) : (x.wr n v).trapBase = x.trapBase := by unfold Ctx.wr; split <;> rfl
@[simp] theorem Ctx.wr_trapCause (x : Ctx) (n : Nat) (v : Word) : (x.wr n v).trapCause = x.trapCause := by unfold Ctx.wr; split <;> rfl
@[simp] theorem Ctx.wr_trapPc (x : Ctx) (n : Nat) (v : Word) : (x.wr n v).trapPc = x.trapPc := by unfold Ctx.wr; split <;> rfl
@[simp] theorem Ctx.wr_trapInfo (x : Ctx) (n : Nat) (v : Word) : (x.wr n v).trapInfo = x.trapInfo := by unfold Ctx.wr; split <;> rfl
@[simp] theorem Ctx.wr_dbgPend (x : Ctx) (n : Nat) (v : Word) : (x.wr n v).dbgPend = x.dbgPend := by unfold Ctx.wr; split <;> rfl
@[simp] theorem Ctx.wr_dbgLayout (x : Ctx) (n : Nat) (v : Word) : (x.wr n v).dbgLayout = x.dbgLayout := by unfold Ctx.wr; split <;> rfl
@[simp] theorem Ctx.wr_engPoison (x : Ctx) (n : Nat) (v : Word) : (x.wr n v).engPoison = x.engPoison := by unfold Ctx.wr; split <;> rfl
@[simp] theorem Ctx.wr_poisonNow (x : Ctx) (n : Nat) (v : Word) : (x.wr n v).poisonNow = x.poisonNow := by unfold Ctx.wr; split <;> rfl
@[simp] theorem Ctx.wr_engStatus (x : Ctx) (n : Nat) (v : Word) : (x.wr n v).engStatus = x.engStatus := by unfold Ctx.wr; split <;> rfl
@[simp] theorem Ctx.wr_resv (x : Ctx) (n : Nat) (v : Word) : (x.wr n v).resv = x.resv := by unfold Ctx.wr; split <;> rfl
@[simp] theorem Ctx.wr_spin (x : Ctx) (n : Nat) (v : Word) : (x.wr n v).spin = x.spin := by unfold Ctx.wr; split <;> rfl
@[simp] theorem Ctx.wr_acc (x : Ctx) (n : Nat) (v : Word) : (x.wr n v).acc = x.acc := by unfold Ctx.wr; split <;> rfl
@[simp] theorem Ctx.wr_busy (x : Ctx) (n : Nat) (v : Word) : (x.wr n v).busy = x.busy := by unfold Ctx.wr; split <;> rfl
@[simp] theorem Ctx.wr_discard (x : Ctx) (n : Nat) (v : Word) : (x.wr n v).discard = x.discard := by unfold Ctx.wr; split <;> rfl
@[simp] theorem Ctx.wr_task (x : Ctx) (n : Nat) (v : Word) : (x.wr n v).task = x.task := by unfold Ctx.wr; split <;> rfl
@[simp] theorem Ctx.wr_run (x : Ctx) (n : Nat) (v : Word) : (x.wr n v).run = x.run := by unfold Ctx.wr; split <;> rfl
@[simp] theorem Ctx.wr_since (x : Ctx) (n : Nat) (v : Word) : (x.wr n v).since = x.since := by unfold Ctx.wr; split <;> rfl
@[simp] theorem Ctx.wr_yieldTo (x : Ctx) (n : Nat) (v : Word) : (x.wr n v).yieldTo = x.yieldTo := by unfold Ctx.wr; split <;> rfl
@[simp] theorem Ctx.wr_query (x : Ctx) (n : Nat) (v : Word) : (x.wr n v).query = x.query := by unfold Ctx.wr; split <;> rfl
@[simp] theorem Ctx.wr_win (x : Ctx) (n : Nat) (v : Word) : (x.wr n v).win = x.win := by unfold Ctx.wr; split <;> rfl
@[simp] theorem Ctx.wr_held (x : Ctx) (n : Nat) (v : Word) : (x.wr n v).held = x.held := by unfold Ctx.wr; split <;> rfl
@[simp] theorem Ctx.wr_stall (x : Ctx) (n : Nat) (v : Word) : (x.wr n v).stall = x.stall := by unfold Ctx.wr; split <;> rfl
@[simp] theorem Ctx.wr_fenceh (x : Ctx) (n : Nat) (v : Word) : (x.wr n v).fenceh = x.fenceh := by unfold Ctx.wr; split <;> rfl
@[simp] theorem Ctx.wr_preempt (x : Ctx) (n : Nat) (v : Word) : (x.wr n v).preempt = x.preempt := by unfold Ctx.wr; split <;> rfl
@[simp] theorem Ctx.wr_lastLid (x : Ctx) (n : Nat) (v : Word) : (x.wr n v).lastLid = x.lastLid := by unfold Ctx.wr; split <;> rfl
@[simp] theorem Ctx.wr_engFail (x : Ctx) (n : Nat) (v : Word) : (x.wr n v).engFail = x.engFail := by unfold Ctx.wr; split <;> rfl
@[simp] theorem Ctx.wr_pulsed (x : Ctx) (n : Nat) (v : Word) : (x.wr n v).pulsed = x.pulsed := by unfold Ctx.wr; split <;> rfl
@[simp] theorem Ctx.wrLat_pc (x : Ctx) (t n : Nat) (v : Word) (l : Nat) : (x.wrLat t n v l).pc = x.pc := by unfold Ctx.wrLat; split <;> simp
@[simp] theorem Ctx.wrLat_level (x : Ctx) (t n : Nat) (v : Word) (l : Nat) : (x.wrLat t n v l).level = x.level := by unfold Ctx.wrLat; split <;> simp
@[simp] theorem Ctx.wrLat_preds (x : Ctx) (t n : Nat) (v : Word) (l : Nat) : (x.wrLat t n v l).preds = x.preds := by unfold Ctx.wrLat; split <;> simp
@[simp] theorem Ctx.wrLat_marks (x : Ctx) (t n : Nat) (v : Word) (l : Nat) : (x.wrLat t n v l).marks = x.marks := by unfold Ctx.wrLat; split <;> simp
@[simp] theorem Ctx.wrLat_bts (x : Ctx) (t n : Nat) (v : Word) (l : Nat) : (x.wrLat t n v l).bts = x.bts := by unfold Ctx.wrLat; split <;> simp
@[simp] theorem Ctx.wrLat_loops (x : Ctx) (t n : Nat) (v : Word) (l : Nat) : (x.wrLat t n v l).loops = x.loops := by unfold Ctx.wrLat; split <;> simp
@[simp] theorem Ctx.wrLat_delay (x : Ctx) (t n : Nat) (v : Word) (l : Nat) : (x.wrLat t n v l).delay = x.delay := by unfold Ctx.wrLat; split <;> simp
@[simp] theorem Ctx.wrLat_viewV (x : Ctx) (t n : Nat) (v : Word) (l : Nat) : (x.wrLat t n v l).viewV = x.viewV := by unfold Ctx.wrLat; split <;> simp
@[simp] theorem Ctx.wrLat_viewT (x : Ctx) (t n : Nat) (v : Word) (l : Nat) : (x.wrLat t n v l).viewT = x.viewT := by unfold Ctx.wrLat; split <;> simp
@[simp] theorem Ctx.wrLat_grant (x : Ctx) (t n : Nat) (v : Word) (l : Nat) : (x.wrLat t n v l).grant = x.grant := by unfold Ctx.wrLat; split <;> simp
@[simp] theorem Ctx.wrLat_trapBase (x : Ctx) (t n : Nat) (v : Word) (l : Nat) : (x.wrLat t n v l).trapBase = x.trapBase := by unfold Ctx.wrLat; split <;> simp
@[simp] theorem Ctx.wrLat_trapCause (x : Ctx) (t n : Nat) (v : Word) (l : Nat) : (x.wrLat t n v l).trapCause = x.trapCause := by unfold Ctx.wrLat; split <;> simp
@[simp] theorem Ctx.wrLat_trapPc (x : Ctx) (t n : Nat) (v : Word) (l : Nat) : (x.wrLat t n v l).trapPc = x.trapPc := by unfold Ctx.wrLat; split <;> simp
@[simp] theorem Ctx.wrLat_trapInfo (x : Ctx) (t n : Nat) (v : Word) (l : Nat) : (x.wrLat t n v l).trapInfo = x.trapInfo := by unfold Ctx.wrLat; split <;> simp
@[simp] theorem Ctx.wrLat_dbgPend (x : Ctx) (t n : Nat) (v : Word) (l : Nat) : (x.wrLat t n v l).dbgPend = x.dbgPend := by unfold Ctx.wrLat; split <;> simp
@[simp] theorem Ctx.wrLat_dbgLayout (x : Ctx) (t n : Nat) (v : Word) (l : Nat) : (x.wrLat t n v l).dbgLayout = x.dbgLayout := by unfold Ctx.wrLat; split <;> simp
@[simp] theorem Ctx.wrLat_engPoison (x : Ctx) (t n : Nat) (v : Word) (l : Nat) : (x.wrLat t n v l).engPoison = x.engPoison := by unfold Ctx.wrLat; split <;> simp
@[simp] theorem Ctx.wrLat_poisonNow (x : Ctx) (t n : Nat) (v : Word) (l : Nat) : (x.wrLat t n v l).poisonNow = x.poisonNow := by unfold Ctx.wrLat; split <;> simp
@[simp] theorem Ctx.wrLat_engStatus (x : Ctx) (t n : Nat) (v : Word) (l : Nat) : (x.wrLat t n v l).engStatus = x.engStatus := by unfold Ctx.wrLat; split <;> simp
@[simp] theorem Ctx.wrLat_resv (x : Ctx) (t n : Nat) (v : Word) (l : Nat) : (x.wrLat t n v l).resv = x.resv := by unfold Ctx.wrLat; split <;> simp
@[simp] theorem Ctx.wrLat_spin (x : Ctx) (t n : Nat) (v : Word) (l : Nat) : (x.wrLat t n v l).spin = x.spin := by unfold Ctx.wrLat; split <;> simp
@[simp] theorem Ctx.wrLat_acc (x : Ctx) (t n : Nat) (v : Word) (l : Nat) : (x.wrLat t n v l).acc = if n = 0 then x.acc else (x.supersede n).acc := by unfold Ctx.wrLat; split <;> simp
@[simp] theorem Ctx.wrLat_discard (x : Ctx) (t n : Nat) (v : Word) (l : Nat) : (x.wrLat t n v l).discard = x.discard := by unfold Ctx.wrLat; split <;> simp
@[simp] theorem Ctx.wrLat_task (x : Ctx) (t n : Nat) (v : Word) (l : Nat) : (x.wrLat t n v l).task = x.task := by unfold Ctx.wrLat; split <;> simp
@[simp] theorem Ctx.wrLat_run (x : Ctx) (t n : Nat) (v : Word) (l : Nat) : (x.wrLat t n v l).run = x.run := by unfold Ctx.wrLat; split <;> simp
@[simp] theorem Ctx.wrLat_since (x : Ctx) (t n : Nat) (v : Word) (l : Nat) : (x.wrLat t n v l).since = x.since := by unfold Ctx.wrLat; split <;> simp
@[simp] theorem Ctx.wrLat_yieldTo (x : Ctx) (t n : Nat) (v : Word) (l : Nat) : (x.wrLat t n v l).yieldTo = x.yieldTo := by unfold Ctx.wrLat; split <;> simp
@[simp] theorem Ctx.wrLat_query (x : Ctx) (t n : Nat) (v : Word) (l : Nat) : (x.wrLat t n v l).query = x.query := by unfold Ctx.wrLat; split <;> simp
@[simp] theorem Ctx.wrLat_win (x : Ctx) (t n : Nat) (v : Word) (l : Nat) : (x.wrLat t n v l).win = x.win := by unfold Ctx.wrLat; split <;> simp
@[simp] theorem Ctx.wrLat_held (x : Ctx) (t n : Nat) (v : Word) (l : Nat) : (x.wrLat t n v l).held = x.held := by unfold Ctx.wrLat; split <;> simp
@[simp] theorem Ctx.wrLat_stall (x : Ctx) (t n : Nat) (v : Word) (l : Nat) : (x.wrLat t n v l).stall = x.stall := by unfold Ctx.wrLat; split <;> simp
@[simp] theorem Ctx.wrLat_fenceh (x : Ctx) (t n : Nat) (v : Word) (l : Nat) : (x.wrLat t n v l).fenceh = x.fenceh := by unfold Ctx.wrLat; split <;> simp
@[simp] theorem Ctx.wrLat_preempt (x : Ctx) (t n : Nat) (v : Word) (l : Nat) : (x.wrLat t n v l).preempt = x.preempt := by unfold Ctx.wrLat; split <;> simp
@[simp] theorem Ctx.wrLat_lastLid (x : Ctx) (t n : Nat) (v : Word) (l : Nat) : (x.wrLat t n v l).lastLid = x.lastLid := by unfold Ctx.wrLat; split <;> simp
@[simp] theorem Ctx.wrLat_engFail (x : Ctx) (t n : Nat) (v : Word) (l : Nat) : (x.wrLat t n v l).engFail = x.engFail := by unfold Ctx.wrLat; split <;> simp
@[simp] theorem Ctx.wrLat_pulsed (x : Ctx) (t n : Nat) (v : Word) (l : Nat) : (x.wrLat t n v l).pulsed = x.pulsed := by unfold Ctx.wrLat; split <;> simp
@[simp] theorem Ctx.wrP_pc (x : Ctx) (n : Nat) (v : Lanes) (m : Bool) : (x.wrP n v m).pc = x.pc := by unfold Ctx.wrP; split <;> rfl
@[simp] theorem Ctx.wrP_level (x : Ctx) (n : Nat) (v : Lanes) (m : Bool) : (x.wrP n v m).level = x.level := by unfold Ctx.wrP; split <;> rfl
@[simp] theorem Ctx.wrP_sregs (x : Ctx) (n : Nat) (v : Lanes) (m : Bool) : (x.wrP n v m).sregs = x.sregs := by unfold Ctx.wrP; split <;> rfl
@[simp] theorem Ctx.wrP_bts (x : Ctx) (n : Nat) (v : Lanes) (m : Bool) : (x.wrP n v m).bts = x.bts := by unfold Ctx.wrP; split <;> rfl
@[simp] theorem Ctx.wrP_loops (x : Ctx) (n : Nat) (v : Lanes) (m : Bool) : (x.wrP n v m).loops = x.loops := by unfold Ctx.wrP; split <;> rfl
@[simp] theorem Ctx.wrP_delay (x : Ctx) (n : Nat) (v : Lanes) (m : Bool) : (x.wrP n v m).delay = x.delay := by unfold Ctx.wrP; split <;> rfl
@[simp] theorem Ctx.wrP_viewV (x : Ctx) (n : Nat) (v : Lanes) (m : Bool) : (x.wrP n v m).viewV = x.viewV := by unfold Ctx.wrP; split <;> rfl
@[simp] theorem Ctx.wrP_viewT (x : Ctx) (n : Nat) (v : Lanes) (m : Bool) : (x.wrP n v m).viewT = x.viewT := by unfold Ctx.wrP; split <;> rfl
@[simp] theorem Ctx.wrP_grant (x : Ctx) (n : Nat) (v : Lanes) (m : Bool) : (x.wrP n v m).grant = x.grant := by unfold Ctx.wrP; split <;> rfl
@[simp] theorem Ctx.wrP_trapBase (x : Ctx) (n : Nat) (v : Lanes) (m : Bool) : (x.wrP n v m).trapBase = x.trapBase := by unfold Ctx.wrP; split <;> rfl
@[simp] theorem Ctx.wrP_trapCause (x : Ctx) (n : Nat) (v : Lanes) (m : Bool) : (x.wrP n v m).trapCause = x.trapCause := by unfold Ctx.wrP; split <;> rfl
@[simp] theorem Ctx.wrP_trapPc (x : Ctx) (n : Nat) (v : Lanes) (m : Bool) : (x.wrP n v m).trapPc = x.trapPc := by unfold Ctx.wrP; split <;> rfl
@[simp] theorem Ctx.wrP_trapInfo (x : Ctx) (n : Nat) (v : Lanes) (m : Bool) : (x.wrP n v m).trapInfo = x.trapInfo := by unfold Ctx.wrP; split <;> rfl
@[simp] theorem Ctx.wrP_dbgPend (x : Ctx) (n : Nat) (v : Lanes) (m : Bool) : (x.wrP n v m).dbgPend = x.dbgPend := by unfold Ctx.wrP; split <;> rfl
@[simp] theorem Ctx.wrP_dbgLayout (x : Ctx) (n : Nat) (v : Lanes) (m : Bool) : (x.wrP n v m).dbgLayout = x.dbgLayout := by unfold Ctx.wrP; split <;> rfl
@[simp] theorem Ctx.wrP_engPoison (x : Ctx) (n : Nat) (v : Lanes) (m : Bool) : (x.wrP n v m).engPoison = x.engPoison := by unfold Ctx.wrP; split <;> rfl
@[simp] theorem Ctx.wrP_poisonNow (x : Ctx) (n : Nat) (v : Lanes) (m : Bool) : (x.wrP n v m).poisonNow = x.poisonNow := by unfold Ctx.wrP; split <;> rfl
@[simp] theorem Ctx.wrP_engStatus (x : Ctx) (n : Nat) (v : Lanes) (m : Bool) : (x.wrP n v m).engStatus = x.engStatus := by unfold Ctx.wrP; split <;> rfl
@[simp] theorem Ctx.wrP_resv (x : Ctx) (n : Nat) (v : Lanes) (m : Bool) : (x.wrP n v m).resv = x.resv := by unfold Ctx.wrP; split <;> rfl
@[simp] theorem Ctx.wrP_spin (x : Ctx) (n : Nat) (v : Lanes) (m : Bool) : (x.wrP n v m).spin = x.spin := by unfold Ctx.wrP; split <;> rfl
@[simp] theorem Ctx.wrP_acc (x : Ctx) (n : Nat) (v : Lanes) (m : Bool) : (x.wrP n v m).acc = x.acc := by unfold Ctx.wrP; split <;> rfl
@[simp] theorem Ctx.wrP_busy (x : Ctx) (n : Nat) (v : Lanes) (m : Bool) : (x.wrP n v m).busy = x.busy := by unfold Ctx.wrP; split <;> rfl
@[simp] theorem Ctx.wrP_discard (x : Ctx) (n : Nat) (v : Lanes) (m : Bool) : (x.wrP n v m).discard = x.discard := by unfold Ctx.wrP; split <;> rfl
@[simp] theorem Ctx.wrP_task (x : Ctx) (n : Nat) (v : Lanes) (m : Bool) : (x.wrP n v m).task = x.task := by unfold Ctx.wrP; split <;> rfl
@[simp] theorem Ctx.wrP_run (x : Ctx) (n : Nat) (v : Lanes) (m : Bool) : (x.wrP n v m).run = x.run := by unfold Ctx.wrP; split <;> rfl
@[simp] theorem Ctx.wrP_since (x : Ctx) (n : Nat) (v : Lanes) (m : Bool) : (x.wrP n v m).since = x.since := by unfold Ctx.wrP; split <;> rfl
@[simp] theorem Ctx.wrP_yieldTo (x : Ctx) (n : Nat) (v : Lanes) (m : Bool) : (x.wrP n v m).yieldTo = x.yieldTo := by unfold Ctx.wrP; split <;> rfl
@[simp] theorem Ctx.wrP_query (x : Ctx) (n : Nat) (v : Lanes) (m : Bool) : (x.wrP n v m).query = x.query := by unfold Ctx.wrP; split <;> rfl
@[simp] theorem Ctx.wrP_win (x : Ctx) (n : Nat) (v : Lanes) (m : Bool) : (x.wrP n v m).win = x.win := by unfold Ctx.wrP; split <;> rfl
@[simp] theorem Ctx.wrP_held (x : Ctx) (n : Nat) (v : Lanes) (m : Bool) : (x.wrP n v m).held = x.held := by unfold Ctx.wrP; split <;> rfl
@[simp] theorem Ctx.wrP_stall (x : Ctx) (n : Nat) (v : Lanes) (m : Bool) : (x.wrP n v m).stall = x.stall := by unfold Ctx.wrP; split <;> rfl
@[simp] theorem Ctx.wrP_fenceh (x : Ctx) (n : Nat) (v : Lanes) (m : Bool) : (x.wrP n v m).fenceh = x.fenceh := by unfold Ctx.wrP; split <;> rfl
@[simp] theorem Ctx.wrP_preempt (x : Ctx) (n : Nat) (v : Lanes) (m : Bool) : (x.wrP n v m).preempt = x.preempt := by unfold Ctx.wrP; split <;> rfl
@[simp] theorem Ctx.wrP_lastLid (x : Ctx) (n : Nat) (v : Lanes) (m : Bool) : (x.wrP n v m).lastLid = x.lastLid := by unfold Ctx.wrP; split <;> rfl
@[simp] theorem Ctx.wrP_engFail (x : Ctx) (n : Nat) (v : Lanes) (m : Bool) : (x.wrP n v m).engFail = x.engFail := by unfold Ctx.wrP; split <;> rfl
@[simp] theorem Ctx.wrP_pulsed (x : Ctx) (n : Nat) (v : Lanes) (m : Bool) : (x.wrP n v m).pulsed = x.pulsed := by unfold Ctx.wrP; split <;> rfl
@[simp] theorem Ctx.wrPLat_pc (x : Ctx) (t n : Nat) (v : Lanes) (m : Bool) (l : Nat) : (x.wrPLat t n v m l).pc = x.pc := by simp [Ctx.wrPLat]
@[simp] theorem Ctx.wrPLat_level (x : Ctx) (t n : Nat) (v : Lanes) (m : Bool) (l : Nat) : (x.wrPLat t n v m l).level = x.level := by simp [Ctx.wrPLat]
@[simp] theorem Ctx.wrPLat_sregs (x : Ctx) (t n : Nat) (v : Lanes) (m : Bool) (l : Nat) : (x.wrPLat t n v m l).sregs = x.sregs := by simp [Ctx.wrPLat]
@[simp] theorem Ctx.wrPLat_bts (x : Ctx) (t n : Nat) (v : Lanes) (m : Bool) (l : Nat) : (x.wrPLat t n v m l).bts = x.bts := by simp [Ctx.wrPLat]
@[simp] theorem Ctx.wrPLat_loops (x : Ctx) (t n : Nat) (v : Lanes) (m : Bool) (l : Nat) : (x.wrPLat t n v m l).loops = x.loops := by simp [Ctx.wrPLat]
@[simp] theorem Ctx.wrPLat_delay (x : Ctx) (t n : Nat) (v : Lanes) (m : Bool) (l : Nat) : (x.wrPLat t n v m l).delay = x.delay := by simp [Ctx.wrPLat]
@[simp] theorem Ctx.wrPLat_viewV (x : Ctx) (t n : Nat) (v : Lanes) (m : Bool) (l : Nat) : (x.wrPLat t n v m l).viewV = x.viewV := by simp [Ctx.wrPLat]
@[simp] theorem Ctx.wrPLat_viewT (x : Ctx) (t n : Nat) (v : Lanes) (m : Bool) (l : Nat) : (x.wrPLat t n v m l).viewT = x.viewT := by simp [Ctx.wrPLat]
@[simp] theorem Ctx.wrPLat_grant (x : Ctx) (t n : Nat) (v : Lanes) (m : Bool) (l : Nat) : (x.wrPLat t n v m l).grant = x.grant := by simp [Ctx.wrPLat]
@[simp] theorem Ctx.wrPLat_trapBase (x : Ctx) (t n : Nat) (v : Lanes) (m : Bool) (l : Nat) : (x.wrPLat t n v m l).trapBase = x.trapBase := by simp [Ctx.wrPLat]
@[simp] theorem Ctx.wrPLat_trapCause (x : Ctx) (t n : Nat) (v : Lanes) (m : Bool) (l : Nat) : (x.wrPLat t n v m l).trapCause = x.trapCause := by simp [Ctx.wrPLat]
@[simp] theorem Ctx.wrPLat_trapPc (x : Ctx) (t n : Nat) (v : Lanes) (m : Bool) (l : Nat) : (x.wrPLat t n v m l).trapPc = x.trapPc := by simp [Ctx.wrPLat]
@[simp] theorem Ctx.wrPLat_trapInfo (x : Ctx) (t n : Nat) (v : Lanes) (m : Bool) (l : Nat) : (x.wrPLat t n v m l).trapInfo = x.trapInfo := by simp [Ctx.wrPLat]
@[simp] theorem Ctx.wrPLat_dbgPend (x : Ctx) (t n : Nat) (v : Lanes) (m : Bool) (l : Nat) : (x.wrPLat t n v m l).dbgPend = x.dbgPend := by simp [Ctx.wrPLat]
@[simp] theorem Ctx.wrPLat_dbgLayout (x : Ctx) (t n : Nat) (v : Lanes) (m : Bool) (l : Nat) : (x.wrPLat t n v m l).dbgLayout = x.dbgLayout := by simp [Ctx.wrPLat]
@[simp] theorem Ctx.wrPLat_engPoison (x : Ctx) (t n : Nat) (v : Lanes) (m : Bool) (l : Nat) : (x.wrPLat t n v m l).engPoison = x.engPoison := by simp [Ctx.wrPLat]
@[simp] theorem Ctx.wrPLat_poisonNow (x : Ctx) (t n : Nat) (v : Lanes) (m : Bool) (l : Nat) : (x.wrPLat t n v m l).poisonNow = x.poisonNow := by simp [Ctx.wrPLat]
@[simp] theorem Ctx.wrPLat_engStatus (x : Ctx) (t n : Nat) (v : Lanes) (m : Bool) (l : Nat) : (x.wrPLat t n v m l).engStatus = x.engStatus := by simp [Ctx.wrPLat]
@[simp] theorem Ctx.wrPLat_resv (x : Ctx) (t n : Nat) (v : Lanes) (m : Bool) (l : Nat) : (x.wrPLat t n v m l).resv = x.resv := by simp [Ctx.wrPLat]
@[simp] theorem Ctx.wrPLat_spin (x : Ctx) (t n : Nat) (v : Lanes) (m : Bool) (l : Nat) : (x.wrPLat t n v m l).spin = x.spin := by simp [Ctx.wrPLat]
@[simp] theorem Ctx.wrPLat_acc (x : Ctx) (t n : Nat) (v : Lanes) (m : Bool) (l : Nat) : (x.wrPLat t n v m l).acc = x.acc := by simp [Ctx.wrPLat]
@[simp] theorem Ctx.wrPLat_discard (x : Ctx) (t n : Nat) (v : Lanes) (m : Bool) (l : Nat) : (x.wrPLat t n v m l).discard = x.discard := by simp [Ctx.wrPLat]
@[simp] theorem Ctx.wrPLat_task (x : Ctx) (t n : Nat) (v : Lanes) (m : Bool) (l : Nat) : (x.wrPLat t n v m l).task = x.task := by simp [Ctx.wrPLat]
@[simp] theorem Ctx.wrPLat_run (x : Ctx) (t n : Nat) (v : Lanes) (m : Bool) (l : Nat) : (x.wrPLat t n v m l).run = x.run := by simp [Ctx.wrPLat]
@[simp] theorem Ctx.wrPLat_since (x : Ctx) (t n : Nat) (v : Lanes) (m : Bool) (l : Nat) : (x.wrPLat t n v m l).since = x.since := by simp [Ctx.wrPLat]
@[simp] theorem Ctx.wrPLat_yieldTo (x : Ctx) (t n : Nat) (v : Lanes) (m : Bool) (l : Nat) : (x.wrPLat t n v m l).yieldTo = x.yieldTo := by simp [Ctx.wrPLat]
@[simp] theorem Ctx.wrPLat_query (x : Ctx) (t n : Nat) (v : Lanes) (m : Bool) (l : Nat) : (x.wrPLat t n v m l).query = x.query := by simp [Ctx.wrPLat]
@[simp] theorem Ctx.wrPLat_win (x : Ctx) (t n : Nat) (v : Lanes) (m : Bool) (l : Nat) : (x.wrPLat t n v m l).win = x.win := by simp [Ctx.wrPLat]
@[simp] theorem Ctx.wrPLat_held (x : Ctx) (t n : Nat) (v : Lanes) (m : Bool) (l : Nat) : (x.wrPLat t n v m l).held = x.held := by simp [Ctx.wrPLat]
@[simp] theorem Ctx.wrPLat_stall (x : Ctx) (t n : Nat) (v : Lanes) (m : Bool) (l : Nat) : (x.wrPLat t n v m l).stall = x.stall := by simp [Ctx.wrPLat]
@[simp] theorem Ctx.wrPLat_fenceh (x : Ctx) (t n : Nat) (v : Lanes) (m : Bool) (l : Nat) : (x.wrPLat t n v m l).fenceh = x.fenceh := by simp [Ctx.wrPLat]
@[simp] theorem Ctx.wrPLat_preempt (x : Ctx) (t n : Nat) (v : Lanes) (m : Bool) (l : Nat) : (x.wrPLat t n v m l).preempt = x.preempt := by simp [Ctx.wrPLat]
@[simp] theorem Ctx.wrPLat_lastLid (x : Ctx) (t n : Nat) (v : Lanes) (m : Bool) (l : Nat) : (x.wrPLat t n v m l).lastLid = x.lastLid := by simp [Ctx.wrPLat]
@[simp] theorem Ctx.wrPLat_engFail (x : Ctx) (t n : Nat) (v : Lanes) (m : Bool) (l : Nat) : (x.wrPLat t n v m l).engFail = x.engFail := by simp [Ctx.wrPLat]
@[simp] theorem Ctx.wrPLat_pulsed (x : Ctx) (t n : Nat) (v : Lanes) (m : Bool) (l : Nat) : (x.wrPLat t n v m l).pulsed = x.pulsed := by simp [Ctx.wrPLat]

/-! ## Cores and contexts -/

@[simp] theorem State.core_setCore_same (s : State) (c : Nat) (x : Core) : (s.setCore c x).core c = x := Tab.get_set_same _ _ _ _
theorem State.core_setCore_ne (s : State) {c e : Nat} (x : Core) (h : e ≠ c) : (s.setCore c x).core e = s.core e :=
  Tab.get_set_ne _ _ _ h
@[simp] theorem Core.ctx_setCtx_same (x : Core) (k : Nat) (t : Ctx) : (x.setCtx k t).ctx k = t := Tab.get_set_same _ _ _ _
theorem Core.ctx_setCtx_ne (x : Core) {k j : Nat} (t : Ctx) (h : j ≠ k) : (x.setCtx k t).ctx j = x.ctx j := Tab.get_set_ne _ _ _ h
theorem Core.ctx_setCtx (x : Core) (k j : Nat) (t : Ctx) : (x.setCtx k t).ctx j = if j = k then t else x.ctx j := Tab.get_set _ _ _ _ _
@[simp] theorem State.core_modCore_same (s : State) (c : Nat) (f : Core → Core) : (s.modCore c f).core c = f (s.core c) := by
  simp [State.modCore]
theorem State.core_modCore_ne (s : State) {c e : Nat} (f : Core → Core) (h : e ≠ c) : (s.modCore c f).core e = s.core e :=
  State.core_setCore_ne s _ h
@[simp] theorem State.core_setCtx_same (s : State) (c k : Nat) (t : Ctx) : (s.setCtx c k t).core c = (s.core c).setCtx k t := by
  simp [State.setCtx]
theorem State.core_setCtx_ne (s : State) {c e : Nat} (k : Nat) (t : Ctx) (h : e ≠ c) : (s.setCtx c k t).core e = s.core e :=
  State.core_setCore_ne s _ h
@[simp] theorem State.ctx_setCtx_same (s : State) (c k : Nat) (t : Ctx) : (s.setCtx c k t).ctx c k = t := by
  simp [State.ctx]
@[simp] theorem State.ctx_modCtx_same (s : State) (c k : Nat) (f : Ctx → Ctx) : (s.modCtx c k f).ctx c k = f (s.ctx c k) := by
  simp [State.modCtx]
@[simp] theorem State.core_modCtx_same (s : State) (c k : Nat) (f : Ctx → Ctx) :
    (s.modCtx c k f).core c = (s.core c).setCtx k (f (s.ctx c k)) := by simp [State.modCtx]
theorem State.core_modCtx_ne (s : State) {c e : Nat} (k : Nat) (f : Ctx → Ctx) (h : e ≠ c) : (s.modCtx c k f).core e = s.core e :=
  State.core_setCtx_ne s _ _ h

/-! ## The issuing core and context -/

@[simp] theorem State.myCore_modMy (s : State) (f : Core → Core) : (s.modMy f).myCore = f s.myCore := by
  simp [State.myCore, State.modMy]
@[simp] theorem State.myCore_modMe (s : State) (f : Ctx → Ctx) : (s.modMe f).myCore = s.myCore.setCtx s.curCtx (f s.me) := by
  simp [State.myCore, State.modMe, State.me]
@[simp] theorem State.me_modMe (s : State) (f : Ctx → Ctx) : (s.modMe f).me = f s.me := by
  simp [State.me, State.modMe]
theorem State.me_def (s : State) : s.me = s.myCore.ctx s.curCtx := rfl
@[simp] theorem State.me_modMy (s : State) (f : Core → Core) : (s.modMy f).me = (f s.myCore).ctx s.curCtx := by
  simp [State.me_def]
@[simp] theorem State.now_modMe (s : State) (f : Ctx → Ctx) : (s.modMe f).now = s.now := by simp [State.now]

/-! ## Registers -/

/-- s0 reads zero whatever is written (R35). -/
@[simp] theorem Ctx.rd_zero (x : Ctx) : x.rd 0 = 0 := rfl
/-- A scalar write, read back at any number. -/
theorem Ctx.rd_wr (x : Ctx) (n m : Nat) (v : Word) : (x.wr n v).rd m = if m = 0 then 0 else if m = n then v else x.rd m := by
  unfold Ctx.rd Ctx.wr
  by_cases hm : m = 0
  · simp [hm]
  · by_cases hn : n = 0
    · subst hn; simp [hm]
    · simp [hm, hn, Tab.get_set]
theorem Ctx.rd_wrLat (x : Ctx) (t n m : Nat) (v : Word) (l : Nat) :
    (x.wrLat t n v l).rd m = if m = 0 then 0 else if m = n then v else x.rd m := by
  have h : (x.wrLat t n v l).rd m = (x.wr n v).rd m := by
    unfold Ctx.wrLat Ctx.wr
    split <;> simp [Ctx.rd, Ctx.supersede]
  rw [h, Ctx.rd_wr]
/-- Predicates and scalar registers are apart. -/
@[simp] theorem Ctx.rdP_wrLat (x : Ctx) (t n m : Nat) (v : Word) (l : Nat) : (x.wrLat t n v l).rdP m = x.rdP m := by
  simp [Ctx.rdP]
@[simp] theorem Ctx.mark_wrLat (x : Ctx) (t n m : Nat) (v : Word) (l : Nat) : (x.wrLat t n v l).mark m = x.mark m := by
  simp [Ctx.mark]
/-- A predicate write, read back at any number; p0 stays all ones (R35). -/
theorem Ctx.rdP_wrP (x : Ctx) (n m : Nat) (v : Lanes) (b : Bool) :
    (x.wrP n v b).rdP m = if m = 0 then allLanes else if m = n then v else x.rdP m := by
  unfold Ctx.rdP Ctx.wrP
  by_cases hm : m = 0
  · simp [hm]
  · by_cases hn : n = 0
    · subst hn; simp [hm]
    · simp [hm, hn, Tab.get_set]
theorem Ctx.mark_wrP (x : Ctx) (n m : Nat) (v : Lanes) (b : Bool) :
    (x.wrP n v b).mark m = if m = 0 then false else if m = n then b else x.mark m := by
  unfold Ctx.mark Ctx.wrP
  by_cases hm : m = 0
  · simp [hm]
  · by_cases hn : n = 0
    · subst hn; simp [hm]
    · simp [hm, hn, Tab.get_set]
theorem Ctx.rdP_wrPLat (x : Ctx) (t n m : Nat) (v : Lanes) (b : Bool) (l : Nat) :
    (x.wrPLat t n v b l).rdP m = if m = 0 then allLanes else if m = n then v else x.rdP m := by
  rw [← Ctx.rdP_wrP x n m v b]; rfl
theorem Ctx.mark_wrPLat (x : Ctx) (t n m : Nat) (v : Lanes) (b : Bool) (l : Nat) :
    (x.wrPLat t n v b l).mark m = if m = 0 then false else if m = n then b else x.mark m := by
  rw [← Ctx.mark_wrP x n m v b]; rfl
@[simp] theorem Ctx.rd_wrPLat (x : Ctx) (t n m : Nat) (v : Lanes) (b : Bool) (l : Nat) : (x.wrPLat t n v b l).rd m = x.rd m := by
  simp [Ctx.rd]
theorem State.getS_putS (s : State) (n : Nat) (m : BitVec 6) (v : Word) (l : Nat) :
    (s.putS n v l).getS m = if m.toNat = 0 then 0 else if m.toNat = n then v else s.getS m := by
  simp [State.getS, State.putS, Ctx.rd_wrLat]

end Sys2Proof.Machine
end

