-- ==== Sys2Proof/Laws/Issue.lean ====
section
/-! SUPPORT. Issue: an instruction whose conditions hold runs its body, a trap raised at issue, and what issuing leaves alone. -/

set_option Elab.async false

namespace Sys2Proof.Machine

/-! ## Outcomes of a body -/

/-- A body that is done steps past the instruction. -/
theorem State.finish_done (s t : State) (len : Nat) (h : t.curCtx = s.curCtx) : s.finish len (.done t) = t.stepped len := by
  simp [State.finish, State.stepped, h]
theorem State.finish_jump (s t : State) (len : Nat) (h : t.curCtx = s.curCtx) : s.finish len (.jump t) = t.jumped := by
  simp [State.finish, State.jumped, h]
theorem State.finish_trap (s : State) (len cause : Nat) (info : Word) : s.finish len (.trap cause info) = s.trapped cause info := rfl

/-! ## Scalar-guarded instructions -/

theorem State.lowLevel_eq_false {s : State} {lvl : Nat} (h : lvl ≤ s.me.level) : s.lowLevel lvl = false := by
  simp [State.lowLevel, h]

theorem State.issueGuard_ok {s : State} {i : Instr} {len lvl : Nat} {gd : Guard} {body : State → Bool → Issue}
    (hl : lvl ≤ s.me.level) (hg : s.guardOk gd = true) :
    s.issueGuard i len lvl gd body = .next (s.finish len (body s (s.me.guardTrue gd))) := by
  unfold State.guardOk at hg
  unfold State.issueGuard
  rw [State.lowLevel_eq_false hl, if_neg Bool.false_ne_true, if_neg, if_neg, if_neg] <;>
  · simp only [bne]
    revert hg
    generalize (gd.g == 31) = b1
    generalize s.me.dbgPend.getLsbD 0 = b2
    generalize s.myCore.predPending s.curCtx gd.g.toNat = b3
    generalize s.me.mark gd.g.toNat = b4
    generalize s.myCore.ready s.curCtx (64 + gd.g.toNat) = b5
    cases b1 <;> cases b2 <;> cases b3 <;> cases b4 <;> cases b5 <;> decide

theorem State.interlock_ok {s : State} {rd : List Nat} {body : Issue}
    (hr : rd.all (s.myCore.ready s.curCtx) = true) : s.interlock rd body = body := by
  simp [State.interlock, hr]

/-- An instruction that goes on runs its body. -/
theorem State.issueAt_goes {s : State} {i : Instr} {len lvl : Nat} {gd : Guard} {rd : List Nat} {body : State → Issue}
    (h : s.goes lvl gd rd = true) : s.issueAt i len lvl gd rd body = .next (s.finish len (body s)) := by
  simp only [State.goes, Bool.and_eq_true, decide_eq_true_eq] at h
  obtain ⟨⟨⟨hl, hg⟩, ht⟩, hr⟩ := h
  unfold State.issueAt
  rw [State.issueGuard_ok hl hg, ht, if_pos rfl, State.interlock_ok hr]

theorem State.issue_goes {s : State} {i : Instr} {gd : Guard} {rd : List Nat} {body : State → Issue}
    (h : s.goes 0 gd rd = true) : s.issue i gd rd body = .next (s.finish 1 (body s)) :=
  State.issueAt_goes h

/-- A false guard ends the instruction without effect (R29). -/
theorem State.issueAt_false {s : State} {i : Instr} {len lvl : Nat} {gd : Guard} {rd : List Nat} {body : State → Issue}
    (hl : lvl ≤ s.me.level) (hg : s.guardOk gd = true) (ht : s.me.guardTrue gd = false) :
    s.issueAt i len lvl gd rd body = .next (s.stepped len) := by
  unfold State.issueAt
  rw [State.issueGuard_ok hl hg, ht]
  simp [State.finish_done]

theorem State.issue_false {s : State} {i : Instr} {gd : Guard} {rd : List Nat} {body : State → Issue}
    (hg : s.guardOk gd = true) (ht : s.me.guardTrue gd = false) : s.issue i gd rd body = .next (s.stepped 1) :=
  State.issueAt_false (Nat.zero_le _) hg ht

/-- Below its level an instruction raises 0x02 with its word 0 and has no effect (R30). -/
theorem State.issueGuard_low {s : State} {i : Instr} {len lvl : Nat} {gd : Guard} {body : State → Bool → Issue}
    (hl : s.me.level < lvl) : s.issueGuard i len lvl gd body = .next (s.trapped 0x02 (word0 i)) := by
  simp [State.issueGuard, State.lowLevel, hl, State.finish_trap]

/-! ## Vector instructions -/

theorem State.issueV_goes {s : State} {i : Instr} {gd : Guard} {rd : List Nat} {body : State → Lanes → Issue}
    (h : s.goesV gd rd = true) : s.issueV i gd rd body = .next (s.finish 1 (body s (s.me.mask gd))) := by
  simp only [State.goesV, Bool.and_eq_true] at h
  obtain ⟨hg, hr⟩ := h
  unfold State.issueV
  rw [if_neg (by
    simp only [bne]
    revert hg
    generalize (gd.g == 31) = b1
    cases b1 <;> simp), if_neg (by simp [hr])]

theorem State.checkPreds_pass {s : State} {ps exact : List Nat} {body : Issue} (h : s.predsPass ps exact = true) :
    s.checkPreds ps exact body = body := by
  simp only [State.predsPass, Bool.and_eq_true, List.all_eq_true, Bool.not_eq_true'] at h
  obtain ⟨h1, h2⟩ := h
  unfold State.checkPreds
  rw [List.find?_eq_none.2 (fun n hn => by rw [h1 n hn]; exact Bool.false_ne_true), List.find?_eq_none.2 (fun n hn => by rw [h2 n hn]; exact Bool.false_ne_true)]

theorem State.checkRows_pass {s : State} {us : List RowUse} {preds exact : List Nat} {body : Issue}
    (h : s.rowsPass us preds exact = true) : s.checkRows us preds exact body = body := by
  simp only [State.rowsPass, State.predsPass, Bool.and_eq_true, List.all_eq_true, Bool.not_eq_true', Option.isNone_iff_eq_none] at h
  obtain ⟨⟨⟨⟨⟨⟨⟨⟨⟨h1, h2⟩, h3⟩, h4⟩, h5⟩, h6⟩, h7, h7'⟩, h8⟩, h9⟩, h10⟩ := h
  unfold State.checkRows
  rw [if_neg (by simpa using h1), h2]
  simp only [h3, Bool.not_true, Bool.false_eq_true, ↓reduceIte, h4, h5, h6]
  rw [List.find?_eq_none.2 (fun n hn => by rw [h7 n hn]; exact Bool.false_ne_true), List.find?_eq_none.2 (fun n hn => by rw [h7' n hn]; exact Bool.false_ne_true)]
  simp only [h8]
  have e9 : us.findSome? (fun u => match u.ref with
      | .acc n => if (u.poison && sidePoison (s.myCore.side (s.me.accRow n))) = true then some (s.me.accRow n) else none
      | .win _ _ => none) = none := by
    rw [List.findSome?_eq_none_iff]
    intro u hu
    have := h9 u hu
    revert this
    cases u.ref with
    | win _ _ => intro _; rfl
    | acc n =>
      generalize u.poison = b1
      generalize sidePoison (s.myCore.side (s.me.accRow n)) = b2
      cases b1 <;> cases b2 <;> simp
  split
  · rename_i h
    cases h.symm.trans e9
  rw [List.findSome?_eq_none_iff.2 (fun u hu => by
    have := h10 u hu
    split
    · rename_i hr
      simpa [hr] using this
    · rfl)]

/-! ## Memory accesses -/

theorem State.checkDiscard_none {s : State} {now : Bool} {body : Issue} (h : s.me.discard.isNone ∨ now = false) :
    s.checkDiscard now body = body := by
  unfold State.checkDiscard
  cases hd : s.me.discard with
  | none => rfl
  | some ea =>
    rcases h with h | h
    · simp [hd] at h
    · simp [h]

theorem State.checkAccess_pass {s : State} {cl : AccClass} {ea : Word} {n sc : Nat} {rel : Bool} {pa : Nat} {at' : Attr}
    {body : Nat → Attr → Issue} (h : s.accessPass cl ea n sc rel pa at' = true) :
    s.checkAccess cl ea n sc rel body = body pa at' := by
  simp only [State.accessPass, Bool.and_eq_true, decide_eq_true_eq, Bool.not_eq_true', beq_iff_eq] at h
  obtain ⟨⟨⟨⟨⟨⟨⟨⟨⟨⟨⟨⟨⟨⟨⟨h1, h2⟩, h3⟩, h4⟩, h5⟩, h6⟩, h7⟩, h8⟩, h9⟩, h10⟩, h11⟩, h12⟩, h13⟩, h14⟩, h15⟩, h16⟩ := h
  have e3 : ¬ 7 ≤ eaAlias ea := by omega
  unfold State.checkAccess
  simp only [bne]
  rw [if_neg (by rw [h1]; decide), if_neg (by rw [h2]; decide), if_neg e3, if_neg (by
    revert h4; generalize (eaAlias ea == 0) = b1; generalize cl.plain = b2
    cases b1 <;> cases b2 <;> simp), h5]
  simp only
  rw [if_neg (by revert h6; generalize (eaAlias ea == 0) = b1; cases b1 <;> simp), if_neg (by rw [h7, h8, h9]; decide),
    if_neg (by revert h10; generalize cl.reads = b1; cases b1 <;> simp),
    if_neg (by revert h11; generalize cl.writes = b1; cases b1 <;> simp),
    if_neg (by revert h12; generalize cl.brings = b1; cases b1 <;> simp),
    if_neg (by rw [h13]; decide), if_neg (by rw [h16]; decide), if_neg (by rw [h14]; decide)]
  exact State.checkDiscard_none (by
    simp only [Bool.or_eq_true, Bool.not_eq_true'] at h15
    exact h15)

/-! ## What issuing leaves alone (R58, R62, R82, R124) -/

theorem Ctx.endTest_same (x : Ctx) (cov : Word → Bool) (n : Nat) :
    { (x.endTest cov n).1 with pc := x.pc, loops := x.loops } = x := by
  induction n generalizing x with
  | zero => rfl
  | succ n ih =>
    simp only [Ctx.endTest]
    split
    · split
      · rfl
      · have := ih (x.setLoop n { x.loop n with lc := (x.loop n).lc + 1, act := false })
        simpa [Ctx.setLoop] using congrArg (fun y : Ctx => { y with pc := x.pc, loops := x.loops }) this
    · exact ih x

/-- `w` with what control moves on taken from `x`. -/
def Ctx.still (x w : Ctx) : Ctx :=
  { w with pc := x.pc, delay := x.delay, loops := x.loops, spin := x.spin, yieldTo := x.yieldTo }

/-- Only context `k` has changed, and what control moves on in it. -/
def Core.moved (x y : Core) (k : Nat) : Prop :=
  { y with ctxs := x.ctxs } = x ∧ (∀ j, j ≠ k → y.ctx j = x.ctx j) ∧ (x.ctx k).still (y.ctx k) = x.ctx k

theorem Core.moved_setCtx (x : Core) (k : Nat) (t : Ctx) (h : (x.ctx k).still t = x.ctx k) : x.moved (x.setCtx k t) k :=
  ⟨rfl, fun _ hj => Core.ctx_setCtx_ne x t hj, by rw [Core.ctx_setCtx_same]; exact h⟩

theorem Core.moved_trans {x y z : Core} {k : Nat} (h1 : x.moved y k) (h2 : y.moved z k) : x.moved z k := by
  refine ⟨?_, fun j hj => (h2.2.1 j hj).trans (h1.2.1 j hj), ?_⟩
  · exact (congrArg (fun w : Core => { w with ctxs := x.ctxs }) h2.1).trans h1.1
  · exact (congrArg (x.ctx k).still h2.2.2).trans h1.2.2

theorem Core.moved_passOver (x : Core) (k : Nat) : x.moved (x.passOver k) k := Core.moved_setCtx x k _ rfl

theorem Core.moved_spinBack (x : Core) (k : Nat) : x.moved (x.spinBack k) k := by
  have h1 : x.moved (x.setCtx k { x.ctx k with spin := (x.ctx k).spin.backward.1 }) k := Core.moved_setCtx x k _ rfl
  unfold Core.spinBack
  dsimp only
  split
  · exact Core.moved_trans h1 (Core.moved_passOver _ k)
  · exact h1

/-- A context that an end test has moved on. -/
theorem Core.moved_tested (x : Core) (k : Nat) (t : Ctx) (cov : Word → Bool) (ht : (x.ctx k).still t = x.ctx k) :
    x.moved (if (t.endTest cov 4).2 then (x.setCtx k (t.endTest cov 4).1).spinBack k else x.setCtx k (t.endTest cov 4).1) k := by
  have h1 : x.moved (x.setCtx k (t.endTest cov 4).1) k := by
    apply Core.moved_setCtx
    exact (congrArg (x.ctx k).still (Ctx.endTest_same t cov 4)).trans ht
  split
  · exact Core.moved_trans h1 (Core.moved_spinBack _ k)
  · exact h1

theorem Core.moved_advance (x : Core) (k len : Nat) : x.moved (x.advance k len) k := by
  unfold Core.advance
  cases hd : (x.ctx k).delay with
  | none =>
    simp only [hd]
    exact Core.moved_tested x k { x.ctx k with pc := (x.ctx k).pc + BitVec.ofNat 64 (8 * len), delay := none } _ rfl
  | some d =>
    simp only [hd]
    split
    · exact Core.moved_setCtx x k { x.ctx k with pc := (x.ctx k).pc + 8, delay := some { d with left := 1 } } rfl
    · split
      · have h1 : x.moved (x.setCtx k { x.ctx k with pc := d.target, delay := none }) k := Core.moved_setCtx x k _ rfl
        split
        · exact Core.moved_trans h1 (Core.moved_spinBack _ k)
        · exact h1
      · exact Core.moved_tested x k { x.ctx k with pc := (x.ctx k).pc + 8, delay := none } _ rfl

/-- One waiting context has had a turn before it. -/
def Core.freed (k : Nat) (x : Core) (j : Nat) : Core :=
  if (x.ctx j).yieldTo.isEmpty then x else x.setCtx j { x.ctx j with yieldTo := (x.ctx j).yieldTo.filter (· != k) }

/-- A context but for turn taking. -/
def Ctx.turned (x w : Ctx) : Ctx := { w with yieldTo := x.yieldTo }

theorem Core.freed_same (k : Nat) (x : Core) (j : Nat) :
    { x.freed k j with ctxs := x.ctxs } = x ∧ ∀ m, (x.ctx m).turned ((x.freed k j).ctx m) = x.ctx m := by
  unfold Core.freed
  split
  · exact ⟨rfl, fun _ => rfl⟩
  · refine ⟨rfl, fun m => ?_⟩
    rw [Core.ctx_setCtx]
    split
    · subst_vars; rfl
    · rfl

theorem Core.freedAll_same (k : Nat) (l : List Nat) : ∀ x : Core,
    { l.foldl (Core.freed k) x with ctxs := x.ctxs } = x ∧ ∀ m, (x.ctx m).turned ((l.foldl (Core.freed k) x).ctx m) = x.ctx m := by
  induction l with
  | nil => intro x; exact ⟨rfl, fun _ => rfl⟩
  | cons j l ih =>
    intro x
    obtain ⟨h1, h2⟩ := ih (x.freed k j)
    obtain ⟨g1, g2⟩ := Core.freed_same k x j
    refine ⟨?_, fun m => ?_⟩
    · exact (congrArg (fun w : Core => { w with ctxs := x.ctxs }) h1).trans g1
    · exact (congrArg (x.ctx m).turned (h2 m)).trans (g2 m)

theorem Core.countIssue_eq (x : Core) (k : Nat) :
    x.countIssue k = { [0, 1, 2, 3].foldl (Core.freed k) (x.setCtx k (x.ctx k).counted) with last := k, issued := true } := rfl

/-- Counting an issue changes turn taking, `last`, `issued`, and in the issuing context two counts. -/
theorem Core.sameBut_countIssue (x : Core) (k : Nat) :
    x.sameBut (x.countIssue k) k ∧ (x.ctx k).turned ((x.countIssue k).ctx k) = (x.ctx k).counted := by
  obtain ⟨h1, h2⟩ := Core.freedAll_same k [0, 1, 2, 3] (x.setCtx k (x.ctx k).counted)
  rw [Core.countIssue_eq]
  generalize [0, 1, 2, 3].foldl (Core.freed k) (x.setCtx k (x.ctx k).counted) = y at h1 h2
  refine ⟨⟨?_, fun j hj => ?_⟩, ?_⟩
  · exact congrArg (fun w : Core => { w with ctxs := x.ctxs, last := x.last, issued := x.issued }) h1
  · have := h2 j
    rw [Core.ctx_setCtx_ne x _ hj] at this
    exact this
  · have := h2 k
    rw [Core.ctx_setCtx_same] at this
    exact this

/-- `w` with what issuing moves on taken from `x`. -/
def Ctx.settled (x w : Ctx) : Ctx :=
  { w with pc := x.pc, delay := x.delay, loops := x.loops, spin := x.spin, resv := x.resv, acc := x.acc, yieldTo := x.yieldTo }

theorem Core.sameBut_step (x : Core) (k len : Nat) :
    x.sameBut ((x.countIssue k).advance k len) k ∧ (x.ctx k).sameBut (((x.countIssue k).advance k len).ctx k) := by
  obtain ⟨⟨h1, h2⟩, h3⟩ := Core.sameBut_countIssue x k
  obtain ⟨m1, m2, m3⟩ := Core.moved_advance (x.countIssue k) k len
  generalize x.countIssue k = y at *
  refine ⟨⟨?_, fun j hj => ?_⟩, ?_⟩
  · exact (congrArg (fun w : Core => { w with ctxs := x.ctxs, last := x.last, issued := x.issued }) m1).trans h1
  · rw [m2 j hj]; exact h2 j hj
  · have e1 := congrArg (x.ctx k).settled m3
    have e2 := congrArg (x.ctx k).settled h3
    exact e1.trans e2

theorem Core.sameBut_jump (x : Core) (k : Nat) :
    x.sameBut (x.countIssue k) k ∧ (x.ctx k).sameBut ((x.countIssue k).ctx k) := by
  obtain ⟨h1, h3⟩ := Core.sameBut_countIssue x k
  generalize x.countIssue k = y at *
  have e := congrArg (x.ctx k).settled h3
  exact ⟨h1, e⟩

theorem State.sameElsewhere_modMy (s : State) (f : Core → Core) : s.sameElsewhere (s.modMy f) :=
  ⟨rfl, fun _ hc => State.core_modCore_ne s f hc⟩

/-- Issuing and stepping past an instruction leaves everything else alone. -/
theorem State.onlyIssued_stepped (u : State) (len : Nat) : u.onlyIssued (u.stepped len) := by
  refine ⟨State.sameElsewhere_modMy u _, ?_, ?_⟩
  · rw [State.stepped, State.myCore_modMy]; exact (Core.sameBut_step u.myCore u.curCtx len).1
  · rw [State.stepped, State.me_modMy]; exact (Core.sameBut_step u.myCore u.curCtx len).2

theorem State.onlyIssued_jumped (u : State) : u.onlyIssued u.jumped := by
  refine ⟨State.sameElsewhere_modMy u _, ?_, ?_⟩
  · rw [State.jumped, State.myCore_modMy]; exact (Core.sameBut_jump u.myCore u.curCtx).1
  · rw [State.jumped, State.me_modMy]; exact (Core.sameBut_jump u.myCore u.curCtx).2

end Sys2Proof.Machine
end

