-- ==== Sys2Proof/Laws/Memory.lean ====
section
/-! SUPPORT. Memory: a read after a write, what a write leaves alone, and that every memory operation keeps the canonical form. -/

set_option Elab.async false

namespace Sys2Proof.Machine

/-! ## Bytes -/

@[simp] theorem State.byte_setByte_same (s : State) (a : Nat) (v : Byte) : (s.setByte a v).byte a = v := Tab.get_set_same _ _ _ _
theorem State.byte_setByte_ne (s : State) {a b : Nat} (v : Byte) (h : b ≠ a) : (s.setByte a v).byte b = s.byte b :=
  Tab.get_set_ne _ _ _ h

/-- Bytes below the first or past the last byte stored keep their values. -/
theorem memPut_outside (bs : List Byte) : ∀ (m : List Host.Cell) (a b : Nat), (b < a ∨ a + bs.length ≤ b) →
    Tab.get memDefault (memPut m a bs) b = Tab.get memDefault m b := by
  induction bs with
  | nil => intro m a b _; rfl
  | cons v bs ih =>
    intro m a b h
    simp only [List.length_cons] at h
    rw [memPut, ih _ _ _ (by omega), Tab.get_set_ne _ _ _ (by omega)]

/-- Each byte stored reads back. -/
theorem memPut_inside (bs : List Byte) : ∀ (m : List Host.Cell) (a i : Nat) (h : i < bs.length),
    Tab.get memDefault (memPut m a bs) (a + i) = bs[i] := by
  induction bs with
  | nil => intro m a i h; simp at h
  | cons v bs ih =>
    intro m a i h
    cases i with
    | zero => rw [memPut, memPut_outside _ _ _ _ (by omega)]; simp
    | succ i =>
      have := ih (Tab.set memDefault m a v) (a + 1) i (by simpa using h)
      rw [memPut, show a + (i + 1) = a + 1 + i by omega, this]
      rfl

theorem State.byte_putBytes_outside (s : State) (a b : Nat) (bs : List Byte) (h : b < a ∨ a + bs.length ≤ b) :
    (s.putBytes a bs).byte b = s.byte b := memPut_outside bs s.mem a b h
theorem State.byte_putBytes_inside (s : State) (a i : Nat) (bs : List Byte) (h : i < bs.length) :
    (s.putBytes a bs).byte (a + i) = bs[i] := memPut_inside bs s.mem a i h

/-- Memory decides every read. -/
theorem State.byte_congr {s t : State} (h : t.mem = s.mem) (a : Nat) : t.byte a = s.byte a := by
  simp [State.byte, h]

/-! ## What a reader finds (R4, R211) -/

/-- A byte outside the undefined areas reads as memory holds it. -/
theorem State.seenByte_plain (s : State) (a : Nat) (h : s.blurred a = false) : s.seenByte a = s.byte a := by
  simp [State.seenByte, h]

theorem State.seen_plain (s : State) (n : Nat) : ∀ a, (∀ i, i < n → s.blurred (a + i) = false) → s.seen a n = s.bytes a n := by
  induction n with
  | zero => intro _ _; rfl
  | succ n ih =>
    intro a h
    rw [State.seen, State.bytes, s.seenByte_plain a (by simpa using h 0 (by omega)),
      ih (a + 1) fun i hi => by have := h (i + 1) (by omega); rwa [show a + (i + 1) = a + 1 + i by omega] at this]

theorem State.seenN_plain (s : State) (a n : Nat) (h : ∀ i, i < n → s.blurred (a + i) = false) : s.seenN a n = s.readN a n := by
  rw [State.seenN, s.seen_plain n a h, State.readN]

/-! ## What a write of reservations and layout tags leaves alone -/

theorem State.mem_foldl {α : Type} (f : State → α → State) (hf : ∀ s x, (f s x).mem = s.mem) (l : List α) :
    ∀ s, (l.foldl f s).mem = s.mem := by
  induction l with
  | nil => intro _; rfl
  | cons x l ih => intro s; rw [List.foldl_cons, ih, hf]

@[simp] theorem State.mem_clearResv (s : State) (who : Option (Nat × Nat)) (pa n : Nat) : (s.clearResv who pa n).mem = s.mem := by
  unfold State.clearResv
  apply State.mem_foldl
  intro s p
  apply State.mem_foldl
  intro s k
  split <;> rfl

@[simp] theorem State.mem_tagSlice (s : State) (pa n : Nat) (t : Option (BitVec 9)) : (s.tagSlice pa n t).mem = s.mem := by
  unfold State.tagSlice
  split
  · split
    · dsimp only
      split <;> rfl
    · rfl
  · rfl

@[simp] theorem State.mem_storeAt (s : State) (who : Option (Nat × Nat)) (pa : Nat) (bs : List Byte) (t : Option (BitVec 9)) :
    (s.storeAt who pa bs t).mem = memPut s.mem pa bs := by
  simp [State.storeAt, State.putBytes]

/-- A write of bytes stores them and leaves every other byte alone. -/
theorem State.byte_storeAt_outside (s : State) (who : Option (Nat × Nat)) (pa b : Nat) (bs : List Byte) (t : Option (BitVec 9))
    (h : b < pa ∨ pa + bs.length ≤ b) : (s.storeAt who pa bs t).byte b = s.byte b := by
  rw [State.byte, State.mem_storeAt]; exact memPut_outside bs s.mem pa b h
theorem State.byte_storeAt_inside (s : State) (who : Option (Nat × Nat)) (pa i : Nat) (bs : List Byte) (t : Option (BitVec 9))
    (h : i < bs.length) : (s.storeAt who pa bs t).byte (pa + i) = bs[i] := by
  rw [State.byte, State.mem_storeAt]; exact memPut_inside bs s.mem pa i h

/-! ## The canonical form -/

theorem memPut_wf (bs : List Byte) : ∀ (m : List Host.Cell) (a : Nat), Memory.wf m = true → Memory.wf (memPut m a bs) = true := by
  induction bs with
  | nil => intro _ _ h; exact h
  | cons v bs ih => intro m a h; exact ih _ _ (Tab.wf_set memDefault m a v h)

theorem State.wf_setByte (s : State) (a : Nat) (v : Byte) (h : Memory.wf s.mem = true) : Memory.wf (s.setByte a v).mem = true :=
  Tab.wf_set memDefault s.mem a v h
theorem State.wf_putBytes (s : State) (a : Nat) (bs : List Byte) (h : Memory.wf s.mem = true) : Memory.wf (s.putBytes a bs).mem = true :=
  memPut_wf bs s.mem a h
theorem State.wf_writeN (s : State) (a n v : Nat) (h : Memory.wf s.mem = true) : Memory.wf (s.writeN a n v).mem = true :=
  State.wf_putBytes s a _ h
theorem State.wf_writeWord (s : State) (a : Nat) (v : Word) (h : Memory.wf s.mem = true) : Memory.wf (s.writeWord a v).mem = true :=
  State.wf_writeN s a 8 _ h
theorem State.wf_storeAt (s : State) (who : Option (Nat × Nat)) (pa : Nat) (bs : List Byte) (t : Option (BitVec 9))
    (h : Memory.wf s.mem = true) : Memory.wf (s.storeAt who pa bs t).mem = true := by
  rw [State.mem_storeAt]; exact memPut_wf bs s.mem pa h

/-- A property of states that a list of writes keeps. -/
theorem State.wf_foldl {α : Type} (f : State → α → State) (hf : ∀ s x, Memory.wf s.mem = true → Memory.wf (f s x).mem = true)
    (l : List α) : ∀ s, Memory.wf s.mem = true → Memory.wf (l.foldl f s).mem = true := by
  induction l with
  | nil => intro _ h; exact h
  | cons x l ih => intro s h; exact ih _ (hf s x h)

theorem State.wf_storeD (s : State) (who : Option (Nat × Nat)) (pa hold : Nat) (bs : List Byte) (t : Option (BitVec 9))
    (h : Memory.wf s.mem = true) : Memory.wf (s.storeD who pa hold bs t).mem = true :=
  State.wf_foldl _ (fun s _ h => State.wf_storeAt s _ _ _ _ h) _ _ (State.wf_storeAt s _ _ _ _ h)
theorem State.wf_writeBits (s : State) (who : Option (Nat × Nat)) (hold ba w v : Nat) (t : Option (BitVec 9))
    (h : Memory.wf s.mem = true) : Memory.wf (s.writeBits who hold ba w v t).mem = true := by
  unfold State.writeBits
  dsimp only
  split <;> exact State.wf_storeD s _ _ _ _ _ h
theorem State.wf_zeroSlice (s : State) (c off n : Nat) (h : Memory.wf s.mem = true) : Memory.wf (s.zeroSlice c off n).mem = true := by
  have h1 := Tab.wf_filter memDefault (fun p => !(s.sliceBase c + off ≤ p.1 && p.1 < s.sliceBase c + off + n)) s.mem h
  unfold State.zeroSlice
  dsimp only
  split
  · rw [State.modCore_mem, State.mem_clearResv]; exact h1
  · rw [State.mem_clearResv]; exact h1
theorem State.wf_scatterRow (s : State) (who : Option (Nat × Nat)) (a : Access) (m : Lanes) (r : Row)
    (h : Memory.wf s.mem = true) : Memory.wf (s.scatterRow who a m r).mem = true := by
  unfold State.scatterRow
  apply State.wf_foldl _ _ _ _ h
  intro s i h
  split
  · exact State.wf_writeBits s _ _ _ _ _ _ h
  · exact h

@[simp] theorem State.mem_returnScalar (s : State) (c k : Nat) (a : Access) (d : Nat) (v : Word) :
    (s.returnScalar c k a d v).mem = s.mem := by
  unfold State.returnScalar
  extract_lets p q t
  split
  · rw [State.modCore_mem]; rfl
  · rfl
@[simp] theorem State.mem_setMailbox (s : State) (sp n : Nat) (v : Word) : (s.setMailbox sp n v).mem = s.mem := rfl
@[simp] theorem State.mem_putRow (s : State) (c g : Nat) (m : Lanes) (r : Row) (t : Tag) : (s.putRow c g m r t).mem = s.mem :=
  State.modCore_mem s c _
@[simp] theorem State.mem_cleanLine (s : State) (l : Nat) : (s.cleanLine l).mem = s.mem := rfl

/-- Performing a pending access keeps the form. -/
theorem State.wf_perform (s : State) (c k : Nat) (a : Access) (h : Memory.wf s.mem = true) : Memory.wf (s.perform c k a).mem = true := by
  unfold State.perform
  cases a.kind with
  | load d signed => rw [State.mem_returnScalar]; exact h
  | amo d op b e =>
    dsimp only
    rw [State.mem_returnScalar]
    split
    · exact State.wf_storeD s _ _ _ _ _ h
    · exact h
  | mbr d n => rw [State.mem_returnScalar]; exact h
  | vload g m bounded =>
    apply State.wf_foldl _ _ _ _ h
    intro s r h
    rw [State.mem_putRow]; exact h
  | store v => exact State.wf_storeD s _ _ _ _ _ h
  | vstore m r =>
    dsimp only
    split
    · exact State.wf_scatterRow s _ a _ _ h
    · apply State.wf_foldl _ _ _ _ (State.wf_scatterRow s _ a _ _ h)
      intro s l h
      rw [State.mem_cleanLine]; exact h
  | mbw n v => rw [State.mem_setMailbox]; exact h
  | _ => exact h

end Sys2Proof.Machine
end

