-- ==== Sys2Proof/Laws/PerInstr.lean ====
section
/-! SUPPORT. The per-instruction family `Selects`: the opcode and the fields of a well-formed instruction select that instruction again
(spec/02 R31-R33). -/

set_option Elab.async false

namespace Sys2Proof.Laws

/-- The instruction that an opcode and a bundle of fields select. -/
def selectBundle (op : Nat) : Bundle → Option Instr
  | .r f => selectR op f
  | .i f => selectI op f
  | .m f => selectM op f
  | .l f => selectL op f
  | .e f => selectE op f

/-- A well-formed instruction is selected by its own opcode and fields; a device step has none. -/
def Selects.Statement (i : Instr) : Prop :=
  i.wf = true → ∀ p, i.bundle = some p → selectBundle p.1 p.2 = some i

theorem Selects.nop (f : RF) : Selects.Statement (.nop f) := by intro _ _ hp; cases hp; rfl
theorem Selects.ptb (f : IF) : Selects.Statement (.ptb f) := by intro _ _ hp; cases hp; rfl
theorem Selects.ptbr (f : RF) : Selects.Statement (.ptbr f) := by intro _ _ hp; cases hp; rfl
theorem Selects.bt (f : RF) : Selects.Statement (.bt f) := by intro _ _ hp; cases hp; rfl
theorem Selects.btl (f : RF) : Selects.Statement (.btl f) := by intro _ _ hp; cases hp; rfl
theorem Selects.loop (f : LF) : Selects.Statement (.loop f) := by intro _ _ hp; cases hp; rfl
theorem Selects.loopr (f : LF) : Selects.Statement (.loopr f) := by intro _ _ hp; cases hp; rfl
theorem Selects.lbrk (f : LF) : Selects.Statement (.lbrk f) := by intro _ _ hp; cases hp; rfl
theorem Selects.trap (f : IF) : Selects.Statement (.trap f) := by intro _ _ hp; cases hp; rfl
theorem Selects.brk (f : IF) : Selects.Statement (.brk f) := by intro _ _ hp; cases hp; rfl
theorem Selects.done (f : RF) : Selects.Statement (.done f) := by intro _ _ hp; cases hp; rfl
theorem Selects.add (f : RF) : Selects.Statement (.add f) := by intro _ _ hp; cases hp; rfl
theorem Selects.addi (f : IF) : Selects.Statement (.addi f) := by intro _ _ hp; cases hp; rfl
theorem Selects.sub (f : RF) : Selects.Statement (.sub f) := by intro _ _ hp; cases hp; rfl
theorem Selects.mul (f : RF) : Selects.Statement (.mul f) := by intro _ _ hp; cases hp; rfl
theorem Selects.mulh (f : RF) : Selects.Statement (.mulh f) := by intro _ _ hp; cases hp; rfl
theorem Selects.mulhw (f : RF) : Selects.Statement (.mulhw f) := by intro _ _ hp; cases hp; rfl
theorem Selects.div (f : RF) : Selects.Statement (.div f) := by intro _ _ hp; cases hp; rfl
theorem Selects.divw (f : RF) : Selects.Statement (.divw f) := by intro _ _ hp; cases hp; rfl
theorem Selects.rem (f : RF) : Selects.Statement (.rem f) := by intro _ _ hp; cases hp; rfl
theorem Selects.remw (f : RF) : Selects.Statement (.remw f) := by intro _ _ hp; cases hp; rfl
theorem Selects.and (f : RF) : Selects.Statement (.and f) := by intro _ _ hp; cases hp; rfl
theorem Selects.andi (f : IF) : Selects.Statement (.andi f) := by intro _ _ hp; cases hp; rfl
theorem Selects.or (f : RF) : Selects.Statement (.or f) := by intro _ _ hp; cases hp; rfl
theorem Selects.ori (f : IF) : Selects.Statement (.ori f) := by intro _ _ hp; cases hp; rfl
theorem Selects.xor (f : RF) : Selects.Statement (.xor f) := by intro _ _ hp; cases hp; rfl
theorem Selects.andn (f : RF) : Selects.Statement (.andn f) := by intro _ _ hp; cases hp; rfl
theorem Selects.shl (f : RF) : Selects.Statement (.shl f) := by intro _ _ hp; cases hp; rfl
theorem Selects.shr (f : RF) : Selects.Statement (.shr f) := by intro _ _ hp; cases hp; rfl
theorem Selects.sar (f : RF) : Selects.Statement (.sar f) := by intro _ _ hp; cases hp; rfl
theorem Selects.rot (f : RF) : Selects.Statement (.rot f) := by intro _ _ hp; cases hp; rfl
theorem Selects.clz (f : RF) : Selects.Statement (.clz f) := by intro _ _ hp; cases hp; rfl
theorem Selects.ctz (f : RF) : Selects.Statement (.ctz f) := by intro _ _ hp; cases hp; rfl
theorem Selects.popc (f : RF) : Selects.Statement (.popc f) := by intro _ _ hp; cases hp; rfl
theorem Selects.min (f : RF) : Selects.Statement (.min f) := by intro _ _ hp; cases hp; rfl
theorem Selects.max (f : RF) : Selects.Statement (.max f) := by intro _ _ hp; cases hp; rfl
theorem Selects.minw (f : RF) : Selects.Statement (.minw f) := by intro _ _ hp; cases hp; rfl
theorem Selects.maxw (f : RF) : Selects.Statement (.maxw f) := by intro _ _ hp; cases hp; rfl
theorem Selects.sext (f : RF) : Selects.Statement (.sext f) := by intro _ _ hp; cases hp; rfl
theorem Selects.zext (f : RF) : Selects.Statement (.zext f) := by intro _ _ hp; cases hp; rfl
theorem Selects.li (f : IF) : Selects.Statement (.li f) := by intro _ _ hp; cases hp; rfl
theorem Selects.lih (f : IF) : Selects.Statement (.lih f) := by intro _ _ hp; cases hp; rfl
theorem Selects.mov (f : RF) : Selects.Statement (.mov f) := by intro _ _ hp; cases hp; rfl
theorem Selects.sel (f : RF) : Selects.Statement (.sel f) := by intro _ _ hp; cases hp; rfl
theorem Selects.cmp (f : RF) : Selects.Statement (.cmp f) := by intro _ _ hp; cases hp; rfl
theorem Selects.cmpi (f : IF) : Selects.Statement (.cmpi f) := by intro _ _ hp; cases hp; rfl
theorem Selects.addx (f : RF) : Selects.Statement (.addx f) := by intro _ _ hp; cases hp; rfl
theorem Selects.bfx (f : RF) : Selects.Statement (.bfx f) := by intro _ _ hp; cases hp; rfl
theorem Selects.bfi (f : RF) : Selects.Statement (.bfi f) := by intro _ _ hp; cases hp; rfl
theorem Selects.fadd (f : RF) : Selects.Statement (.fadd f) := by intro _ _ hp; cases hp; rfl
theorem Selects.fsub (f : RF) : Selects.Statement (.fsub f) := by intro _ _ hp; cases hp; rfl
theorem Selects.fmul (f : RF) : Selects.Statement (.fmul f) := by intro _ _ hp; cases hp; rfl
theorem Selects.ffma (f : RF) : Selects.Statement (.ffma f) := by intro _ _ hp; cases hp; rfl
theorem Selects.fdiv (f : RF) : Selects.Statement (.fdiv f) := by intro _ _ hp; cases hp; rfl
theorem Selects.fsqrt (f : RF) : Selects.Statement (.fsqrt f) := by intro _ _ hp; cases hp; rfl
theorem Selects.fmin (f : RF) : Selects.Statement (.fmin f) := by intro _ _ hp; cases hp; rfl
theorem Selects.fmax (f : RF) : Selects.Statement (.fmax f) := by intro _ _ hp; cases hp; rfl
theorem Selects.fabs (f : RF) : Selects.Statement (.fabs f) := by intro _ _ hp; cases hp; rfl
theorem Selects.fneg (f : RF) : Selects.Statement (.fneg f) := by intro _ _ hp; cases hp; rfl
theorem Selects.fcmp (f : RF) : Selects.Statement (.fcmp f) := by intro _ _ hp; cases hp; rfl
theorem Selects.fcvt (f : RF) : Selects.Statement (.fcvt f) := by intro _ _ hp; cases hp; rfl
theorem Selects.psetClear (f : RF) : Selects.Statement (.psetClear f) := by
  intro h p hp; cases hp
  have h : ((f.uses true false false false && predDest f.d && f.plain) && true) = true := h
  have e : f.fn.toNat = 0 := by simp [RF.plain] at h; simp [h]
  simp only [selectBundle, selectR, selectR1, e]; rfl
theorem Selects.psetSet (f : RF) : Selects.Statement (.psetSet f) := by
  intro h p hp; cases hp
  have h : ((f.uses true false false false && predDest f.d && f.ty == 0 && f.rm == 0 && f.fn == 1) && true) = true := h
  have e : f.fn.toNat = 1 := by simp at h; simp [h]
  simp only [selectBundle, selectR, selectR1, e]; rfl
theorem Selects.psetGroup (f : RF) : Selects.Statement (.psetGroup f) := by
  intro h p hp; cases hp
  have h : ((f.uses true true false false && predDest f.d && f.ty == 0 && f.rm == 0 && 2 ≤ f.fn.toNat && f.fn.toNat ≤ 4) && true) = true := h
  simp at h
  obtain h | h | h : f.fn.toNat = 2 ∨ f.fn.toNat = 3 ∨ f.fn.toNat = 4 := by omega
  all_goals simp only [selectBundle, selectR, selectR1, h]; rfl
theorem Selects.pand (f : RF) : Selects.Statement (.pand f) := by intro _ _ hp; cases hp; rfl
theorem Selects.por (f : RF) : Selects.Statement (.por f) := by intro _ _ hp; cases hp; rfl
theorem Selects.pxor (f : RF) : Selects.Statement (.pxor f) := by intro _ _ hp; cases hp; rfl
theorem Selects.pandn (f : RF) : Selects.Statement (.pandn f) := by intro _ _ hp; cases hp; rfl
theorem Selects.pnot (f : RF) : Selects.Statement (.pnot f) := by intro _ _ hp; cases hp; rfl
theorem Selects.pfirst (f : RF) : Selects.Statement (.pfirst f) := by intro _ _ hp; cases hp; rfl
theorem Selects.pcnt (f : RF) : Selects.Statement (.pcnt f) := by intro _ _ hp; cases hp; rfl
theorem Selects.plen (f : RF) : Selects.Statement (.plen f) := by intro _ _ hp; cases hp; rfl
theorem Selects.vany (f : RF) : Selects.Statement (.vany f) := by intro _ _ hp; cases hp; rfl
theorem Selects.vall (f : RF) : Selects.Statement (.vall f) := by intro _ _ hp; cases hp; rfl
theorem Selects.ld (f : MF) : Selects.Statement (.ld f) := by intro _ _ hp; cases hp; rfl
theorem Selects.lds (f : MF) : Selects.Statement (.lds f) := by intro _ _ hp; cases hp; rfl
theorem Selects.st (f : MF) : Selects.Statement (.st f) := by intro _ _ hp; cases hp; rfl
theorem Selects.ldx (f : MF) : Selects.Statement (.ldx f) := by intro _ _ hp; cases hp; rfl
theorem Selects.stx (f : MF) : Selects.Statement (.stx f) := by intro _ _ hp; cases hp; rfl
theorem Selects.aadd (f : MF) : Selects.Statement (.aadd f) := by intro _ _ hp; cases hp; rfl
theorem Selects.amin (f : MF) : Selects.Statement (.amin f) := by intro _ _ hp; cases hp; rfl
theorem Selects.amax (f : MF) : Selects.Statement (.amax f) := by intro _ _ hp; cases hp; rfl
theorem Selects.aminw (f : MF) : Selects.Statement (.aminw f) := by intro _ _ hp; cases hp; rfl
theorem Selects.amaxw (f : MF) : Selects.Statement (.amaxw f) := by intro _ _ hp; cases hp; rfl
theorem Selects.aand (f : MF) : Selects.Statement (.aand f) := by intro _ _ hp; cases hp; rfl
theorem Selects.aor (f : MF) : Selects.Statement (.aor f) := by intro _ _ hp; cases hp; rfl
theorem Selects.axor (f : MF) : Selects.Statement (.axor f) := by intro _ _ hp; cases hp; rfl
theorem Selects.axch (f : MF) : Selects.Statement (.axch f) := by intro _ _ hp; cases hp; rfl
theorem Selects.acas (f : MF) : Selects.Statement (.acas f) := by intro _ _ hp; cases hp; rfl
theorem Selects.fence (f : MF) : Selects.Statement (.fence f) := by intro _ _ hp; cases hp; rfl
theorem Selects.fencel (f : MF) : Selects.Statement (.fencel f) := by intro _ _ hp; cases hp; rfl
theorem Selects.fenceh (f : MF) : Selects.Statement (.fenceh f) := by intro _ _ hp; cases hp; rfl
theorem Selects.mbr (f : IF) : Selects.Statement (.mbr f) := by intro _ _ hp; cases hp; rfl
theorem Selects.mbw (f : IF) : Selects.Statement (.mbw f) := by intro _ _ hp; cases hp; rfl
theorem Selects.mfc (f : IF) : Selects.Statement (.mfc f) := by intro _ _ hp; cases hp; rfl
theorem Selects.mtc (f : IF) : Selects.Statement (.mtc f) := by
  intro h p hp; cases hp
  have h : ((f.uses false true false && ctlPlainWrite f.x.toNat) && true) = true := h
  show some (mtcForm f) = _
  simp [ctlPlainWrite] at h
  simp only [mtcForm]
  (repeat' split) <;> simp_all <;> omega
theorem Selects.rngSeedWrite (f : IF) : Selects.Statement (.rngSeedWrite f) := by
  intro h p hp; cases hp
  have h : ((f.uses false true false && f.x == 0x21) && true) = true := h
  show some (mtcForm f) = _
  simp at h
  simp [mtcForm, h]
theorem Selects.engPoisonClear (f : IF) : Selects.Statement (.engPoisonClear f) := by
  intro h p hp; cases hp
  have h : ((f.uses false true false && f.x == 0x41) && true) = true := h
  show some (mtcForm f) = _
  simp at h
  simp [mtcForm, h]
theorem Selects.accGrantWrite (f : IF) : Selects.Statement (.accGrantWrite f) := by
  intro h p hp; cases hp
  have h : ((f.uses false true false && f.x == 0xA2) && true) = true := h
  show some (mtcForm f) = _
  simp at h
  simp [mtcForm, h]
theorem Selects.viewWordWrite (f : IF) : Selects.Statement (.viewWordWrite f) := by
  intro h p hp; cases hp
  have h : ((f.uses false true false && (f.x == 0xA0 || f.x == 0xA1)) && true) = true := h
  show some (mtcForm f) = _
  simp at h
  rcases h.2 with e | e <;> simp [mtcForm, e]
theorem Selects.loopCounterWrite (f : IF) : Selects.Statement (.loopCounterWrite f) := by
  intro h p hp; cases hp
  have h : ((f.uses false true false && 0xB0 ≤ f.x.toNat && f.x.toNat ≤ 0xB3) && true) = true := h
  show some (mtcForm f) = _
  simp at h
  simp only [mtcForm]
  (repeat' split) <;> simp_all <;> omega
theorem Selects.branchTargetWrite (f : IF) : Selects.Statement (.branchTargetWrite f) := by
  intro h p hp; cases hp
  have h : ((f.uses false true false && 0xB8 ≤ f.x.toNat && f.x.toNat ≤ 0xBF) && true) = true := h
  show some (mtcForm f) = _
  simp at h
  simp only [mtcForm]
  (repeat' split) <;> simp_all <;> omega
theorem Selects.xbGainWrite (f : IF) : Selects.Statement (.xbGainWrite f) := by
  intro h p hp; cases hp
  have h : ((f.uses false true false && 0x68 ≤ f.x.toNat && f.x.toNat ≤ 0x6B) && true) = true := h
  show some (mtcForm f) = _
  simp at h
  simp only [mtcForm]
  (repeat' split) <;> simp_all <;> omega
theorem Selects.xbSymWrite (f : IF) : Selects.Statement (.xbSymWrite f) := by
  intro h p hp; cases hp
  have h : ((f.uses false true false && 0x64 ≤ f.x.toNat && f.x.toNat ≤ 0x67) && true) = true := h
  show some (mtcForm f) = _
  simp at h
  simp only [mtcForm]
  (repeat' split) <;> simp_all <;> omega
theorem Selects.eret (f : RF) : Selects.Statement (.eret f) := by intro _ _ hp; cases hp; rfl
theorem Selects.sysc (f : IF) : Selects.Statement (.sysc f) := by intro _ _ hp; cases hp; rfl
theorem Selects.tlbiPage (f : MF) : Selects.Statement (.tlbiPage f) := by
  intro h p hp; cases hp
  have h : ((f.uses false true false && f.noOrder && f.sc != 0 && f.sz == 0) && true) = true := h
  have e : f.sz.toNat = 0 := by simp at h; simp [h]
  simp only [selectBundle, selectM, e]
theorem Selects.tlbiAll (f : MF) : Selects.Statement (.tlbiAll f) := by
  intro h p hp; cases hp
  have h : ((f.uses false false false && f.noOrder && f.sc != 0 && f.sz == 3 && f.disp == 0) && true) = true := h
  have e : f.sz.toNat = 3 := by simp at h; simp [h]
  simp only [selectBundle, selectM, e]
theorem Selects.pwrbOn (f : IF) : Selects.Statement (.pwrbOn f) := by
  intro h p hp; cases hp
  have h : ((pwrbFields f 3) && true) = true := h
  have e : (f.x.extractLsb' 0 2).toNat = 3 := by simp [pwrbFields] at h; simp [h]
  simp only [selectBundle, selectI, e]
theorem Selects.pwrbRet (f : IF) : Selects.Statement (.pwrbRet f) := by
  intro h p hp; cases hp
  have h : ((pwrbFields f 1) && true) = true := h
  have e : (f.x.extractLsb' 0 2).toNat = 1 := by simp [pwrbFields] at h; simp [h]
  simp only [selectBundle, selectI, e]
theorem Selects.pwrbOff (f : IF) : Selects.Statement (.pwrbOff f) := by
  intro h p hp; cases hp
  have h : ((pwrbFields f 0) && true) = true := h
  have e : (f.x.extractLsb' 0 2).toNat = 0 := by simp [pwrbFields] at h; simp [h]
  simp only [selectBundle, selectI, e]
theorem Selects.spawn (f : RF) : Selects.Statement (.spawn f) := by
  intro h p hp; cases hp
  have h : ((f.uses false true false false && f.plain) && true) = true := h
  have e : f.fn.toNat = 0 := by simp [RF.plain] at h; simp [h]
  simp only [selectBundle, selectR, selectR1, e]; rfl
theorem Selects.spawnG (f : RF) : Selects.Statement (.spawnG f) := by
  intro h p hp; cases hp
  have h : ((f.uses false true true false && f.ty == 0 && f.rm == 0 && f.fn == 1) && true) = true := h
  have e : f.fn.toNat = 1 := by simp at h; simp [h]
  simp only [selectBundle, selectR, selectR1, e]; rfl
theorem Selects.join (f : RF) : Selects.Statement (.join f) := by intro _ _ hp; cases hp; rfl
theorem Selects.waitf (f : RF) : Selects.Statement (.waitf f) := by intro _ _ hp; cases hp; rfl
theorem Selects.futureWake (c k : Nat) : Selects.Statement (.futureWake c k) := by intro _ _ hp; cases hp
theorem Selects.yield (f : RF) : Selects.Statement (.yield f) := by
  intro h p hp; cases hp
  have h : ((f.uses false false false false && f.plain) && true) = true := h
  have e : f.fn.toNat = 0 := by simp [RF.plain] at h; simp [h]
  simp only [selectBundle, selectR, selectR1, e]; rfl
theorem Selects.yieldQ (f : RF) : Selects.Statement (.yieldQ f) := by
  intro h p hp; cases hp
  have h : ((f.uses false false false false && f.ty == 0 && f.rm == 0 && f.fn == 1) && true) = true := h
  have e : f.fn.toNat = 1 := by simp at h; simp [h]
  simp only [selectBundle, selectR, selectR1, e]; rfl
theorem Selects.renqCpy (f : RF) : Selects.Statement (.renqCpy f) := by
  intro h p hp; cases hp
  have h : ((f.uses false true true false && f.plain) && true) = true := h
  have e : f.fn.toNat = 0 := by simp [RF.plain] at h; simp [h]
  simp only [selectBundle, selectR, selectR1, e]; rfl
theorem Selects.renqGat (f : RF) : Selects.Statement (.renqGat f) := by
  intro h p hp; cases hp
  have h : ((f.uses false true true false && f.ty == 0 && f.rm == 0 && f.fn == 1) && true) = true := h
  have e : f.fn.toNat = 1 := by simp at h; simp [h]
  simp only [selectBundle, selectR, selectR1, e]; rfl
theorem Selects.rngtCfg (f : RF) : Selects.Statement (.rngtCfg f) := by
  intro h p hp; cases hp
  have h : ((f.uses false true true true && f.plain && f.c.toNat < 16) && true) = true := h
  have e : f.fn.toNat = 0 := by simp [RF.plain] at h; simp [h]
  simp only [selectBundle, selectR, selectR1, e]; rfl
theorem Selects.rngt (f : RF) : Selects.Statement (.rngt f) := by
  intro h p hp; cases hp
  have h : ((f.uses true false false true && f.ty == 0 && f.rm == 0 && f.fn == 1 && f.c.toNat < 16) && true) = true := h
  have e : f.fn.toNat = 1 := by simp at h; simp [h]
  simp only [selectBundle, selectR, selectR1, e]; rfl
theorem Selects.pipewGet (f : RF) : Selects.Statement (.pipewGet f) := by
  intro h p hp; cases hp
  have h : ((f.uses true false true false && f.plain) && true) = true := h
  have e : f.fn.toNat = 0 := by simp [RF.plain] at h; simp [h]
  simp only [selectBundle, selectR, selectR1, e]; rfl
theorem Selects.pipewPut (f : RF) : Selects.Statement (.pipewPut f) := by
  intro h p hp; cases hp
  have h : ((f.uses false false true false && f.ty == 0 && f.rm == 0 && f.fn == 1) && true) = true := h
  have e : f.fn.toNat = 1 := by simp at h; simp [h]
  simp only [selectBundle, selectR, selectR1, e]; rfl
theorem Selects.piperGet (f : RF) : Selects.Statement (.piperGet f) := by
  intro h p hp; cases hp
  have h : ((f.uses true false true false && f.plain) && true) = true := h
  have e : f.fn.toNat = 0 := by simp [RF.plain] at h; simp [h]
  simp only [selectBundle, selectR, selectR1, e]; rfl
theorem Selects.piperPut (f : RF) : Selects.Statement (.piperPut f) := by
  intro h p hp; cases hp
  have h : ((f.uses false false true false && f.ty == 0 && f.rm == 0 && f.fn == 1) && true) = true := h
  have e : f.fn.toNat = 1 := by simp at h; simp [h]
  simp only [selectBundle, selectR, selectR1, e]; rfl
theorem Selects.pipeWake (c k : Nat) : Selects.Statement (.pipeWake c k) := by intro _ _ hp; cases hp
theorem Selects.bar (f : RF) : Selects.Statement (.bar f) := by
  intro h p hp; cases hp
  have h : ((f.uses true false false true && f.plain && f.c.toNat < 16) && true) = true := h
  have e : f.fn.toNat = 0 := by simp [RF.plain] at h; simp [h]
  simp only [selectBundle, selectR, selectR1, e]; rfl
theorem Selects.barCfg (f : RF) : Selects.Statement (.barCfg f) := by
  intro h p hp; cases hp
  have h : ((f.uses false true false true && f.ty == 0 && f.rm == 0 && f.fn == 1 && f.c.toNat < 16) && true) = true := h
  have e : f.fn.toNat = 1 := by simp at h; simp [h]
  simp only [selectBundle, selectR, selectR1, e]; rfl
theorem Selects.gbar (f : RF) : Selects.Statement (.gbar f) := by intro _ _ hp; cases hp; rfl
theorem Selects.walk (f : RF) : Selects.Statement (.walk f) := by intro _ _ hp; cases hp; rfl
theorem Selects.sendh (f : RF) : Selects.Statement (.sendh f) := by intro _ _ hp; cases hp; rfl
theorem Selects.vadd (f : RF) : Selects.Statement (.vadd f) := by intro _ _ hp; cases hp; rfl
theorem Selects.vsub (f : RF) : Selects.Statement (.vsub f) := by intro _ _ hp; cases hp; rfl
theorem Selects.vmul (f : RF) : Selects.Statement (.vmul f) := by intro _ _ hp; cases hp; rfl
theorem Selects.vfma (f : RF) : Selects.Statement (.vfma f) := by intro _ _ hp; cases hp; rfl
theorem Selects.vmin (f : RF) : Selects.Statement (.vmin f) := by intro _ _ hp; cases hp; rfl
theorem Selects.vmax (f : RF) : Selects.Statement (.vmax f) := by intro _ _ hp; cases hp; rfl
theorem Selects.vabs (f : RF) : Selects.Statement (.vabs f) := by intro _ _ hp; cases hp; rfl
theorem Selects.vneg (f : RF) : Selects.Statement (.vneg f) := by intro _ _ hp; cases hp; rfl
theorem Selects.vand (f : RF) : Selects.Statement (.vand f) := by intro _ _ hp; cases hp; rfl
theorem Selects.vor (f : RF) : Selects.Statement (.vor f) := by intro _ _ hp; cases hp; rfl
theorem Selects.vxor (f : RF) : Selects.Statement (.vxor f) := by intro _ _ hp; cases hp; rfl
theorem Selects.vshl (f : RF) : Selects.Statement (.vshl f) := by intro _ _ hp; cases hp; rfl
theorem Selects.vshr (f : RF) : Selects.Statement (.vshr f) := by intro _ _ hp; cases hp; rfl
theorem Selects.vsar (f : RF) : Selects.Statement (.vsar f) := by intro _ _ hp; cases hp; rfl
theorem Selects.vcmp (f : RF) : Selects.Statement (.vcmp f) := by intro _ _ hp; cases hp; rfl
theorem Selects.vsel (f : RF) : Selects.Statement (.vsel f) := by intro _ _ hp; cases hp; rfl
theorem Selects.vcvt (f : RF) : Selects.Statement (.vcvt f) := by intro _ _ hp; cases hp; rfl
theorem Selects.vclamp (f : RF) : Selects.Statement (.vclamp f) := by intro _ _ hp; cases hp; rfl
theorem Selects.vreds (f : RF) : Selects.Statement (.vreds f) := by intro _ _ hp; cases hp; rfl
theorem Selects.vredmMax (f : RF) : Selects.Statement (.vredmMax f) := by
  intro h p hp; cases hp
  have h : ((f.uses true true false false && f.tyIn [2, 6, 9, 10] && f.rm == 0 && f.fn == 0) && true) = true := h
  have e : f.fn.toNat = 0 := by simp at h; simp [h]
  simp only [selectBundle, selectR, selectR2, e]; rfl
theorem Selects.vredmMin (f : RF) : Selects.Statement (.vredmMin f) := by
  intro h p hp; cases hp
  have h : ((f.uses true true false false && f.tyIn [2, 6, 9, 10] && f.rm == 0 && f.fn == 1) && true) = true := h
  have e : f.fn.toNat = 1 := by simp at h; simp [h]
  simp only [selectBundle, selectR, selectR2, e]; rfl
theorem Selects.vscanInc (f : RF) : Selects.Statement (.vscanInc f) := by
  intro h p hp; cases hp
  have h : ((f.uses true true false false && f.tyIn [2, 6, 10] && f.rm == 0 && f.fn == 0) && true) = true := h
  have e : f.fn.toNat = 0 := by simp at h; simp [h]
  simp only [selectBundle, selectR, selectR2, e]; rfl
theorem Selects.vscanExc (f : RF) : Selects.Statement (.vscanExc f) := by
  intro h p hp; cases hp
  have h : ((f.uses true true false false && f.tyIn [2, 6, 10] && f.rm == 0 && f.fn == 1) && true) = true := h
  have e : f.fn.toNat = 1 := by simp at h; simp [h]
  simp only [selectBundle, selectR, selectR2, e]; rfl
theorem Selects.vperm (f : RF) : Selects.Statement (.vperm f) := by
  intro h p hp; cases hp
  have h : ((f.uses true true true false && f.plain) && true) = true := h
  have e : f.fn.toNat = 0 := by simp [RF.plain] at h; simp [h]
  simp only [selectBundle, selectR, selectR2, e]; rfl
theorem Selects.vpermTwo (f : RF) : Selects.Statement (.vpermTwo f) := by
  intro h p hp; cases hp
  have h : ((f.uses true true true true && f.ty == 0 && f.rm == 0 && f.fn == 1) && true) = true := h
  have e : f.fn.toNat = 1 := by simp at h; simp [h]
  simp only [selectBundle, selectR, selectR2, e]; rfl
theorem Selects.vbcast (f : RF) : Selects.Statement (.vbcast f) := by
  intro h p hp; cases hp
  have h : ((f.uses true true false false && f.tyIn tyMove && f.rm == 0 && f.fn == 0) && true) = true := h
  have e : f.fn.toNat = 0 := by simp at h; simp [h]
  simp only [selectBundle, selectR, selectR2, e]; rfl
theorem Selects.vbcastElement (f : RF) : Selects.Statement (.vbcastElement f) := by
  intro h p hp; cases hp
  have h : ((f.uses true true true false && f.tyIn tyMove && f.rm == 0 && f.fn == 1) && true) = true := h
  have e : f.fn.toNat = 1 := by simp at h; simp [h]
  simp only [selectBundle, selectR, selectR2, e]; rfl
theorem Selects.vins (f : RF) : Selects.Statement (.vins f) := by intro _ _ hp; cases hp; rfl
theorem Selects.vext (f : RF) : Selects.Statement (.vext f) := by intro _ _ hp; cases hp; rfl
theorem Selects.viota (f : RF) : Selects.Statement (.viota f) := by intro _ _ hp; cases hp; rfl
theorem Selects.vld (f : MF) : Selects.Statement (.vld f) := by intro _ _ hp; cases hp; rfl
theorem Selects.vst (f : MF) : Selects.Statement (.vst f) := by intro _ _ hp; cases hp; rfl
theorem Selects.vldt (f : MF) : Selects.Statement (.vldt f) := by intro _ _ hp; cases hp; rfl
theorem Selects.vrng (f : RF) : Selects.Statement (.vrng f) := by intro _ _ hp; cases hp; rfl
theorem Selects.vkrng (f : RF) : Selects.Statement (.vkrng f) := by intro _ _ hp; cases hp; rfl
theorem Selects.setvwV (f : RF) : Selects.Statement (.setvwV f) := by
  intro h p hp; cases hp
  have h : ((f.uses false true true false && f.plain) && true) = true := h
  have e : f.fn.toNat = 0 := by simp [RF.plain] at h; simp [h]
  simp only [selectBundle, selectR, selectR2, e]; rfl
theorem Selects.setvwT (f : RF) : Selects.Statement (.setvwT f) := by
  intro h p hp; cases hp
  have h : ((f.uses false true true false && f.ty == 0 && f.rm == 0 && f.fn == 1) && true) = true := h
  have e : f.fn.toNat = 1 := by simp at h; simp [h]
  simp only [selectBundle, selectR, selectR2, e]; rfl
theorem Selects.tld (f : MF) : Selects.Statement (.tld f) := by intro _ _ hp; cases hp; rfl
theorem Selects.tableLoadComplete (c n : Nat) : Selects.Statement (.tableLoadComplete c n) := by intro _ _ hp; cases hp
theorem Selects.tev (f : RF) : Selects.Statement (.tev f) := by intro _ _ hp; cases hp; rfl
theorem Selects.tcfgInv (f : RF) : Selects.Statement (.tcfgInv f) := by
  intro h p hp; cases hp
  have h : ((f.uses false false false true && f.plain && f.c.toNat < 8) && true) = true := h
  have e : f.fn.toNat = 0 := by simp [RF.plain] at h; simp [h]
  simp only [selectBundle, selectR, selectR2, e]; rfl
theorem Selects.tcfgStat (f : RF) : Selects.Statement (.tcfgStat f) := by
  intro h p hp; cases hp
  have h : ((f.uses true false false true && f.ty == 0 && f.rm == 0 && f.fn == 1 && f.c.toNat < 8) && true) = true := h
  have e : f.fn.toNat = 1 := by simp at h; simp [h]
  simp only [selectBundle, selectR, selectR2, e]; rfl
theorem Selects.amov (f : RF) : Selects.Statement (.amov f) := by intro _ _ hp; cases hp; rfl
theorem Selects.aclr (f : RF) : Selects.Statement (.aclr f) := by intro _ _ hp; cases hp; rfl
theorem Selects.aldv (f : RF) : Selects.Statement (.aldv f) := by
  intro h p hp; cases hp
  have h : ((f.uses false true true true && f.plain) && true) = true := h
  have e : f.fn.toNat = 0 := by simp [RF.plain] at h; simp [h]
  simp only [selectBundle, selectR, selectR2, e]; rfl
theorem Selects.aldvAdd (f : RF) : Selects.Statement (.aldvAdd f) := by
  intro h p hp; cases hp
  have h : ((f.uses false true true true && f.ty == 0 && f.rm.toNat < 5 && f.fn == 1) && true) = true := h
  have e : f.fn.toNat = 1 := by simp at h; simp [h]
  simp only [selectBundle, selectR, selectR2, e]; rfl
theorem Selects.admitRow (f : RF) : Selects.Statement (.admitRow f) := by
  intro h p hp; cases hp
  have h : ((f.uses true true true true && predDest f.d && f.plain) && true) = true := h
  have e : f.fn.toNat = 0 := by simp [RF.plain] at h; simp [h]
  simp only [selectBundle, selectR, selectR2, e]; rfl
theorem Selects.admitView (f : RF) : Selects.Statement (.admitView f) := by
  intro h p hp; cases hp
  have h : ((f.uses true true true false && predDest f.d && f.ty == 0 && f.rm == 0 && f.fn == 1) && true) = true := h
  have e : f.fn.toNat = 1 := by simp at h; simp [h]
  simp only [selectBundle, selectR, selectR2, e]; rfl
theorem Selects.cpy (f : EF) : Selects.Statement (.cpy f) := by
  intro h p hp; cases hp
  have h : ((f.r.uses true true true true && f.convTy && f.convRm) && (f.word1 && f.sub == 0)) = true := h
  have e : f.sub.toNat = 0 := by simp at h; simp [h]
  simp only [selectBundle, selectE, e]
theorem Selects.cpyFill (f : EF) : Selects.Statement (.cpyFill f) := by
  intro h p hp; cases hp
  have h : ((f.r.uses true true true true && f.r.plain) && (f.word1 && f.sub == 1)) = true := h
  have e : f.sub.toNat = 1 := by simp at h; simp [h]
  simp only [selectBundle, selectE, e]
theorem Selects.cpyFrom (f : EF) : Selects.Statement (.cpyFrom f) := by
  intro h p hp; cases hp
  have h : ((f.r.uses true true true true && f.r.plain) && (f.word1 && f.sub == 2)) = true := h
  have e : f.sub.toNat = 2 := by simp at h; simp [h]
  simp only [selectBundle, selectE, e]
theorem Selects.cpyTo (f : EF) : Selects.Statement (.cpyTo f) := by
  intro h p hp; cases hp
  have h : ((f.r.uses true true true true && f.r.plain) && (f.word1 && f.sub == 3)) = true := h
  have e : f.sub.toNat = 3 := by simp at h; simp [h]
  simp only [selectBundle, selectE, e]
theorem Selects.cpyw (f : EF) : Selects.Statement (.cpyw f) := by
  intro h p hp; cases hp
  have h : ((f.r.uses true true false false && f.r.plain) && (f.bare && f.sub == 0)) = true := h
  have e : f.sub.toNat = 0 := by simp at h; simp [h]
  simp only [selectBundle, selectE, e]
theorem Selects.cpywAll (f : EF) : Selects.Statement (.cpywAll f) := by
  intro h p hp; cases hp
  have h : ((f.r.uses true false false false && f.r.plain) && (f.bare && f.sub == 1)) = true := h
  have e : f.sub.toNat = 1 := by simp at h; simp [h]
  simp only [selectBundle, selectE, e]
theorem Selects.ccan (f : EF) : Selects.Statement (.ccan f) := by intro _ _ hp; cases hp; rfl
theorem Selects.cpoll (f : EF) : Selects.Statement (.cpoll f) := by intro _ _ hp; cases hp; rfl
theorem Selects.gath (f : EF) : Selects.Statement (.gath f) := by
  intro h p hp; cases hp
  have h : ((f.r.uses true true true true && f.convTy && f.convRm) && (f.word1 && f.sub == 0)) = true := h
  have e : f.sub.toNat = 0 := by simp at h; simp [h]
  simp only [selectBundle, selectE, e]
theorem Selects.gathSum (f : EF) : Selects.Statement (.gathSum f) := by
  intro h p hp; cases hp
  have h : ((f.r.uses true true true true && f.convTy && f.r.rm == 0) && (f.word1 && f.sub == 1)) = true := h
  have e : f.sub.toNat = 1 := by simp at h; simp [h]
  simp only [selectBundle, selectE, e]
theorem Selects.scad (f : EF) : Selects.Statement (.scad f) := by intro _ _ hp; cases hp; rfl
theorem Selects.collBcast (f : EF) : Selects.Statement (.collBcast f) := by
  intro h p hp; cases hp
  have h : ((f.r.uses true true true true && f.convTy && f.r.rm == 0) && (f.word1 && f.sub == 0)) = true := h
  have e : f.sub.toNat = 0 := by simp at h; simp [h]
  simp only [selectBundle, selectE, e]
theorem Selects.collSum (f : EF) : Selects.Statement (.collSum f) := by
  intro h p hp; cases hp
  have h : ((f.r.uses true true true true && f.convTy && f.r.rm.toNat < 4) && (f.word1 && f.sub == 1)) = true := h
  have e : f.sub.toNat = 1 := by simp at h; simp [h]
  simp only [selectBundle, selectE, e]
theorem Selects.collMax (f : EF) : Selects.Statement (.collMax f) := by
  intro h p hp; cases hp
  have h : ((f.r.uses true true true true && f.convTy && f.r.rm.toNat < 4) && (f.word1 && f.sub == 2)) = true := h
  have e : f.sub.toNat = 2 := by simp at h; simp [h]
  simp only [selectBundle, selectE, e]
theorem Selects.collMin (f : EF) : Selects.Statement (.collMin f) := by
  intro h p hp; cases hp
  have h : ((f.r.uses true true true true && f.convTy && f.r.rm.toNat < 4) && (f.word1 && f.sub == 3)) = true := h
  have e : f.sub.toNat = 3 := by simp at h; simp [h]
  simp only [selectBundle, selectE, e]
theorem Selects.collMatch (c q : Nat) : Selects.Statement (.collMatch c q) := by intro _ _ hp; cases hp
theorem Selects.evcfgCnt (f : EF) : Selects.Statement (.evcfgCnt f) := by
  intro h p hp; cases hp
  have h : ((f.r.uses false true false false && f.r.plain) && (f.bare && f.sub == 0)) = true := h
  have e : f.sub.toNat = 0 := by simp at h; simp [h]
  simp only [selectBundle, selectE, e]
theorem Selects.evcfgTerm (f : EF) : Selects.Statement (.evcfgTerm f) := by
  intro h p hp; cases hp
  have h : ((f.r.uses false true false false && f.r.plain) && (f.bare && f.sub == 1)) = true := h
  have e : f.sub.toNat = 1 := by simp at h; simp [h]
  simp only [selectBundle, selectE, e]
theorem Selects.evarm (f : EF) : Selects.Statement (.evarm f) := by
  intro h p hp; cases hp
  have h : ((f.r.uses false false false false && f.r.plain) && (f.bare && f.sub == 0)) = true := h
  have e : f.sub.toNat = 0 := by simp at h; simp [h]
  simp only [selectBundle, selectE, e]
theorem Selects.evarmClr (f : EF) : Selects.Statement (.evarmClr f) := by
  intro h p hp; cases hp
  have h : ((f.r.uses false false false false && f.r.plain) && (f.bare && f.sub == 1)) = true := h
  have e : f.sub.toNat = 1 := by simp at h; simp [h]
  simp only [selectBundle, selectE, e]
theorem Selects.evarmStat (f : EF) : Selects.Statement (.evarmStat f) := by
  intro h p hp; cases hp
  have h : ((f.r.uses true false false false && f.r.plain) && (f.bare && f.sub == 2)) = true := h
  have e : f.sub.toNat = 2 := by simp at h; simp [h]
  simp only [selectBundle, selectE, e]
theorem Selects.eventTermFiring (c t : Nat) : Selects.Statement (.eventTermFiring c t) := by intro _ _ hp; cases hp
theorem Selects.mstn (f : EF) : Selects.Statement (.mstn f) := by intro _ _ hp; cases hp; rfl
theorem Selects.mldw (f : EF) : Selects.Statement (.mldw f) := by intro _ _ hp; cases hp; rfl
theorem Selects.weightGroupLoadComplete (c m : Nat) : Selects.Statement (.weightGroupLoadComplete c m) := by intro _ _ hp; cases hp
theorem Selects.mms (f : EF) : Selects.Statement (.mms f) := by intro _ _ hp; cases hp; rfl
theorem Selects.mmsPairComplete (c m : Nat) : Selects.Statement (.mmsPairComplete c m) := by intro _ _ hp; cases hp
theorem Selects.scacc (f : EF) : Selects.Statement (.scacc f) := by intro _ _ hp; cases hp; rfl
theorem Selects.mrls (f : EF) : Selects.Statement (.mrls f) := by intro _ _ hp; cases hp; rfl
theorem Selects.mhintMms (f : EF) : Selects.Statement (.mhintMms f) := by
  intro h p hp; cases hp
  have h : ((f.r.uses false false false false && f.r.plain) && (f.bare && f.sub == 0)) = true := h
  have e : f.sub.toNat = 0 := by simp at h; simp [h]
  simp only [selectBundle, selectE, e]
theorem Selects.mhintXmv (f : EF) : Selects.Statement (.mhintXmv f) := by
  intro h p hp; cases hp
  have h : ((f.r.uses false false false false && f.r.plain) && (f.bare && f.sub == 1)) = true := h
  have e : f.sub.toNat = 1 := by simp at h; simp [h]
  simp only [selectBundle, selectE, e]
theorem Selects.allowanceRise (c : Nat) (u : AllowKind) : Selects.Statement (.allowanceRise c u) := by intro _ _ hp; cases hp
theorem Selects.allowanceFall (c : Nat) (u : AllowKind) : Selects.Statement (.allowanceFall c u) := by intro _ _ hp; cases hp
theorem Selects.leadInEnd (c : Nat) (u : AllowKind) : Selects.Statement (.leadInEnd c u) := by intro _ _ hp; cases hp
theorem Selects.tailEnd (c : Nat) (u : AllowKind) : Selects.Statement (.tailEnd c u) := by intro _ _ hp; cases hp
theorem Selects.xmv (f : EF) : Selects.Statement (.xmv f) := by intro _ _ hp; cases hp; rfl
theorem Selects.xmvt (f : EF) : Selects.Statement (.xmvt f) := by intro _ _ hp; cases hp; rfl
theorem Selects.xupd (f : EF) : Selects.Statement (.xupd f) := by intro _ _ hp; cases hp; rfl
theorem Selects.xdep (f : EF) : Selects.Statement (.xdep f) := by
  intro h p hp; cases hp
  have h : ((f.r.uses false false false true && f.r.plain) && (f.word1 && f.sub == 0 && !f.eng.getLsbD 8)) = true := h
  simp at h
  simp only [selectBundle, selectE]; simp [h]
theorem Selects.xdepRst (f : EF) : Selects.Statement (.xdepRst f) := by
  intro h p hp; cases hp
  have h : ((f.r.uses false false false true && f.r.plain) && (f.word1 && f.sub == 0 && f.eng.getLsbD 8)) = true := h
  simp at h
  simp only [selectBundle, selectE]; simp [h]
theorem Selects.xcal (f : EF) : Selects.Statement (.xcal f) := by intro _ _ hp; cases hp; rfl
theorem Selects.xsym (f : EF) : Selects.Statement (.xsym f) := by intro _ _ hp; cases hp; rfl
theorem Selects.xrd (f : EF) : Selects.Statement (.xrd f) := by intro _ _ hp; cases hp; rfl
theorem Selects.xpgm (f : EF) : Selects.Statement (.xpgm f) := by intro _ _ hp; cases hp; rfl
theorem Selects.xstat (f : EF) : Selects.Statement (.xstat f) := by
  intro h p hp; cases hp
  have h : ((f.r.uses true false false false && f.r.plain) && (f.bare && f.sub == 0)) = true := h
  have e : f.sub.toNat = 0 := by simp at h; simp [h]
  simp only [selectBundle, selectE, e]
theorem Selects.xstatWait (f : EF) : Selects.Statement (.xstatWait f) := by
  intro h p hp; cases hp
  have h : ((f.r.uses true false false false && f.r.plain) && (f.bare && f.sub == 1)) = true := h
  have e : f.sub.toNat = 1 := by simp at h; simp [h]
  simp only [selectBundle, selectE, e]
theorem Selects.xstatBlk (f : EF) : Selects.Statement (.xstatBlk f) := by
  intro h p hp; cases hp
  have h : ((f.r.uses false true false false && f.r.plain) && (f.bare && f.sub == 2)) = true := h
  have e : f.sub.toNat = 2 := by simp at h; simp [h]
  simp only [selectBundle, selectE, e]
theorem Selects.crossbarCommandComplete (c t : Nat) : Selects.Statement (.crossbarCommandComplete c t) := by intro _ _ hp; cases hp
theorem Selects.idleSweep (c t : Nat) : Selects.Statement (.idleSweep c t) := by intro _ _ hp; cases hp
theorem Selects.pcfg (f : EF) : Selects.Statement (.pcfg f) := by intro _ _ hp; cases hp; rfl
theorem Selects.rjcfg (f : EF) : Selects.Statement (.rjcfg f) := by
  intro h p hp; cases hp
  have h : ((f.r.uses false true false false && f.r.plain) && (f.bare && f.sub == 0)) = true := h
  have e : f.sub.toNat = 0 := by simp at h; simp [h]
  simp only [selectBundle, selectE, e]
theorem Selects.rjcfgVer (f : EF) : Selects.Statement (.rjcfgVer f) := by
  intro h p hp; cases hp
  have h : ((f.r.uses false true false false && f.r.plain) && (f.bare && f.sub == 1)) = true := h
  have e : f.sub.toNat = 1 := by simp at h; simp [h]
  simp only [selectBundle, selectE, e]
theorem Selects.rjseal (f : EF) : Selects.Statement (.rjseal f) := by intro _ _ hp; cases hp; rfl
theorem Selects.rjsend (f : EF) : Selects.Statement (.rjsend f) := by intro _ _ hp; cases hp; rfl
theorem Selects.rjtake (f : EF) : Selects.Statement (.rjtake f) := by intro _ _ hp; cases hp; rfl
theorem Selects.strd (f : EF) : Selects.Statement (.strd f) := by intro _ _ hp; cases hp; rfl
theorem Selects.mdec (f : EF) : Selects.Statement (.mdec f) := by intro _ _ hp; cases hp; rfl
theorem Selects.mrsz (f : EF) : Selects.Statement (.mrsz f) := by intro _ _ hp; cases hp; rfl
theorem Selects.engineCommandStart (c q : Nat) : Selects.Statement (.engineCommandStart c q) := by intro _ _ hp; cases hp
theorem Selects.engineCommandComplete (c q : Nat) : Selects.Statement (.engineCommandComplete c q) := by intro _ _ hp; cases hp
theorem Selects.rewardArrival (d : MsgArrival) : Selects.Statement (.rewardArrival d) := by intro _ _ hp; cases hp
theorem Selects.entryTimeout (d : Nat) : Selects.Statement (.entryTimeout d) := by intro _ _ hp; cases hp
theorem Selects.orphanLoss (d : Nat) : Selects.Statement (.orphanLoss d) := by intro _ _ hp; cases hp
theorem Selects.episodeScan (d : Nat) : Selects.Statement (.episodeScan d) := by intro _ _ hp; cases hp
theorem Selects.episodeRelease (d : Nat) : Selects.Statement (.episodeRelease d) := by intro _ _ hp; cases hp
theorem Selects.relayoutCommand (w : WindowStore) : Selects.Statement (.relayoutCommand w) := by intro _ _ hp; cases hp
theorem Selects.poolingCommand (w : WindowStore) : Selects.Statement (.poolingCommand w) := by intro _ _ hp; cases hp
theorem Selects.stackCommandComplete (b : Nat) : Selects.Statement (.stackCommandComplete b) := by intro _ _ hp; cases hp
theorem Selects.statusWindowStore (w : WindowStore) : Selects.Statement (.statusWindowStore w) := by intro _ _ hp; cases hp
theorem Selects.reduceAddF32 (w : WindowStore) : Selects.Statement (.reduceAddF32 w) := by intro _ _ hp; cases hp
theorem Selects.reduceAddBf16 (w : WindowStore) : Selects.Statement (.reduceAddBf16 w) := by intro _ _ hp; cases hp
theorem Selects.reduceMaxF32 (w : WindowStore) : Selects.Statement (.reduceMaxF32 w) := by intro _ _ hp; cases hp
theorem Selects.pearlDataAccess (w : WindowStore) : Selects.Statement (.pearlDataAccess w) := by intro _ _ hp; cases hp
theorem Selects.computeRowRefresh (b : BankId) : Selects.Statement (.computeRowRefresh b) := by intro _ _ hp; cases hp
theorem Selects.computeRowForcedRefresh (b : BankId) (r : Nat) : Selects.Statement (.computeRowForcedRefresh b r) := by intro _ _ hp; cases hp
theorem Selects.resultLanding (c : Nat) : Selects.Statement (.resultLanding c) := by intro _ _ hp; cases hp
theorem Selects.loadReturn (c k i : Nat) : Selects.Statement (.loadReturn c k i) := by intro _ _ hp; cases hp
theorem Selects.loadErrorReturn (c k i : Nat) : Selects.Statement (.loadErrorReturn c k i) := by intro _ _ hp; cases hp
theorem Selects.trapEntry (c k : Nat) : Selects.Statement (.trapEntry c k) := by intro _ _ hp; cases hp
theorem Selects.reservationExpiry (c k : Nat) : Selects.Statement (.reservationExpiry c k) := by intro _ _ hp; cases hp
theorem Selects.faultRecordPlacement (d : Nat) : Selects.Statement (.faultRecordPlacement d) := by intro _ _ hp; cases hp
theorem Selects.faultAnswer (d n : Nat) : Selects.Statement (.faultAnswer d n) := by intro _ _ hp; cases hp
theorem Selects.preemptRequest (d : Nat) : Selects.Statement (.preemptRequest d) := by intro _ _ hp; cases hp
theorem Selects.restoreRequest (d : Nat) : Selects.Statement (.restoreRequest d) := by intro _ _ hp; cases hp
theorem Selects.migrationRequest : Selects.Statement (.migrationRequest) := by intro _ _ hp; cases hp
theorem Selects.grottoPop (g : Nat) : Selects.Statement (.grottoPop g) := by intro _ _ hp; cases hp
theorem Selects.steal (g : Nat) : Selects.Statement (.steal g) := by intro _ _ hp; cases hp
theorem Selects.handlerStart (c : Nat) : Selects.Statement (.handlerStart c) := by intro _ _ hp; cases hp
theorem Selects.spill (c k : Nat) : Selects.Statement (.spill c k) := by intro _ _ hp; cases hp
theorem Selects.waitResume (g i : Nat) : Selects.Statement (.waitResume g i) := by intro _ _ hp; cases hp
theorem Selects.gangAdmission : Selects.Statement (.gangAdmission) := by intro _ _ hp; cases hp
theorem Selects.stepTake (c : Nat) : Selects.Statement (.stepTake c) := by intro _ _ hp; cases hp
theorem Selects.walkComplete (g i : Nat) : Selects.Statement (.walkComplete g i) := by intro _ _ hp; cases hp
theorem Selects.launch (q : HostReq) : Selects.Statement (.launch q) := by intro _ _ hp; cases hp
theorem Selects.mailboxWrite (q : HostReq) : Selects.Statement (.mailboxWrite q) := by intro _ _ hp; cases hp
theorem Selects.mailboxRead (q : HostReq) : Selects.Statement (.mailboxRead q) := by intro _ _ hp; cases hp
theorem Selects.retireLaunch (q : HostReq) : Selects.Statement (.retireLaunch q) := by intro _ _ hp; cases hp
theorem Selects.openStorageConnection (q : HostReq) : Selects.Statement (.openStorageConnection q) := by intro _ _ hp; cases hp
theorem Selects.closeStorageConnection (q : HostReq) : Selects.Statement (.closeStorageConnection q) := by intro _ _ hp; cases hp
theorem Selects.hostRdmaWrite (qp pa : Nat) (data : List Byte) : Selects.Statement (.hostRdmaWrite qp pa data) := by intro _ _ hp; cases hp
theorem Selects.hostRdmaRead (qp pa n : Nat) : Selects.Statement (.hostRdmaRead qp pa n) := by intro _ _ hp; cases hp
theorem Selects.nvmeTransportError (conn : Nat) : Selects.Statement (.nvmeTransportError conn) := by intro _ _ hp; cases hp
theorem Selects.firmwareRecovery (q : HostReq) : Selects.Statement (.firmwareRecovery q) := by intro _ _ hp; cases hp
theorem Selects.attestationReport (q : HostReq) : Selects.Statement (.attestationReport q) := by intro _ _ hp; cases hp
theorem Selects.certificateChain (q : HostReq) : Selects.Statement (.certificateChain q) := by intro _ _ hp; cases hp
theorem Selects.powerUp : Selects.Statement (.powerUp) := by intro _ _ hp; cases hp
theorem Selects.ioDieStart : Selects.Statement (.ioDieStart) := by intro _ _ hp; cases hp
theorem Selects.computeDieStart (d : Nat) : Selects.Statement (.computeDieStart d) := by intro _ _ hp; cases hp
theorem Selects.grottoStart (g : Nat) : Selects.Statement (.grottoStart g) := by intro _ _ hp; cases hp
theorem Selects.linkTraining (m : Nat) (domain : List Nat) : Selects.Statement (.linkTraining m domain) := by intro _ _ hp; cases hp
theorem Selects.moduleReady : Selects.Statement (.moduleReady) := by intro _ _ hp; cases hp
theorem Selects.powerWindowEnd (draw : Nat) : Selects.Statement (.powerWindowEnd draw) := by intro _ _ hp; cases hp
theorem Selects.thermalThrottle (sensor temp : Nat) : Selects.Statement (.thermalThrottle sensor temp) := by intro _ _ hp; cases hp
theorem Selects.thermalStop (sensor temp : Nat) : Selects.Statement (.thermalStop sensor temp) := by intro _ _ hp; cases hp
theorem Selects.uncorrectableStorageError (e : ErrSite) : Selects.Statement (.uncorrectableStorageError e) := by intro _ _ hp; cases hp
theorem Selects.errorWindowClose (u : UnitCode) : Selects.Statement (.errorWindowClose u) := by intro _ _ hp; cases hp
theorem Selects.lastingFaultDeclaration (u : UnitCode) : Selects.Statement (.lastingFaultDeclaration u) := by intro _ _ hp; cases hp
theorem Selects.ringFlitRetransmit (b : Nat) : Selects.Statement (.ringFlitRetransmit b) := by intro _ _ hp; cases hp
theorem Selects.ringBoundaryFault (b : Nat) : Selects.Statement (.ringBoundaryFault b) := by intro _ _ hp; cases hp
theorem Selects.umaotFlitRetransmit (l : Nat) : Selects.Statement (.umaotFlitRetransmit l) := by intro _ _ hp; cases hp
theorem Selects.umaotRequestResend (l m : Nat) : Selects.Statement (.umaotRequestResend l m) := by intro _ _ hp; cases hp
theorem Selects.destinationUnreachable (l m : Nat) : Selects.Statement (.destinationUnreachable l m) := by intro _ _ hp; cases hp
theorem Selects.illegalEncoding (w : Word) : Selects.Statement (.illegalEncoding w) := by intro _ _ hp; cases hp
theorem Selects.storePerform (c k i : Nat) : Selects.Statement (.storePerform c k i) := by intro _ _ hp; cases hp
theorem Selects.translationQueryAnswer (c k : Nat) : Selects.Statement (.translationQueryAnswer c k) := by intro _ _ hp; cases hp
theorem Selects.coreClockCycle (c : Nat) : Selects.Statement (.coreClockCycle c) := by intro _ _ hp; cases hp
theorem Selects.hostQueuePairConnect (qp : Nat) : Selects.Statement (.hostQueuePairConnect qp) := by intro _ _ hp; cases hp
theorem Selects.routeRestore (m : Nat) : Selects.Statement (.routeRestore m) := by intro _ _ hp; cases hp
theorem Selects.umaotLinkDown (l : Nat) : Selects.Statement (.umaotLinkDown l) := by intro _ _ hp; cases hp
theorem Selects.throttleEnd (temps : List Nat) : Selects.Statement (.throttleEnd temps) := by intro _ _ hp; cases hp

end Sys2Proof.Laws
end

