-- ==== Sys2Proof/Laws/Results.lean ====
section
/-! SUPPORT. What a scalar and a predicate result leave once the instruction has issued. -/

set_option Elab.async false

namespace Sys2Proof.Machine

theorem Core.sameBut_trans {x y z : Core} {k : Nat} (h1 : x.sameBut y k) (h2 : y.sameBut z k) : x.sameBut z k := by
  refine ⟨?_, fun j hj => ?_⟩
  · exact (congrArg (fun w : Core => { w with ctxs := x.ctxs, last := x.last, issued := x.issued }) h2.1).trans h1.1
  · exact (congrArg (fun w : Ctx => { w with yieldTo := (x.ctx j).yieldTo }) (h2.2 j hj)).trans (h1.2 j hj)

theorem State.sameElsewhere_trans {s t u : State} (hc : t.curCore = s.curCore) (h1 : s.sameElsewhere t) (h2 : t.sameElsewhere u) :
    s.sameElsewhere u := by
  refine ⟨?_, fun c h => ?_⟩
  · exact (congrArg (fun w : State => { w with cores := s.cores }) h2.1).trans h1.1
  · rw [h2.2 c (by rw [hc]; exact h), h1.2 c h]

theorem State.sameElsewhere_modMe (s : State) (f : Ctx → Ctx) : s.sameElsewhere (s.modMe f) :=
  ⟨rfl, fun _ hc => State.core_modCtx_ne s _ f hc⟩

/-- A change of the issuing context alone leaves the other contexts of its core as they were. -/
theorem State.myCore_sameBut_modMe (s : State) (f : Ctx → Ctx) : s.myCore.sameBut (s.modMe f).myCore s.curCtx := by
  rw [State.myCore_modMe]
  exact ⟨rfl, fun j hj => by rw [Core.ctx_setCtx_ne _ _ hj]⟩

theorem Ctx.sameBut_rd {x y : Ctx} (h : x.sameBut y) (n : Nat) : y.rd n = x.rd n := by
  have e : y.sregs = x.sregs := by
    have := congrArg Ctx.sregs (show x.settled y = x from h)
    exact this
  simp [Ctx.rd, e]
theorem Ctx.sameBut_rdP {x y : Ctx} (h : x.sameBut y) (n : Nat) : y.rdP n = x.rdP n := by
  have e : y.preds = x.preds := by
    have := congrArg Ctx.preds (show x.settled y = x from h)
    exact this
  simp [Ctx.rdP, e]
theorem Ctx.sameBut_mark {x y : Ctx} (h : x.sameBut y) (n : Nat) : y.mark n = x.mark n := by
  have e : y.marks = x.marks := by
    have := congrArg Ctx.marks (show x.settled y = x from h)
    exact this
  simp [Ctx.mark, e]

theorem Ctx.wrLat_parts (x : Ctx) (now n : Nat) (v : Word) (lat : Nat) :
    x.wrLat now n v lat = { x with sregs := (x.wrLat now n v lat).sregs, busy := (x.wrLat now n v lat).busy,
                                   acc := (x.wrLat now n v lat).acc } := by
  unfold Ctx.wrLat Ctx.wr; split <;> rfl
theorem Ctx.wrPLat_parts (x : Ctx) (now n : Nat) (v : Lanes) (m : Bool) (lat : Nat) :
    x.wrPLat now n v m lat = { x with preds := (x.wrPLat now n v m lat).preds, marks := (x.wrPLat now n v m lat).marks,
                                      busy := (x.wrPLat now n v m lat).busy } := by
  unfold Ctx.wrPLat Ctx.wrP; split <;> rfl

theorem Ctx.sameBut_result {x y : Ctx} {a : Tab Word} {b : Tab Nat} {l : List Access}
    (h : ({ x with sregs := a, busy := b, acc := l } : Ctx).sameBut y) : ({ x with sregs := y.sregs, busy := y.busy } : Ctx).sameBut y := by
  have e1 : y.sregs = a := congrArg Ctx.sregs h
  have e2 : y.busy = b := congrArg Ctx.busy h
  rw [e1, e2]
  exact congrArg (fun w : Ctx => { w with acc := x.acc }) h
theorem Ctx.sameBut_presult {x p y : Ctx} (hp : p = { x with preds := p.preds, marks := p.marks, busy := p.busy }) (h : p.sameBut y) :
    ({ x with preds := y.preds, marks := y.marks, busy := y.busy } : Ctx).sameBut y := by
  have h' : p.settled y = p := h
  have e1 : y.preds = p.preds := by
    have := congrArg Ctx.preds h'
    exact this
  have e2 : y.busy = p.busy := by
    have := congrArg Ctx.busy h'
    exact this
  have e3 : y.marks = p.marks := by
    have := congrArg Ctx.marks h'
    exact this
  rw [e1, e2, e3, ← hp]; exact h

/-- A scalar result stands in its register and nowhere else. -/
theorem State.scalarDone_putS (s : State) (d : Nat) (v : Word) (lat len : Nat) : s.scalarDone ((s.putS d v lat).stepped len) d v := by
  have hi := State.onlyIssued_stepped (s.putS d v lat) len
  have h1 := hi.1
  have h2 := hi.2.1
  have h3 := hi.2.2
  have hme : (s.putS d v lat).me = s.me.wrLat s.now d v lat := State.me_modMe s _
  have hel : s.sameElsewhere (s.putS d v lat) := State.sameElsewhere_modMe s _
  have hmy : s.myCore.sameBut (s.putS d v lat).myCore s.curCtx := State.myCore_sameBut_modMe s _
  have hb : ∀ a, ((s.putS d v lat).stepped len).byte a = s.byte a :=
    State.byte_congr (by simp [State.stepped])
  have hel' := State.sameElsewhere_trans (s := s) (t := s.putS d v lat) rfl hel h1
  have hmy' := Core.sameBut_trans hmy h2
  have hr : ∀ n, ((s.putS d v lat).stepped len).me.rd n = if n = 0 then 0 else if n = d then v else s.me.rd n := fun n => by
    rw [Ctx.sameBut_rd h3, hme, Ctx.rd_wrLat]
  rw [hme, Ctx.wrLat_parts] at h3
  exact ⟨hr, hel', hmy', Ctx.sameBut_result h3, hb⟩

/-- A predicate result stands in its predicate and nowhere else. -/
theorem State.predDone_putP (s : State) (d : Nat) (v : Lanes) (m : Bool) (lat len : Nat) :
    s.predDone ((s.putP d v m lat).stepped len) d v m lat := by
  have hi := State.onlyIssued_stepped (s.putP d v m lat) len
  have h1 := hi.1
  have h2 := hi.2.1
  have h3 := hi.2.2
  have hme : (s.putP d v m lat).me = s.me.wrPLat s.now d v m lat := by
    rw [State.putP, State.me_modMy, State.myCore_modMe]
    exact Core.ctx_setCtx_same _ _ _
  have hel : s.sameElsewhere (s.putP d v m lat) :=
    State.sameElsewhere_trans (t := s.modMe fun x => x.wrPLat s.now d v m lat) rfl (State.sameElsewhere_modMe s _) (State.sameElsewhere_modMy _ _)
  have hmy : (s.myCore.cover s.curCtx d lat allLanes).sameBut (s.putP d v m lat).myCore s.curCtx := by
    rw [State.putP, State.myCore_modMy, State.myCore_modMe]
    exact ⟨rfl, fun j hj => congrArg (fun w : Ctx => { w with yieldTo := (s.myCore.ctx j).yieldTo }) (Core.ctx_setCtx_ne s.myCore (s.me.wrPLat s.now d v m lat) hj)⟩
  have hb : ∀ a, ((s.putP d v m lat).stepped len).byte a = s.byte a :=
    State.byte_congr (by simp [State.stepped])
  refine ⟨fun n => ?_, fun n => ?_, State.sameElsewhere_trans (s := s) (t := s.putP d v m lat) rfl hel h1, Core.sameBut_trans hmy h2, ?_,
    hb⟩
  · rw [Ctx.sameBut_rdP h3, hme, Ctx.rdP_wrPLat]
  · rw [Ctx.sameBut_mark h3, hme, Ctx.mark_wrPLat]
  · exact Ctx.sameBut_presult (by rw [hme]; exact Ctx.wrPLat_parts _ _ _ _ _ _) h3

end Sys2Proof.Machine
end

