-- ==== Sys2Proof/Tests/Slice0.lean ====
section
/-! SUPPORT. Tests: ill-formed instructions refused, words of the spec's worked encodings decoded, for every statement of
Obligations.lean a concrete state and operands that meet its hypotheses, and single steps with results taken from the spec's worked
examples or by hand from its rules. -/

set_option Elab.async false

namespace Sys2Proof.Tests

open Sys2Proof.Machine

/-! ## Ill-formed instructions are refused (R21, R32, R33) -/

/-- No field used beyond those named. -/
def rf (d a b : BitVec 6) : RF := ⟨.always, d, a, b, 0, 0, 0, 0⟩
def imm (d a : BitVec 6) (x : BitVec 32) : IF := ⟨.always, d, a, 0, x⟩
def mf (d a : BitVec 6) (sz : BitVec 3) (disp : BitVec 20) : MF := ⟨.always, d, a, 0, 0, 3, false, false, sz, disp⟩
def lf (lvl : BitVec 2) (cnt : BitVec 14) (fin : BitVec 16) : LF := ⟨.always, 0, 0, 0, lvl, cnt, fin⟩
/-- Engine command with scope mod. -/
def ef (d a b c : BitVec 6) (eng : BitVec 40) : EF := ⟨⟨.always, d, a, b, c, 0, 0, 0⟩, 0, 3, false, false, false, 0, 0, eng⟩

theorem test_wf_guard : (Instr.nop { rf 0 0 0 with gd := ⟨false, 24⟩ }).wf = false ∧ (Instr.nop { rf 0 0 0 with gd := ⟨true, 31⟩ }).wf = false ∧
    (Instr.nop { rf 0 0 0 with gd := ⟨true, 23⟩ }).wf = true := by decide

theorem test_wf_unused_fields : (Instr.nop (rf 1 0 0)).wf = false ∧ (Instr.clz (rf 1 2 3)).wf = false ∧
    (Instr.add { rf 1 2 3 with c := 1 }).wf = false ∧ (Instr.add { rf 1 2 3 with fn := 1 }).wf = false ∧
    (Instr.li (imm 1 2 0)).wf = false ∧ (Instr.lbrk (lf 0 0 1)).wf = false ∧ (Instr.loopr (lf 0 1 1)).wf = false ∧
    (Instr.add (rf 1 2 3)).wf = true := by decide

theorem test_wf_targets : (Instr.ptb (imm 8 0 0)).wf = false ∧ (Instr.ptbr (rf 8 1 0)).wf = false ∧ (Instr.bt (rf 0 8 0)).wf = false ∧
    (Instr.loop (lf 0 3 0)).wf = false ∧ (Instr.loop (lf 3 3 1)).wf = true := by decide

theorem test_wf_types : (Instr.sext { rf 1 2 0 with ty := 3 }).wf = false ∧ (Instr.zext { rf 1 2 0 with ty := 3 }).wf = false ∧
    (Instr.fadd { rf 1 2 3 with ty := 9 }).wf = false ∧ (Instr.fadd { rf 1 2 3 with ty := 10, rm := 5 }).wf = false ∧
    (Instr.fcvt { rf 1 2 0 with ty := 10, fn := 10 }).wf = false ∧ (Instr.vadd { rf 1 2 3 with ty := 3 }).wf = false ∧
    (Instr.vadd { rf 1 2 3 with ty := 2, rm := 1 }).wf = false := by decide

theorem test_wf_conditions : (Instr.cmp { rf 1 2 3 with fn := 10 }).wf = false ∧ (Instr.cmp (rf 0 2 3)).wf = false ∧
    (Instr.cmp (rf 24 2 3)).wf = false ∧ (Instr.fcmp { rf 1 2 3 with ty := 10, fn := 6 }).wf = false ∧
    (Instr.pand (rf 1 24 1)).wf = false ∧ (Instr.pand (rf 1 0 23)).wf = true := by decide

theorem test_wf_fields : (Instr.bfx { rf 1 2 0 with c := 60, ty := 7, fn := 5 }).wf = false ∧
    (Instr.bfx { rf 1 2 0 with ty := 7 }).wf = false ∧ (Instr.bfx { rf 1 2 0 with c := 60, ty := 7, fn := 4 }).wf = true ∧
    (Instr.addx { rf 1 2 3 with fn := 8 }).wf = false := by decide

theorem test_wf_memory : (Instr.ld { mf 1 2 4 0 with k := 0 }).wf = false ∧ (Instr.ld { mf 1 2 3 0 with rl := true }).wf = false ∧
    (Instr.st { mf 1 2 3 0 with aq := true }).wf = false ∧ (Instr.ld { mf 1 2 3 0 with sc := 5 }).wf = false ∧
    (Instr.ldx (mf 1 2 1 0)).wf = false ∧ (Instr.ld (mf 1 2 3 0)).wf = true := by decide

theorem test_wf_control : (Instr.mfc (imm 1 0 0x15)).wf = false ∧ (Instr.mtc (imm 0 1 0x10)).wf = false ∧
    (Instr.mfc (imm 1 0 0xBF)).wf = true ∧ (Instr.pwrbOn (imm 0 0 3)).wf = false ∧ (Instr.pwrbOn (imm 0 0 0x13)).wf = true := by decide

theorem test_wf_engine : (Instr.cpy { ef 1 2 3 4 0 with sc := 5 }).wf = false ∧ (Instr.cpy { ef 1 2 3 4 0 with term := 1 }).wf = false ∧
    (Instr.cpy { ef 1 2 3 4 0 with ev := true, term := 8 }).wf = false ∧ (Instr.cpyw (ef 1 2 0 0 0)).wf = false ∧
    (Instr.cpy (ef 1 2 3 4 0)).wf = true := by decide

/-! ## Words of the worked encodings decode to what they stand for

Each word and its assembly stand in the spec's encoding tables: chapters 2 to 7, 9, 12, 14 to 16, 20, 21, 24 and 27. -/

theorem test_decode_control :
    decode 0x0204001F00000001 none = .instr (.ptb (imm 1 0 1)) 1 ∧
    decode 0x0600001F0004000D none = .instr (.loop (lf 0 4 13)) 1 ∧
    decode 0x0700301F40000001 none = .instr (.loopr { lf 1 0 1 with a := 3 }) 1 ∧
    decode 0x0900001F00000007 none = .instr (.trap (imm 0 0 7)) 1 ∧
    decode 0x5F00001F00000000 none = .instr (.eret (rf 0 0 0)) 1 := by decide +kernel

theorem test_decode_scalar :
    decode 0x0D104022FFFFFFFF none = .instr (.addi { imm 4 4 0xFFFFFFFF with gd := ⟨true, 2⟩ }) 1 ∧
    decode 0x2830D01F01400000 none = .instr (.zext { rf 12 13 0 with ty := 5 }) 1 ∧
    decode 0x2A2C001F00400012 none = .instr (.lih (imm 11 0 0x400012)) 1 ∧
    decode 0x2E04B05F00000000 none = .instr (.cmpi ⟨.always, 1, 11, 1, 0⟩) 1 ∧
    decode 0x2D09141F00000600 none = .instr (.cmp { rf 2 17 16 with fn := 6 }) 1 ∧
    decode 0x3030B01FA1C01800 none = .instr (.bfx ⟨.always, 12, 11, 0, 40, 7, 0, 24⟩) 1 := by decide +kernel

theorem test_decode_memory :
    decode 0x5728C2DF17B00010 none = .instr (.acas ⟨.always, 10, 12, 11, 1, 3, true, true, 3, 16⟩) 1 ∧
    decode 0x4B24E3DF36200000 none = .instr (.st ⟨.always, 9, 14, 15, 3, 3, false, false, 2, 0⟩) 1 ∧
    decode 0x4940A01F07300040 none = .instr (.ld ⟨.always, 16, 10, 0, 0, 3, true, false, 3, 64⟩) 1 ∧
    decode 0x4B2CA01F08B00040 none = .instr (.st ⟨.always, 11, 10, 0, 0, 4, false, true, 3, 64⟩) 1 ∧
    decode 0x4B5CB01F06318000 none = .instr (.st (mf 23 11 3 0x18000)) 1 ∧
    decode 0x5800001F04000006 none = .instr (.fence ⟨.always, 0, 0, 0, 0, 2, false, false, 0, 6⟩) 1 ∧
    decode 0x5A00001F08000000 none = .instr (.fenceh ⟨.always, 0, 0, 0, 0, 4, false, false, 0, 0⟩) 1 ∧
    decode 0x5B0C001F00000005 none = .instr (.mbr (imm 3 0 5)) 1 := by decide +kernel

theorem test_decode_vector :
    decode 0x7F51501F02C01A00 none = .instr (.vcvt ⟨.always, 20, 21, 0, 0, 11, 0, 0x1A⟩) 1 ∧
    decode 0x880C825F06400005 none = .instr (.vld ⟨.always, 3, 8, 9, 0, 3, false, false, 4, 5⟩) 1 ∧
    decode 0x901C601F02400200 none = .instr (.tev ⟨.always, 7, 6, 0, 0, 9, 0, 2⟩) 1 ∧
    decode 0x8F00F01F06000000 none = .instr (.tld (mf 0 15 0 0)) 1 ∧
    decode 0x700C161F02808000 none = .instr (.vsub ⟨.always, 3, 1, 24, 0, 10, 0, 0x80⟩) 1 ∧
    decode 0x9301461F00000000 none = .instr (.aclr (rf 0 20 24)) 1 ∧
    decode 0x9205401F00000000 none = .instr (.amov (rf 1 20 0)) 1 ∧
    decode 0x9508365F00000100 none = .instr (.admitView { rf 2 3 25 with fn := 1 }) 1 ∧
    decode 0x9509425F00000000 none = .instr (.admitRow (rf 2 20 9)) 1 := by decide +kernel

theorem test_decode_tasks :
    decode 0x6300501F00000000 none = .instr (.spawn (rf 0 5 0)) 1 ∧
    decode 0x681C001F0C000100 none = .instr (.rngt ⟨.always, 7, 0, 0, 3, 0, 0, 1⟩) 1 ∧
    decode 0x6800519F14000000 none = .instr (.rngtCfg ⟨.always, 0, 5, 6, 5, 0, 0, 0⟩) 1 ∧
    decode 0x6E00415F18000300 none = .instr (.sendh ⟨.always, 0, 4, 5, 6, 0, 0, 3⟩) 1 ∧
    decode 0x6A28025F00000000 none = .instr (.piperGet (rf 10 0 9)) 1 ∧
    decode 0x6B00901F00000100 none = .instr (.barCfg { rf 0 9 0 with fn := 1 }) 1 ∧
    decode 0x6B68001F00000000 none = .instr (.bar (rf 26 0 0)) 1 := by decide +kernel

theorem test_decode_system :
    decode 0x5D14001F00000040 none = .instr (.mfc (imm 5 0 0x40)) 1 ∧
    decode 0x6100401F06000000 none = .instr (.tlbiPage (mf 0 4 0 0)) 1 ∧
    decode 0x6200001F00000080 none = .instr (.pwrbOff (imm 0 0 0x80)) 1 ∧
    decode 0x6200001F00000041 none = .instr (.pwrbRet (imm 0 0 0x41)) 1 := by decide +kernel

theorem test_decode_engines :
    decode 0xC01461DF20000000 (some 0x0640000000000000) = .instr (.cpy { ef 5 6 7 8 0 with ev := true }) 2 ∧
    decode 0xC089E81F84000000 (some 0x0600020000000000) = .instr (.cpyFrom { ef 34 30 32 33 0 with sub := 2 }) 2 ∧
    decode 0xC700A01F00000000 (some 0x0000010000000000) = .instr (.evcfgTerm { ef 0 10 0 0 0 with sc := 0, sub := 1 }) 2 ∧
    decode 0xC800001F00000000 (some 0x0000010000000000) = .instr (.evarmClr { ef 0 0 0 0 0 with sc := 0, sub := 1 }) 2 ∧
    decode 0xC615B71F74000000 (some 0x0900000001800000) = .instr (.collBcast ⟨rf 5 27 28 |> fun r => { r with c := 29 }, 0, 4, true, false, false, 0, 0, 0x1800000⟩) 2 ∧
    decode 0xC13CE01F00000000 (some 0) = .instr (.cpyw { ef 15 14 0 0 0 with sc := 0 }) 2 ∧
    decode 0xC01461DF20000000 none = .needWord1 := by decide +kernel

theorem test_decode_matrix :
    decode 0xC900001F03400000 (some 0x000000A020A80000) =
      .instr (.mstn { ef 0 0 0 0 0xA020A80000 with sc := 0, r := { rf 0 0 0 with ty := 13 } }) 2 ∧
    decode 0xCA00601F03400000 (some 0x060000A0000A8000) = .instr (.mldw { ef 0 6 0 0 0xA0000A8000 with r := { rf 0 6 0 with ty := 13 } }) 2 ∧
    decode 0xCB20929F02C00000 (some 0x060000A000C00400) = .instr (.mms { ef 8 9 10 0 0xA000C00400 with r := { rf 8 9 10 with ty := 11 } }) 2 ∧
    decode 0xCC2C831F00000000 (some 0x0600000098000000) = .instr (.scacc (ef 11 8 12 0 0x98000000)) 2 ∧
    decode 0xCE00001F00000000 (some 0x0000002030025800) = .instr (.mhintMms { ef 0 0 0 0 0x2030025800 with sc := 0 }) 2 := by decide +kernel

theorem test_decode_crossbar :
    decode 0xCF51501F02400000 (some 0x0600004010000000) = .instr (.xmv { ef 20 21 0 0 0x4010000000 with r := { rf 20 21 0 with ty := 9 } }) 2 ∧
    decode 0xD11461DF22400000 (some 0x0600004280000000) =
      .instr (.xupd { ef 5 6 7 8 0x4280000000 with r := ⟨.always, 5, 6, 7, 8, 9, 0, 0⟩ }) 2 ∧
    decode 0xD200001FB0000000 (some 0x060000000801FF00) = .instr (.xdepRst (ef 0 0 0 44 0x801FF00)) 2 ∧
    decode 0xD200001FB0000000 (some 0x060000000800FE00) = .instr (.xdep (ef 0 0 0 44 0x800FE00)) 2 ∧
    decode 0xD300001F00000000 (some 0x0000004000000000) = .instr (.xcal { ef 0 0 0 0 0x4000000000 with sc := 0 }) 2 ∧
    decode 0xD7C8001F00000000 (some 0x0000010000000000) = .instr (.xstatWait { ef 50 0 0 0 0 with sc := 0, sub := 1 }) 2 := by decide +kernel

theorem test_decode_units :
    decode 0xD840E29F00000000 (some 0x0600000000000000) = .instr (.pcfg (ef 16 14 10 0 0)) 2 ∧
    decode 0xDA50A01F00000000 (some 0x0600000000000000) = .instr (.rjseal (ef 20 10 0 0 0)) 2 ∧
    decode 0xDB38B31F00000000 (some 0x0600000600000000) = .instr (.rjsend (ef 14 11 12 0 0x600000000)) 2 ∧
    decode 0xDC28B01F00000000 (some 0) = .instr (.rjtake { ef 10 11 0 0 0 with sc := 0 }) 2 ∧
    decode 0xDD15501F00000000 (some 0x0600000000000000) = .instr (.strd (ef 5 21 0 0 0)) 2 ∧
    decode 0xDF20901F02C00000 (some 0x0600000000000000) = .instr (.mrsz { ef 8 9 0 0 0 with r := { rf 8 9 0 with ty := 11 } }) 2 := by decide +kernel

/-- Whether a word, with the word after it, is refused with the word `x` as trap.info. -/
def refused (w : Word) (v : Option Word) (x : Word) : Bool := match decode w v with
  | .illegal _ y => x == y
  | _ => false

theorem test_decode_refuses : refused 0 none 0 = true ∧ refused 0x0104001F00000000 none 0x0104001F00000000 = true ∧
    refused 0xC01461DF20000000 (some 0x0A00000000000000) 0x0A00000000000000 = true := by decide +kernel

/-! ## Hypotheses are met: the step, issue, scalar instructions, control -/

/-- Right after reset, context 0 of core 0 at level `l` with registers set. -/
def box (l : Nat) (rs : List (Nat × Word)) : State :=
  State.reset.modMe fun x => { rs.foldl (fun y p => y.wr p.1 p.2) x with level := l }

/-- `box` with the context changed further. -/
def boxC (l : Nat) (rs : List (Nat × Word)) (h : Ctx → Ctx) : State := (box l rs).modMe h

/-- Words at the program counter of context 0, ready to issue. -/
def code (ws : List Word) : State := State.reset.place (ws.flatMap fun w => leBytes 8 w.toNat)

def isNext : Host.Outcome State Fault Refusal → Bool
  | .next _ => true
  | _ => false

/-- A guard that is false at reset, where p1 holds no lane. -/
def notP1 : Guard := ⟨false, 1⟩

theorem test_witness_DecodeInvertsEncode : (Instr.add (rf 1 2 3)).wf = true ∧ encode (.add (rf 1 2 3)) = some [0x0C0420DF00000000] ∧
    (Instr.cpy (ef 5 6 7 8 0)).wf = true ∧ encode (.cpy (ef 5 6 7 8 0)) = some [0xC01461DF20000000, 0x0600000000000000] := by decide +kernel

theorem test_witness_EncodeInvertsDecode : decode 0xC01461DF20000000 (some 0x0640000000000000) = .instr (.cpy { ef 5 6 7 8 0 with ev := true }) 2 ∧
    decode 0x0C0420DF00000000 (some 0) = .instr (.add (rf 1 2 3)) 1 := by decide +kernel

theorem test_witness_ReservedOpcodeTraps : formatOf (opOf 0) = none ∧ formatOf (opOf 0xFF00000000000000) = none := by decide

/-- An instruction of one word, one of two, an illegal word, and a slot word. -/
theorem test_witness_StepRunsDecoded :
    (∀ s ∈ [code [0x0C0420DF00000000], code [0xC01461DF20000000, 0x0600000000000000], code [0xFF00000000000000],
        (code []).modMe fun x => { x with delay := some ⟨2, true, 0x200000, 0x0C0420DF00000000, 0x0100001F00000000⟩ }],
      s.koyth.state ≠ 3 ∧ s.inputs = [] ∧ s.startStep.isNone = true ∧ s.due.isNone = true ∧ s.openSteps = [] ∧ s.running = [0] ∧
      (s.core 0).issued = false ∧ (s.core 0).chosen = some 0) ∧
    (∀ ws ∈ [[0x0C0420DF00000000], [0xC01461DF20000000, 0x0600000000000000], [0xFF00000000000000]],
      (code ws).me.delay = none ∧ (code ws).fetch 0 0 (code ws).me.pc = .word (ws.headD 0)) ∧
    (code [0xC01461DF20000000, 0x0600000000000000]).fetch 0 0 (0x200000 + 8) = .word 0x0600000000000000 ∧
    decode 0x0C0420DF00000000 none = .instr (.add (rf 1 2 3)) 1 ∧ decode 0xC01461DF20000000 none = .needWord1 ∧
    decode 0xC01461DF20000000 (some 0x0600000000000000) = .instr (.cpy (ef 5 6 7 8 0)) 2 ∧
    decode 0xFF00000000000000 none = .illegal .reservedOpcode 0xFF00000000000000 := by decide +kernel

theorem test_witness_StepKeepsMemoryForm : Memory.wf (code [0x0100001F00000000]).mem = true ∧ isNext (step (code [0x0100001F00000000])) = true := by
  decide +kernel

theorem test_witness_SteppingPast : (box 0 []).me.delay = none ∧ (∀ l, l < 4 → ((box 0 []).me.loop l).act = false) ∧
    (∀ n ∈ [1, 2], (boxC 0 [] fun x => { x with delay := some ⟨n, true, 64, 0, 0⟩ }).me.delay = some ⟨n, true, 64, 0, 0⟩) ∧
    (box 0 []).guardOk .always = true := by decide +kernel

/-- Loop level 1 active to address 16, three iterations. -/
def looping : State := boxC 0 [] fun x => (x.setLoop 1 ⟨true, 8, 16, 3, 0⟩)

theorem test_witness_FalseGuard : (box 0 []).guardOk notP1 = true ∧ (box 0 []).me.guardTrue notP1 = false := by decide +kernel

theorem test_witness_ScalarResults : (box 0 [(2, 5), (3, 7)]).goes 0 .always [2, 3] = true ∧ (box 0 []).goes 0 .always [2] = true ∧
    (box 0 []).goes 0 .always [1] = true ∧ (box 0 []).goes 0 .always [2, 3, 64 + 1] = true ∧
    (box 0 []).predsPass [1] [1] = true ∧ 64 ≤ (64 : Word).toNat ∧ (63 : Word).toNat < 64 ∧ (1 : Word) ≠ 0 := by decide +kernel

theorem test_witness_Compares : (box 0 [(2, 5)]).goes 0 .always [2, 3] = true ∧ (box 0 []).goes 0 .always [2] = true := by decide +kernel

theorem test_witness_ScalarFloat : (box 0 []).goes 0 .always [2, 3] = true ∧ (box 0 []).goes 0 .always [2, 3, 4] = true ∧
    (box 0 []).goes 0 .always [2] = true ∧ (fmtOf 10).isSome = true ∧ (fmtOf 2).isNone = true ∧ (fmtOf 7).isNone = true := by decide +kernel

theorem test_witness_PredicateResults : (box 0 []).goes 0 .always [64 + 1, 64 + 2] = true ∧ (box 0 []).predsPass [1, 2] [] = true ∧
    (box 0 []).goes 0 .always [] = true ∧ (box 0 []).goes 0 .always [2, 64 + 1] = true ∧ (box 0 []).goes 0 .always [64 + 23] = true ∧
    (box 0 []).predsPass [23] [23] = true ∧ (box 0 []).goesV .always [64 + 1] = true ∧ (box 0 []).goesV ⟨true, 3⟩ [64 + 1] = true ∧
    (box 0 []).rowsPass [] (1 :: maskPred ⟨true, 3⟩) (1 :: maskPred ⟨true, 3⟩) = true := by decide +kernel

theorem test_witness_BranchTargets : (box 0 []).goes 0 .always [] = true ∧
    ([(4 : Word), 0x0100000000000008, 0x1008].all fun v => (box 0 [(2, v)]).goes 0 .always [2] && (box 0 [(2, v)]).getS 2 == v) = true ∧
    (4 : Word).extractLsb' 0 3 ≠ 0 ∧ (0x0100000000000008 : Word).extractLsb' 0 3 = 0 ∧ (0x0100000000000008 : Word).extractLsb' 56 8 ≠ 0 ∧
    (0x1008 : Word).extractLsb' 0 3 = 0 ∧ (0x1008 : Word).extractLsb' 56 8 = 0 ∧ (box 0 []).me.pc.extractLsb' 0 3 = 0 := by decide +kernel

/-- A first slot refused, a second slot refused, both allowed. -/
theorem test_witness_Branches : ([((0x0300001F00000000 : Word), (0 : Word)), (0x0100001F00000000, 0x0300001F00000000), (0x0100001F00000000, 0x0C0420DF00000000)].all fun p =>
      let s := code [0x0300001F00000000, p.1, p.2]
      s.guardOk .always && s.fetch s.curCore s.curCtx (s.me.pc + 8) == .word p.1 &&
      s.fetch s.curCore s.curCtx (s.me.pc + 16) == .word p.2 && !s.me.slotsLate) = true ∧
    slotOk 0x0300001F00000000 = false ∧ slotOk 0x0100001F00000000 = true ∧ slotOk 0x0C0420DF00000000 = true := by decide +kernel

/-- A loop opens above one that ends at its own word and above one that does not; a loop with no iterations; LBRK; the end test. -/
theorem test_witness_Loops : (box 0 [(2, 4)]).guardOk .always = true ∧ (box 0 [(2, 4)]).me.guardTrue .always = true ∧ (lf 2 3 2).fin ≠ 0 ∧
    ((lf 2 3 2).cnt.setWidth 64 : Word) ≠ 0 ∧ (box 0 [(2, 4)]).myCore.ready 0 2 = true ∧ (box 0 [(2, 4)]).getS 2 ≠ 0 ∧
    (∀ m, m < 2 → ((box 0 [(2, 4)]).me.loop m).act = false) ∧
    (let s := looping.modMe fun x => { x with pc := 16 }
     s.guardOk .always = true ∧ s.me.guardTrue .always = true ∧ (s.me.loop 1).act = true ∧ (s.me.loop 1).endw = s.me.pc ∧
     ((s.me.loop 1).lc + 1).toNat < (s.me.loop 1).trip.toNat ∧ s.myCore.ready 0 2 = true ∧ s.getS 2 = 0) ∧
    (∀ m, m < 1 → (looping.me.loop m).act = false) ∧ looping.guardOk notP1 = true ∧ looping.me.guardTrue notP1 = false ∧
    looping.guardOk .always = true ∧ looping.me.guardTrue .always = true ∧ (looping.me.loop 1).act = true ∧
    (box 0 []).guardOk .always = true ∧ ((box 0 []).me.loop 1).act = false ∧
    ((fun e : Word => e == 16) (looping.me.loop 1).endw) = true ∧ ((looping.me.loop 1).lc + 1).toNat < (looping.me.loop 1).trip.toNat := by
  decide +kernel

theorem test_witness_SystemCall : (0x6000001F00000003 : Word).extractLsb' 56 8 = 0x60 ∧ (0x6000001F00000003 : Word).extractLsb' 32 24 = 0x1F ∧
    (box 0 []).goes 0 .always [] = true ∧ (box 0 []).myCore.drained 0 = true := by decide +kernel

/-- A load of context 0 is outstanding; a trap of context 1 waits. -/
theorem test_witness_TrapEntry : (box 2 []).myCore.drained 0 = true ∧
    (boxC 0 [] fun x => { x with busy := [(3, 5)] }).myCore.drained 0 = false ∧
    ((State.reset.modCtx 0 1 fun x => { x with run := .trapping 0x11 7 64 }).ctx 0 1).run = .trapping 0x11 7 64 ∧
    ((State.reset.modCtx 0 1 fun x => { x with run := .trapping 0x11 7 64 }).core 0).drained 1 = true ∧
    ((State.reset.modCtx 0 1 fun x => { x with run := .trapping 0x11 7 64 }).ctx 0 1).delay = none := by decide +kernel

theorem test_witness_TrapReturn : ([((0x211 : Word), (0 : Word)), (0x111, 4), (0x011, 64)].all fun p =>
      (boxC 1 [] fun x => { x with trapCause := p.1, trapPc := p.2 }).goes 1 .always []) = true ∧
    1 < ((0x211 : Word).extractLsb' 8 2).toNat ∧ ((0x111 : Word).extractLsb' 8 2).toNat ≤ 1 ∧ (4 : Word).extractLsb' 0 3 ≠ 0 ∧
    ((0x011 : Word).extractLsb' 8 2).toNat ≤ 1 ∧ (64 : Word).extractLsb' 0 3 = 0 ∧ (box 0 []).goes 0 .always [] = true := by decide +kernel

theorem test_witness_PrivilegeRefused : (box 0 []).me.level = 0 ∧ (3 : Nat) < 4 ∧ ((imm 0 0 0x113).x.extractLsb' 8 2).toNat ≠ (box 0 []).curCtx := by
  decide +kernel

theorem test_witness_ControlReads : (∀ n ∈ [0, 0x8F], (box 1 []).goes (readLevel n) .always [] = true) ∧
    ∀ n ∈ [0x10, 0x20, 0x41, 0xA0, 0xB3, 0xBF], (box 0 []).goes (readLevel n) .always [] = true := by decide +kernel

theorem test_witness_ControlWrites : (box 1 [(2, 64)]).goes 1 .always [2] = true ∧ (box 0 [(2, 64)]).goes 0 .always [2] = true ∧
    (64 : Word).extractLsb' 0 6 = 0 ∧ (4 : Word).extractLsb' 0 6 ≠ 0 ∧ (0x211 : Word).extractLsb' 10 54 = 0 ∧ (0x211 : Word).extractLsb' 8 2 ≠ 3 ∧
    (0x400 : Word).extractLsb' 10 54 ≠ 0 ∧ (0x300 : Word).extractLsb' 8 2 = 3 ∧ (1 : Word).extractLsb' 1 63 = 0 ∧ (2 : Word).extractLsb' 1 63 ≠ 0 ∧
    (let v : Word := 0x40000000100
     v.extractLsb' 43 21 = 0 ∧ v.extractLsb' 10 22 = 0 ∧ (v.extractLsb' 32 11).toNat ≤ 1024) ∧
    ¬(((0x40100000000 : Word).extractLsb' 32 11).toNat ≤ 1024) ∧ (4 : Word).extractLsb' 0 3 ≠ 0 ∧
    (0x0100000000000008 : Word).extractLsb' 0 3 = 0 ∧ (0x0100000000000008 : Word).extractLsb' 56 8 ≠ 0 ∧ (64 : Word).extractLsb' 56 8 = 0 ∧
    (let v : Word := 0x3C00000080003F80
     (∀ b ∈ [0, 16, 32, 48], bf16Plain (v.extractLsb' b 16) = true) ∧ (v.extractLsb' 48 15).toNat ≤ 0x3C00) ∧
    ¬(((0x3C01000000000000 : Word).extractLsb' 48 15).toNat ≤ 0x3C00) ∧
    (let v : Word := 0x800003FF00003F80
     v.extractLsb' 42 21 = 0 ∧ v.extractLsb' 16 16 = 0 ∧ (v.extractLsb' 0 15).toNat ≤ 0x3F80 ∧ v.getLsbD 63 = true) ∧
    (0x3F80 : Word).getLsbD 63 = false ∧ (0x10000 : Word).extractLsb' 16 16 ≠ 0 ∧
    (box 1 []).myCore.tileQ 0 = 0 ∧
    (3 : Word).extractLsb' 5 59 = 0 ∧ (0x20 : Word).extractLsb' 5 59 ≠ 0 ∧ viewBase 0x0000030000000040 % 64 = 0 ∧
    viewStride 0x0000030000000040 % 64 = 0 ∧ (0x0000030000000040 : Word).extractLsb' 48 16 = 0 ∧ (0x0000030000000040 : Word).extractLsb' 16 16 = 0 ∧
    ¬(viewBase 1 % 64 = 0) ∧ viewBase 0x10000 % 64 = 0 ∧ viewStride 0x10000 % 64 = 0 ∧ (0x10000 : Word).extractLsb' 16 16 ≠ 0 := by decide +kernel

/-- A page and a space dropped; a bank of the own context at task level, and one of another context at runtime level. -/
theorem test_witness_TranslationsAndBanks : (box 1 [(2, 0x200000)]).goes 1 .always [2] = true ∧ (box 1 []).goes 1 .always [] = true ∧
    (box 0 []).goes 0 .always [] = true ∧
    ((0x80 : BitVec 32).extractLsb' 8 2).toNat = (box 0 []).curCtx ∧ ((0x180 : BitVec 32).extractLsb' 8 2).toNat ≠ (box 1 []).curCtx ∧
    ∀ b, b < 4 → (box 0 []).myCore.bankBusy 0 b = false ∧ (box 1 []).myCore.bankBusy 1 b = false := by decide +kernel

/-! ## Hypotheses are met: memory, rows, tasks -/

/-- Two continuations come to the same end: both are called with one argument, or neither is called. -/
def Both {α : Type} (b1 b2 : α → Issue) (i j : Issue) : Prop := (∃ r, i = b1 r ∧ j = b2 r) ∨ i = j

theorem Both.ite {α : Type} {b1 b2 : α → Issue} {c : Prop} [Decidable c] {t e t' e' : Issue} (h1 : Both b1 b2 t t') (h2 : Both b1 b2 e e') :
    Both b1 b2 (if c then t else e) (if c then t' else e') := by split <;> assumption

theorem Both.stop {α : Type} {b1 b2 : α → Issue} (i : Issue) : Both b1 b2 i i := .inr rfl

theorem checkDiscard_both (s : State) (now : Bool) {α : Type} {b1 b2 : α → Issue} {i j : Issue} (h : Both b1 b2 i j) :
    Both b1 b2 (s.checkDiscard now i) (s.checkDiscard now j) := by
  unfold State.checkDiscard
  cases s.me.discard with
  | none => exact h
  | some a => exact .ite (.stop _) h

theorem rowAccess_both (s : State) (f : MF) (n : Nat) (w : Bool) (m : Lanes) (ready : RowAcc → Bool) (b1 b2 : RowAcc → Issue) :
    Both b1 b2 (s.rowAccess f n w m ready b1) (s.rowAccess f n w m ready b2) := by
  unfold State.rowAccess
  dsimp only
  refine .ite (.stop _) (.ite (.stop _) (.ite (.stop _) ?_))
  generalize s.lookAll _ _ _ = o
  cases o with
  | wait a => exact .stop _
  | miss a => exact .stop _
  | malformed a => exact .stop _
  | ok trs =>
  refine .ite (.stop _) (.ite (.stop _) (.ite (.stop _) ?_))
  generalize (if (f.b != 0) = true then List.find? _ _ else none) = o
  cases o with
  | some p => exact .stop _
  | none =>
  refine .ite (.stop _) (.ite (.stop _) ?_)
  generalize (if (f.b != 0 && !w && s.me.dbgLayout.getLsbD 0) = true then _ else []) = o
  cases o with
  | cons p => exact .stop _
  | nil => exact .ite (.stop _) (checkDiscard_both s _ (.inl ⟨_, rfl, rfl⟩))

theorem ownOperand_both (s : State) (a : Word) (m : Option Word) (l : List Nat) (b1 b2 : Issue) :
    Both (fun _ : Unit => b1) (fun _ => b2) (s.ownOperand a m l b1) (s.ownOperand a m l b2) := by
  unfold State.ownOperand
  dsimp only
  repeat' split
  all_goals first | exact .inl ⟨(), rfl, rfl⟩ | exact .inr rfl

/-- Cause of a trap. -/
def causeOf : Issue → Nat
  | .trap n _ => n
  | _ => 0

theorem Both.run {α : Type} [DecidableEq α] {F : (α → Issue) → Issue} (r : α) (h : ∀ b1 b2, Both b1 b2 (F b1) (F b2))
    (h1 : causeOf (F fun q => .trap (if q = r then 1000 else 2000) 0) = 1000)
    (h2 : causeOf (F fun q => .trap (if q = r then 3000 else 2000) 0) = 3000) : ∀ b, F b = b r := by
  intro b
  rcases h b (fun q => .trap (if q = r then 1000 else 2000) 0) with ⟨q, hq, ht⟩ | he
  · rw [ht] at h1
    by_cases e : q = r
    · rw [hq, e]
    · simp [causeOf, e] at h1
  · rcases h b (fun q => .trap (if q = r then 3000 else 2000) 0) with ⟨q, hq, ht⟩ | he2
    · rw [ht] at h2
      by_cases e : q = r
      · rw [hq, e]
      · simp [causeOf, e] at h2
    · rw [← he] at h1; rw [← he2, h1] at h2; cases h2
/-- The checks of a block's pieces (R355, R167): called with one argument or not at all. -/
theorem checkBlock_both (s : State) (ea : Word) (b1 b2 : List Nat → Issue) : ∀ (l g : List Nat),
    Both b1 b2 (s.checkBlock ea l g b1) (s.checkBlock ea l g b2)
  | [], g => .inl ⟨g, rfl, rfl⟩
  | i :: t, g => by
    unfold State.checkBlock State.checkAccess
    refine .ite (.stop _) (.ite (.stop _) (.ite (.stop _) (.ite (.stop _) ?_)))
    generalize s.look _ _ _ = o
    cases o with
    | wait => exact .stop _
    | miss => exact .stop _
    | malformed => exact .stop _
    | ok pa at' =>
    refine .ite (.stop _) (.ite (.stop _) (.ite (.stop _) (.ite (.stop _) (.ite (.stop _) (.ite (.stop _) (.ite (.stop _) (.ite (.stop _) ?_)))))))
    exact checkDiscard_both s _ (checkBlock_both s ea b1 b2 t _)

/-- Pages of 2 MiB mapped for core 0: virtual address and leaf entry. -/
def withPages (ps : List (Nat × Nat)) (s : State) : State :=
  s.modMy fun x => { x with tlb := ps.map fun p => ⟨0, p.1, 0x200000, BitVec.ofNat 64 p.2⟩ }

/-- HBM read and write; the own slice; HBM with no right; the slice of core 1; HBM with A. -/
def pages : List (Nat × Nat) :=
  [(0x200000, 0x8000083), (0x400000, 0x4000000083), (0x600000, 0x8200080), (0x800000, 0x4000400083), (0xA00000, 0x84000A3)]

def boxP (l : Nat) (rs : List (Nat × Word)) : State := withPages pages (box l rs)

/-- Attributes of a page that may be read and written. -/
def rw : Attr := ⟨true, true, false, false, false, false, false⟩

/-- A pending access of `w` bits at a physical byte address. -/
def acc (k : AccKind) (pa w : Nat) : Access :=
  { kind := k, pc := 0, ea := BitVec.ofNat 64 pa, bits := [8 * pa], ew := w, dpage := false, hold := 0, holds := [], ltag := none, k := 0, sc := 3,
    aq := false, rl := false, modl := 0, mark := 0, after := 0, due := none, first := none, dead := false, seq := 0 }

/-- Context 0 of core 0 with accesses pending. -/
def pend (l : List Access) : State := boxC 0 [] fun x => { x with acc := l }

/-- A row load or store at s2. -/
def vf (d b : BitVec 6) : MF := ⟨.always, d, 2, b, 0, 3, false, false, 4, 0⟩

/-- The 192 words of a row at a physical address, in the own slice. -/
def rowAt (ea : Word) (pa : Nat) (write : Bool) : RowAcc :=
  { ea := ea, bits := (List.range 192).map fun i => 8 * (pa + 4 * i), ew := 32, anyA := false, allA := false, attr := rw, holds := [], modl := 0, loc := true,
    parts := [⟨false, pa % 0x400000, pa % 0x400000 + 767, write⟩], ltag := none }

/-- One access form after another: misaligned, beyond the address space, an alias, no translation, a malformed entry, a page without the right. -/
theorem test_witness_AccessRefused :
    ([(3 : Word), 0x0100000000000000, 0x0070000000000000, 0x0010000000000000, 0x600000].all fun v => (boxP 0 [(2, v)]).goes 0 .always [2, 0, 1] && !(boxP 0 [(2, v)]).me.answered &&
      (boxP 0 [(2, v)]).eaIndexed (mf 1 2 3 0) == v && (boxP 0 [(2, v)]).eaBase (mf 1 2 3 0) == v) = true ∧
    (3 : Word).toNat % 8 ≠ 0 ∧ eaTop 0x0100000000000000 = true ∧ 7 ≤ eaAlias 0x0070000000000000 ∧ eaAlias 0x0010000000000000 ≠ 0 ∧
    (boxC 0 [(2, 64)] fun x => { x with query := some ⟨64, some true⟩ }).look 0 0 64 = .miss ∧
    (boxC 0 [(2, 64)] fun x => { x with query := some ⟨64, some false⟩ }).look 0 0 64 = .malformed ∧
    (boxP 0 []).look 0 0 0x600000 = .ok 0x8200000 ⟨false, false, false, false, false, false, false⟩ := by decide +kernel

/-- At the last doubleword of a page, and with the store buffer full. -/
theorem test_witness_AccessesIssue : (boxP 0 [(2, 0x3FFFF8)]).me.loadRoom = true ∧ (boxP 0 [(2, 0x3FFFF8)]).goes 0 .always [2, 0] = true ∧
    (boxP 0 [(2, 0x3FFFF8)]).goes 0 .always [2] = true ∧ (boxP 0 [(2, 0x3FFFF8)]).goes 0 .always [2, 0, 1] = true ∧
    (boxP 0 [(2, 0x3FFFF8)]).me.answered = false ∧ eaAlias 0x3FFFF8 = 0 ∧ (boxP 0 [(2, 0x3FFFF8)]).eaIndexed (mf 1 2 3 0) = 0x3FFFF8 ∧
    (∀ cl ∈ [AccClass.load, .loadX, .store], (boxP 0 [(2, 0x3FFFF8)]).accessPass cl 0x3FFFF8 8 3 false 0x81FFFF8 rw = true) ∧
    (boxP 0 [(2, 0x3FFFF8)]).eaBase (mf 1 2 3 0) = 0x3FFFF8 ∧ (boxP 0 []).me.storeRoom = true ∧
    (let t := withPages pages (boxC 0 [(2, 0x3FFFF8)] fun x => { x with acc := List.replicate 32 (acc (.store 0) 0x8000000 64) })
     t.me.storeRoom = false ∧ t.me.answered = false ∧ t.goes 0 .always [2, 0, 1] = true ∧ t.accessPass .store 0x3FFFF8 8 3 false 0x81FFFF8 rw = true) := by decide +kernel

/-- A signed load and a load to s0 return; a load of a poisoned line meets an error. -/
theorem test_witness_LoadsReturn :
    (∀ a ∈ [acc (.load 5 true) 0x8000000 32, acc (.load 0 false) 0x8000040 64],
      ((pend [a]).ctx 0 0).acc[0]? = some a ∧ (pend [a]).mayPerform 0 0 0 = true ∧ (pend [a]).accessError 0 a = false ∧
      ({ pend [a] with poison := [0x200000, 0x200001] } : State).mayPerform 0 0 0 = true ∧
      ({ pend [a] with poison := [0x200000, 0x200001] } : State).accessError 0 a = true) := by decide +kernel

theorem test_witness_StoresPerform : (let a := acc (.store 7) 0x8000000 64
    ((pend [a]).ctx 0 0).acc[0]? = some a ∧ (pend [a]).mayPerform 0 0 0 = true ∧ a.dead = false ∧ holders 0x8000000 a.hold = []) := by decide +kernel

/-- Each atomic at issue and performing; ACAS that matches and does not; STX with its reservation and without. -/
theorem test_witness_Atomics :
    (boxP 0 [(2, 0x200040)]).goes 0 .always [2, 3, 4] = true ∧ (boxP 0 [(2, 0x200040)]).goes 0 .always [2, 3] = true ∧
    (boxP 0 [(2, 0x200040)]).me.loadRoom = true ∧
    (boxP 0 [(2, 0x200040)]).accessPass .atomic ((boxP 0 [(2, 0x200040)]).eaBase (mf 4 2 3 0)) 8 3 false 0x8000040 rw = true ∧
    (∀ e ∈ [0, 1], let a := acc (.amo 5 0x57 9 (BitVec.ofNat 64 e)) 0x8000000 64
      ((pend [a]).ctx 0 0).acc[0]? = some a ∧ (pend [a]).mayPerform 0 0 0 = true ∧ (pend [a]).accessError 0 a = false) ∧
    amoNew 0x57 64 0 9 1 = none ∧ amoNew 0x57 64 0 9 0 = some 9 ∧ holders 0x8000000 0 = [] ∧
    (boxP 0 [(2, 0x200040)]).orderOk ((boxP 0 [(2, 0x200040)]).scalarAccess (mf 4 2 3 0) (.store 0) 0x200040 [8 * 0x8000040] rw 0x8000040) = true ∧
    (let t := (boxP 0 [(2, 0x200040)]).modMe fun x => { x with resv := some ⟨0x200040, 0x8000040, 3, 0⟩ }
     t.goes 0 .always [2, 3] = true ∧ t.accessPass .storeX 0x200040 8 3 false 0x8000040 rw = true ∧
     t.me.resv = some ⟨0x200040, 0x8000040, 3, 0⟩ ∧ t.eaBase (mf 4 2 3 0) = 0x200040 ∧
     (0x200040 : Word) &&& ~~~63 = 0x200040) ∧ (boxP 0 []).me.resv = none := by decide +kernel

/-- Another context's FENCEH serialises; a reservation at 256 and at 257 instructions. -/
theorem test_witness_Fences : (box 0 []).goes 0 .always [] = true ∧ (box 0 []).noDiscard = true ∧ (box 0 []).classesDone 0xFFFF = true ∧
    (pend [acc (.store 7) 0x8000000 64]).goes 0 .always [] = true ∧ (pend [acc (.store 7) 0x8000000 64]).classesDone 1 = false ∧
    (pend [acc (.store 7) 0x8000000 64]).serialised = false ∧ (pend [acc (.store 7) 0x8000000 64]).me.acc ≠ [] ∧
    (box 0 []).serialised = false ∧ (box 0 []).me.acc = [] ∧ (box 0 []).buffersEmpty 4 = true ∧
    (let t := (box 0 []).modCtx 0 1 fun x => { x with fenceh := some 3 }
     t.serialised = true ∧ t.goes 0 .always [] = true) ∧
    (∀ n ∈ [256, 257], ((boxC 0 [] fun x => { x with resv := some ⟨0, 0, 3, n⟩ }).ctx 0 0).resv = some ⟨0, 0, 3, n⟩) := by decide +kernel

/-- A resident launch in space 0, with one pipe whose descriptors begin at 0x200000. -/
def launch0 : Launch :=
  { space := 0, lid := 0, l0tab := 0x9000000, image := 0, measure := [], mb := [], np := 1, pipes := 0x200000, held := [] }

/-- A task of that launch, in a tile step or not. -/
def task0 (st : Option StepRef) : Task := { probeTask with r := { probeTask.r with space := 0, lid := 0 }, step := st }

theorem test_witness_Mailboxes : (box 0 []).goes 0 .always [] = true ∧ (box 0 []).me.loadRoom = true ∧ (box 0 []).goes 0 .always [2] = true ∧
    (box 0 []).me.inStep = false ∧ (box 0 []).me.storeRoom = true ∧
    (boxC 0 [] fun x => { x with task := some (task0 (some ⟨0, 0, 0, []⟩)) }).me.inStep = true ∧
    (boxC 0 [] fun x => { x with task := some (task0 (some ⟨0, 0, 0, []⟩)) }).goes 0 .always [2] = true ∧
    (∀ a ∈ [acc (.mbr 5 15) 0 64, acc (.mbw 15 9) 0 64], ((pend [a]).ctx 0 0).acc[0]? = some a ∧ (pend [a]).mayPerform 0 0 0 = true ∧ a.dead = false ∧
      ({ pend [a] with launches := [launch0] } : State).mayPerform 0 0 0 = true ∧
      ({ pend [a] with launches := [launch0] } : State).launchOf ((pend [a]).ctx 0 0).space = some launch0) := by decide +kernel

/-- Every elementwise instruction with rows 1, 2, 3 of the view and a scalar source B; rows may be read. Integer types plain and saturating,
a float type, elements at the last place of a row. -/
theorem test_witness_VectorArithmetic : (∀ f ∈ [({ rf 1 2 3 with ty := 10 } : RF), { rf 1 2 3 with ty := 2 }, { rf 1 2 3 with ty := 10, fn := 0x80 },
      { rf 1 2 3 with ty := 4, gd := ⟨true, 3⟩ }], (box 0 []).goesV f.gd (scalarRegs f) = true ∧ (box 0 []).goesV f.gd [] = true ∧
      (∀ ex, (box 0 []).rowsPass ((box 0 []).elementUses f true false ex) (maskPred f.gd) [] = true) ∧
      (∀ ex, (box 0 []).rowsPass ((box 0 []).elementUses f true true ex) (maskPred f.gd) [] = true) ∧
      (box 0 []).rowsPass ((box 0 []).elementUses f false false true) (maskPred f.gd) [] = true) ∧
    (fmtOf 2).isNone = true ∧ (fmtOf 10).isSome = true ∧ saturating { rf 1 2 3 with ty := 0, fn := 0x40 } = true ∧
    saturating { rf 1 2 3 with ty := 0 } = false ∧ (767 : Nat) < 6144 / 8 ∧ (191 : Nat) < 6144 / 32 := by decide +kernel

theorem test_witness_VectorRows : (let s := box 0 []
    let us := [useRead (s.me.vRow 2) allLanes, useRead (s.me.vRow 3) allLanes, useWrite (s.me.vRow 1) allLanes]
    (∀ f ∈ [rf 1 2 3, { rf 1 2 3 with fn := 0x80 }], s.goesV f.gd (scalarRegs f) = true) ∧ s.rowsPass us [] [] = true ∧ s.rowsPass us [3, 1] [] = true ∧
    s.goesV .always [] = true ∧
    (let pairs := cvtPairs 10 9 0
     s.rowsPass [{ useRead (s.me.vRow 2) (lanesIn (pairs.map fun p => laneOf (tyWidth 10) p.1)) with exact := true },
       { useWrite (s.me.vRow 1) allLanes with lanes := lanesIn (pairs.map fun p => laneOf (tyWidth 9) p.2.1) }] [] [] = true)) := by decide +kernel

/-- Permutations with indices 0, 191 and 383, an element at the end of a row and one beyond it; the three ends of SETVW. -/
theorem test_witness_VectorMoves : (let s := box 0 [(2, 5), (3, 191)]
    (∀ rd ∈ [[], [2], [3], [2, 3]], s.goesV .always rd = true) ∧ s.goes 0 .always [3] = true ∧
    (∀ l ∈ [[], [0, 191, 383]], s.rowsPass [useRead (s.me.vRow 2) (lanesIn l), useExact (s.me.vRow 3) allLanes,
      useRead (s.me.vRow 4) (lanesIn ((l.filter (192 ≤ ·)).map (· - 192))), useWrite (s.me.vRow 1) allLanes] [] [] = true ∧
      s.rowsPass [useRead (s.me.vRow 2) (lanesIn l), useExact (s.me.vRow 3) allLanes, useWrite (s.me.vRow 1) allLanes] [] [] = true) ∧
    s.rowsPass [useWrite (s.me.vRow 1) allLanes] [] [] = true ∧
    (∀ j ∈ [191, 192], s.rowsPass [useRead (s.me.vRow 2) (lanesIn [j]), useWrite (s.me.vRow 1) allLanes] [] [] = true ∧
      s.rowsPass [useWrite (s.me.vRow 1) (lanesIn [j] &&& allLanes)] [] [] = true ∧
      s.rowsPass [useExact (s.me.vRow 2) (lanesIn [j])] [] [] = true) ∧ (191 < 6144 / 32 ∧ allLanes.getLsbD (laneOf 32 191) = true)) ∧
    ([((1 : Word), (0 : Word)), (65536, 0), (65472, 65472)].all fun p => (box 0 [(2, p.1), (3, p.2)]).goes 0 .always [2, 3]) = true ∧
    (1 : Word).extractLsb' 0 6 ≠ 0 ∧ 65535 < (65536 : Word).toNat ∧ (65536 : Word).extractLsb' 0 6 = 0 ∧ (65472 : Word).extractLsb' 0 6 = 0 := by decide +kernel

/-- A result due, one not yet due, one overtaken; a full mask on the last row of the register space; a predicate's mask. -/
theorem test_witness_ResultsLand : (∀ d ∈ [0, 1], ((State.reset.modCore 0 fun x => { x with landings := [⟨d, 0, [.poisonVc 0]⟩] }).core 0).landings =
      [⟨d, 0, [.poisonVc 0]⟩] ∧ ((State.reset.modCore 0 fun x => { x with landings := [⟨d, 0, [.poisonVc 0]⟩] }).core 0).clock = 0) ∧
    (∀ d ∈ [1, 2, 3], let x := (State.reset.modCore 0 fun x => { x with clock := 1, landings := [⟨d, 0, [.pred 0 6 0 allLanes false]⟩] }).core 0
      x.landings = [⟨d, 0, [.pred 0 6 0 allLanes false]⟩] ∧ x.clock + 1 = 2) ∧ [LandEff.poisonVc 0] ≠ [] ∧
    4084 + 12 ≤ 4096 ∧ (23 : Nat) ≠ 0 := by decide +kernel
theorem test_row_own : ∀ body, (boxP 0 [(2, 0x400000)]).rowAccess (vf 1 0) 1 false allLanes ((boxP 0 [(2, 0x400000)]).rowReady (vf 1 0) allLanes ((boxP 0 [(2, 0x400000)]).me.rowGran 0 ((boxP 0 [(2, 0x400000)]).me.vRow 1))) body = body (rowAt 0x400000 0x4000000000 false) :=
  Both.run _ (rowAccess_both _ _ _ _ _ _) (by decide +kernel) (by decide +kernel)

theorem test_row_own_store : ∀ body, (boxP 0 [(2, 0x400000)]).rowAccess (vf 1 0) 1 true allLanes (fun _ => true) body = body (rowAt 0x400000 0x4000000000 true) :=
  Both.run _ (rowAccess_both _ _ _ _ _ _) (by decide +kernel) (by decide +kernel)

theorem test_row_far : ∀ body, (boxP 0 [(2, 0x200000)]).rowAccess (vf 1 0) 1 false allLanes ((boxP 0 [(2, 0x200000)]).rowReady (vf 1 0) allLanes ((boxP 0 [(2, 0x200000)]).me.rowGran 0 ((boxP 0 [(2, 0x200000)]).me.vRow 1))) body =
    body { rowAt 0x200000 0x8000000 false with loc := false, parts := [] } :=
  Both.run _ (rowAccess_both _ _ _ _ _ _) (by decide +kernel) (by decide +kernel)

/-- The hypotheses of the row accesses beside `test_row_own`, `test_row_own_store` and `test_row_far`, which meet those about rowAccess. -/
theorem test_witness_RowAccesses :
    (∀ s ∈ [boxP 0 [(2, 0x400000)], boxP 0 [(2, 0x200000)]], s.goesV .always (rowRegs (vf 1 0)) = true ∧
      s.rowsPass ([s.me.vRow 1].map fun d => useWrite d allLanes) [] [] = true ∧
      s.rowsPass (((List.range 8).map (s.me.tRow 1)).map fun d => useWrite d allLanes) [] [] = true ∧
      s.rowsPass [{ useRead (s.me.vRow 1) allLanes with exact := s.pageExact (vf 1 0), info := some (s.rowEa (vf 1 0)) }] [] [] = true ∧ (s.refTag (s.me.vRow 1)).b = false ∧
      s.me.storeRoom = true ∧ s.me.loadRoom = true ∧ s.me.mask .always = allLanes) ∧
    (let s := boxP 0 [(2, 0x400000)]
     let r := rowAt 0x400000 0x4000000000 false
     r.loc = true ∧ s.orderOk (s.rowAccOf (vf 1 0) r (.vload (s.me.rowGran 0 (s.me.vRow 1)) allLanes r.anyA) (some s.now)) = true) ∧
    (∀ kind ∈ [AccKind.vload 12 allLanes false, .vstore allLanes 0], let a := { acc kind 0 32 with bits := (List.range 192).map fun i => 8 * (0x4000000000 + 4 * i) }
      ((pend [a]).ctx 0 0).acc[0]? = some a ∧ (pend [a]).mayPerform 0 0 0 = true ∧ (pend [a]).accessError 0 a = false ∧ a.ew = 32 ∧ a.bits.length = 192 ∧
      a.dead = false ∧ a.hold = 0 ∧ a.holds = [] ∧ ∀ e, e < 192 → a.bits.getD e 0 = 8 * (0x4000000000 + 4 * e)) := by decide +kernel

/-- Bytes placed in memory. -/
def poke (a : Nat) (bs : List Nat) (s : State) : State := s.putBytes a (bs.map (BitVec.ofNat 8))

/-- Space 0 with a resident launch whose tables map the pages of `pages`. -/
def resident (s : State) : State :=
  pages.foldl (fun s p => s.writeWord (0x9010000 + 8 * (p.1 / 2 ^ 21)) (BitVec.ofNat 64 p.2))
    { s.writeWord 0x9000000 0x9010001 with launches := [launch0] }

/-- Queues of grottos 0 and 5 at priority 0 with 256 slots in rings at 0xA000000 and 0xA010000 (R211). -/
def withQueues (s : State) : State :=
  poke (0x10000 + 20 * 64) [0, 0, 1, 10, 0, 0, 0, 0, 0, 1] (poke 0x10000 [0, 0, 0, 10, 0, 0, 0, 0, 0, 1] s)

/-- A table header of one segment over [0, 1] at 0x8000000. -/
def header (s : State) : State := poke 0x8000000 [1, 0, 0, 0, 0, 0, 0, 0, 0, 0, 0x80, 0x3F, 0, 0, 0x80, 0x3F] s

theorem test_witness_TableEngine :
    (∀ s ∈ [header (boxP 0 [(2, 0x200000)]), boxP 0 [(2, 0x200000)]], s.goes 0 .always [2, 0] = true ∧ s.eaIndexed (mf 1 2 0 0) = 0x200000 ∧
      s.accessPass .peek 0x200000 64 3 false 0x8000000 rw = true ∧
      s.orderOk (s.newAccess (.table 1) 0x200000 [8 * 0x8000000] 512 rw (s.holdOf 0x200000) 0 3 false false 0) = true ∧
      (∀ i, i < 1 → s.accessPass .peek (0x200000 + BitVec.ofNat 64 (64 + 16 * i)) 16 3 false 0x8000040 rw = true) ∧
      (s.myCore.tab 1).loading = false ∧ (s.myCore.tab 1).evUntil ≤ s.now) ∧
    (0x200000 : Word).extractLsb' 0 6 = 0 ∧ eaAlias 0x200000 = 0 ∧ (boxP 0 []).tableHeader 0x8000000 = none ∧
    ((header (boxP 0 [])).tableHeader 0x8000000).map (·.nseg) = some 1 ∧
    (let a := acc (.table 1) 0x8000040 128
     let s := pend [a]
     (s.ctx 0 0).acc.findIdx? (fun a => a.kind == .table 1) = some 0 ∧ (s.ctx 0 0).acc[0]? = some a ∧ s.mayPerform 0 0 0 = true ∧ a.dead = false ∧
     (∀ b ∈ a.bits, s.poisoned (b / 8) = false)) ∧
    (box 0 []).goesV .always [] = true ∧
    (box 0 []).rowsPass [useRead ((box 0 []).me.vRow 2) allLanes, useWrite ((box 0 []).me.vRow 1) allLanes] [] [] = true ∧ ((box 0 []).myCore.tab 1).valid = false ∧
    (((box 0 []).modMy fun x => x.setTab 1 { TabSlot.init with valid := true }).myCore.tab 1).valid = true ∧ (fmtOf 9).isSome = true ∧
    (((box 0 []).modMy fun x => x.setTab 1 { TabSlot.init with loading := true }).myCore.tab 1).loading = true ∧
    ((box 0 []).myCore.tab 1).loading = false ∧ (box 0 []).goes 0 .always [] = true ∧ (box 0 []).goes 0 .always [] = true := by decide +kernel

/-- Rows of the grant: every ACLR count up to the grant, and none. -/
theorem test_witness_AccumulatorRows :
    (let s := boxC 0 [(2, 0), (3, 256)] fun x => { x with grant := 0x10000000000 }
     let a := RowRef.acc (s.accIndex (rf 1 2 3))
     s.goesV .always [2] = true ∧ s.goesV .always [2, 3] = true ∧ s.goes 0 .always [2, 3] = true ∧ s.goes 0 .always [3] = true ∧
     s.rowsPass [{ useRead a allLanes with poison := true }, useWrite (s.me.vRow 1) allLanes] [] [] = true ∧
     s.rowsPass [useRead (s.me.vRow 3) allLanes, useWrite a allLanes] [] [] = true ∧
     s.rowsPass [useRead (s.me.vRow 3) allLanes, { useRead a allLanes with write := true }] [] [] = true ∧
     s.rowsPass [{ useRead a allLanes with write := true }] [] [] = true ∧ s.rowsPass [useRead (s.me.vRow 2) allLanes] [] [] = true ∧
     (let run := List.range (min (s.getS 3).toNat 1025)
      run.length = 256 ∧ s.rowsPass (run.map fun j => useWrite (.acc (s.accIndex (rf 1 2 3) + j)) allLanes) [] [] = true)) ∧
    ((0x7F80 : Word).extractLsb' 0 16).toNat ≤ 0x7F80 := by decide +kernel

/-- A legal record, one whose code address is misaligned, a grotto number out of range, a tile step. -/
theorem test_witness_SpawnJoin :
    (∀ g ∈ [0, 5], let s := withQueues (boxP 0 [(2, 0x200000), (3, BitVec.ofNat 64 g)])
      let r := s.recAt 0x8000000 0 0
      s.goes 0 .always [2] = true ∧ s.goes 0 .always [2, 3] = true ∧ s.me.inStep = false ∧
      s.accessPass .peek 0x200000 32 3 true 0x8000000 rw = true ∧ r.softOk = true ∧ r.pin = false ∧ s.releasePass = true ∧
      ((s.grotto g).queue r.pri).length + 64 < s.queueSlots g r.pri) ∧
    (0x200010 : Word).extractLsb' 0 5 ≠ 0 ∧ (0x200000 : Word).extractLsb' 0 5 = 0 ∧ (boxP 0 [(2, 0x200010)]).goes 0 .always [2] = true ∧
    ((poke 0x8000000 [4] (boxP 0 [])).recAt 0x8000000 0 0).softOk = false ∧
    (poke 0x8000000 [4] (boxP 0 [(2, 0x200000)])).accessPass .peek 0x200000 32 3 true 0x8000000 rw = true ∧
    (poke 0x8000000 [4] (boxP 0 [(2, 0x200000)])).goes 0 .always [2, 3] = true ∧ ¬((64 : Word).toNat < 64) ∧
    (let s := (boxP 0 [(2, 0x200000)]).modMe fun x => { x with task := some (task0 (some ⟨0, 0, 0, []⟩)) }
     s.goes 0 .always [2] = true ∧ s.me.inStep = true) ∧
    (let s := boxP 0 [(2, 0x200000)]
     s.goes 0 .always [2] = true ∧ s.accessPass .update 0x200000 64 3 true 0x8000000 rw = true ∧ s.me.acc = [] ∧ s.me.inStep = false ∧
     (s.decrement (some (0, 0)) 0 0 0 0x8000000 0).isSome = true) ∧
    (∀ n ∈ [0, 1, 2], (poke 0x8000000 [n] (boxP 0 [])).readWord 0x8000000 = BitVec.ofNat 64 n ∧
      (∀ j, j < 8 → (boxP 0 []).roByte (0x8000000 + j) = 0) ∧
      ((withQueues (poke 0x8000000 [n] (boxP 0 []))).decrement none 0 0 0 0x8000000 0).isSome = true) := by decide +kernel

/-- A task with a join counter and one with none: of its own, of a gang, in a tile step whose block has one retire copy. -/
theorem test_witness_TaskDone :
    (∀ j ∈ [0, 0x200000], let s := boxP 0 []
      s.goes 0 .always [] = true ∧ s.myCore.landed 0 = true ∧ s.me.acc = [] ∧ s.me.discard = none ∧
      (∀ gs : Option Nat × Option StepRef, gs ∈ [((none : Option Nat), (none : Option StepRef)), (some 4, none), (none, some ⟨0, 1, 0, []⟩)] →
        let t : Task := { task0 gs.2 with r := { (task0 none).r with joina := BitVec.ofNat 64 j }, gang := gs.1 }
        let u := s.modMe fun x => { x with task := some t }
        u.me.task = some t ∧ t.step = gs.2 ∧ t.gang = gs.1 ∧
        (j ≠ 0 → gs.2 = none → u.accessPass .update t.r.joina 64 3 true 0x8000000 rw = true ∧ rw.r = true ∧
          (u.decrement (some (0, 0)) 0 t.r.space t.r.lid 0x8000000 0).isSome = true))) ∧
    (let b : WalkBlk := { id := 1, op := opBlock (leBytes 320 0) 0 0 0x200000, chains := [], finished := 0, copies := 0 }
     let s := (boxP 0 []).modMyGrotto fun x => { x with blocks := [b] }
     s.blk 0 1 = some b ∧ b.op.nret ≤ (s.myCore.freeSlots 0).length) := by decide +kernel

/-- A pipe of two slots of 64 bytes at 0x200000, empty (`w` = 0), with one item (1) or full (2). -/
def pipe (w : Nat) (s : State) : State := poke 0x8000000 ([0, 0, 0x20, 0, 0, 0, 0, 0, 2, 0, 0, 0, 64, 0, 0, 0] ++ [w]) s

/-- A task that holds the read end of pipe 0, or of no pipe, of the resident launch. -/
def piped (w : Nat) (held : List PipeHold) (s : State) : State :=
  pipe w { resident (s.modMe fun x => { x with task := some (task0 none) }) with launches := [{ launch0 with held := held }] }

/-- A future empty and full, at issue and read again; one whose page has no launch, and one whose leaf is in transit. -/
theorem test_witness_Waiting_future :
    (∀ b ∈ [0, 128], let s := poke 0x8000007 [b] (resident (boxP 0 [(2, 0x200000)]))
      s.goes 0 .always [2] = true ∧ s.accessPass .peek 0x200000 8 3 false 0x8000000 rw = true ∧
      s.readReady 0x200000 0x8000000 8 rw = true ∧ (s.readWord 0x8000000).getLsbD 63 = decide (b = 128) ∧
      ((s.modMe fun x => { x with run := .waiting (.future 1 0x200000) }).ctx 0 0).run = .waiting (.future 1 0x200000) ∧
      s.readAgain 0 0 0x200000 8 = .here 0x8000000) ∧
    (box 0 []).readAgain 0 0 0x200000 8 = .lost ∧
    (resident (box 0 [])).readAgain 0 0 0xC00000 8 = .lost ∧
    ({ resident (box 0 []) with transit := some 0x9010008 } : State).readAgain 0 0 0x200000 8 = .notYet := by decide +kernel

/-- A pipe that no longer reads as one when its waiter looks again. -/
theorem test_witness_Waiting_badPipe :
    let s := (piped 1 [⟨0, true, 0⟩] (boxP 0 [])).writeWord 0x8000008 0
    let t := s.modMe fun x => { x with run := .waiting (.pipe 1 true 0) }
    (t.ctx 0 0).run = .waiting (.pipe 1 true 0) ∧ t.pipeNow 0 0 0 = .here 0x8000000 ∧ (t.pipeAt 0x8000000).ok = false := by decide +kernel

theorem test_witness_Waiting_pipes :
    (∀ w ∈ [0, 1, 2], ∀ h ∈ [[], [⟨0, true, 0⟩, ⟨0, false, 0⟩]], let s := piped w h (boxP 0 [])
      s.me.inStep = false ∧ (s.launchOf s.me.space).map (fun l => (l.np, l.desc 0)) = some (1, 0x200000) ∧
      s.goes 0 .always [3] = true ∧ s.goes 0 .always [3] = true ∧
      s.accessPass .peek 0x200000 64 3 false 0x8000000 rw = true ∧ s.readReady 0x200000 0x8000000 64 rw = true ∧
      s.accessPass .update 0x200000 64 3 true 0x8000000 rw = true ∧ s.releasePass = true ∧
      (s.pipeAt 0x8000000).ok = true ∧ (s.pipeAt 0x8000000).blocked true = decide (w = 2) ∧ (s.pipeAt 0x8000000).blocked false = decide (w = 0) ∧
      s.pipeNow 0 0 0 = .here 0x8000000) ∧
    (∀ wr, ({ launch0 with held := [⟨0, wr, 0⟩] } : Launch).holder 0 wr = some 0 ∧ launch0.holder 0 wr = none) ∧
    (State.pipeAt (piped 0 [] (boxP 0 [])) 0x8001000).ok = false ∧ (piped 0 [] (boxP 0 [])).me.tid = 0 := by decide +kernel

/-- A grotto barrier of two parties with none and one arrived, an unconfigured one; a gang of two with none and one arrived. -/
theorem test_witness_Waiting_barriers :
    (∀ n ∈ [0, 1], let s := (box 0 []).modMyGrotto fun x => x.setBar 0 ⟨2, n, 0⟩
      s.goes 0 .always [] = true ∧ (s.myGrotto.bar 0).party ≠ 0 ∧ s.me.inStep = false ∧ s.releasePass = true ∧ (s.myGrotto.bar 0).arr = n) ∧
    ((box 0 []).myGrotto.bar 0).party = 0 ∧
    (∀ n ∈ [0, 1], let g : Gang := ⟨4, 0, 0, 2, 2, [(0, ⟨2, n, 0⟩)], [(0, 0), (0, 1)]⟩
      let s : State := { boxC 0 [] fun x => { x with task := some { task0 none with gang := some 4 } } with gangs := [g] }
      s.goes 0 .always [] = true ∧ (s.me.task.bind (·.gang)) = some 4 ∧ s.gang 4 = some g ∧ g.id = 4 ∧ s.me.inStep = false ∧ s.releasePass = true ∧
      (g.bar 0).arr = n) ∧
    ([(0 : Word), 129, 1, 128].all fun v => (box 0 [(2, v)]).goes 0 .always [2] && (box 0 [(2, v)]).getS 2 == v) = true ∧
    (let s := (box 1 [(2, 128)]).modMyGrotto fun x => x.setBar 0 ⟨2, 1, 0⟩
     s.goes 0 .always [2] = true ∧ (s.myGrotto.bar 0).arr ≠ 0 ∧ s.me.level ≠ 0 ∧ s.me.inStep = false) := by decide +kernel

/-- YIELD; YIELD.q of a task that may not spill, of a tile step, and of one whose state is written to its spill area below 0x210000. -/
theorem test_witness_Waiting_yield :
    (box 0 []).goes 0 .always [] = true ∧ (box 0 []).myCore.landed 0 = true ∧ (task0 none).spillable = false ∧
    (let s := boxC 0 [] fun x => { x with task := some (task0 (some ⟨0, 0, 0, []⟩)) }
     s.goes 0 .always [] = true ∧ s.myCore.landed 0 = true ∧ s.me.inStep = true) ∧
    (let t : Task := { task0 none with r := { (task0 none).r with frame := 0x210000 } }
     let s := withQueues (resident ((boxP 0 []).modMe fun x => { x with task := some t }))
     s.goes 0 .always [] = true ∧ s.myCore.landed 0 = true ∧ t.spillable = true ∧ s.me.acc = [] ∧
     (((s.modMy fun x => x.advance 0 1).spillState 0 0 t).bind fun u => u.pushRec 0 (t.r.asResume 0 t.tid) 0).isSome = true) := by decide +kernel

/-- An operator block of one spatial level of two steps at cores 0 and 1, one replica, at 0x8000000. -/
def walkable (s : State) : State := poke 0x8000040 [2, 0, 0, 0, 1, 0, 1, 0] (poke 0x8000020 [1, 0, 1, 0] s)

theorem test_walk_block : ∀ body, (walkable (boxP 0 [(2, 0x200000)])).checkBlock 0x200000 [0, 1, 2, 3, 4] [] body =
    body [0x8000000, 0x8000040, 0x8000080, 0x80000C0, 0x8000100] :=
  Both.run _ (fun _ _ => checkBlock_both _ _ _ _ _ _) (by decide +kernel) (by decide +kernel)

/-- The other hypotheses of WALK beside `test_walk_block`; range units at their limits; SENDH of 64 bytes to core 1. -/
theorem test_witness_WorkGiven :
    ([((0x10000000000 : Word), (0x0101000001 : Word)), (1, 0x0100000001), (1, 0x0101000000), (0xFFFFFFFFFF, 0x0101000001)].all fun p =>
      (box 0 [(2, p.1), (3, p.2)]).goes 0 .always [2, 3]) = true ∧
    (0x0101000001 : Word).extractLsb' 0 24 ≠ 0 ∧ (0x0101000001 : Word).extractLsb' 24 8 ≠ 0 ∧ (0x0101000001 : Word).extractLsb' 32 8 ≠ 0 ∧
    (0x0101000001 : Word).extractLsb' 40 24 = 0 ∧ (0xFFFFFFFFFF : Word).toNat < 2 ^ 40 ∧ (box 0 []).me.inStep = false ∧
    (let s := (box 0 []).modMyGrotto fun x => x.setRange 3 ⟨100, 0, 1, 2, 4⟩
     s.goes 0 .always [] = true ∧ (s.myGrotto.range 3).k ≠ 0 ∧ (s.myGrotto.range 3).p ≠ 0) ∧
    (let s := walkable (boxP 0 [(2, 0x200000)])
     let bs := [0x8000000, 0x8000040, 0x8000080, 0x80000C0, 0x8000100].flatMap fun pa => s.bytes pa 64
     let o := opBlock bs 0 0 0x200000
     s.goes 0 .always [2] = true ∧ o.fieldsOk bs = true ∧ o.coresOk 0 = true ∧ s.myGrotto.blocks.length < 8 ∧ s.releasePass = true) ∧
    (let s := boxP 0 [(2, 0x200000)]
     let bs := [0x8000000, 0x8000040, 0x8000080, 0x80000C0, 0x8000100].flatMap fun pa => s.bytes pa 64
     (opBlock bs 0 0 0x200000).fieldsOk bs = false ∧ s.releasePass = true) ∧
    (let s := boxP 0 [(4, 0x400000), (5, 0x800000), (6, 0x200000)]
     s.goes 0 .always [4, 5, 6] = true ∧ eaPlain 0x400000 = true ∧ eaPlain 0x800000 = true ∧
     s.lookAll 0 0 (pageWords 0x400000 64) = .ok [(0x4000000000, rw)] ∧ s.lookAll 0 0 (pageWords 0x800000 64) = .ok [(0x4000400000, rw)] ∧
     lineOf (pageWords 0x400000 64) [(0x4000000000, rw)] 0x400000 = 0x4000000000 ∧
     lineOf (pageWords 0x800000 64) [(0x4000400000, rw)] 0x800000 = 0x4000400000 ∧ targetOf 0x4000400000 = .slice 1 0 ∧
     (s.ownSlice 0 0x4000000000 && !s.markedByte 0x4000000000 && !s.poisoned 0x4000000000 && !s.retiredByte 0x4000000000) = true ∧
     (s.ownSlice 1 0x4000400000 && !s.markedByte 0x4000400000 && !s.retiredByte 0x4000400000) = true ∧ (s.core 1).retired = false ∧ s.releasePass = true ∧
     s.myCore.rangeHold [⟨false, 0, 63, false⟩] = false ∧ (s.core 1).rangeHold [⟨false, 0, 63, true⟩] = false ∧ (s.core 1).handlers.length < 8) := by
  decide +kernel

/-- A record of a launch, as a queue holds it. -/
def rec0 : Rec := (task0 none).r

/-- Grotto 0 started with core 0 and this queue; grotto 1 started and in surplus with a record to spare. -/
def running (q : List Rec) (s : State) : State :=
  ((s.modCore 0 fun x => { x with started := true }).setGrotto 0 (({ Grotto.init with started := true, want := 1 } : Grotto).setQueue 0 q)).setGrotto 1
    (({ Grotto.init with started := true, surplus := true } : Grotto).setQueue 2 [rec0])

theorem test_witness_Scheduling_starts :
    rec0.ok = true ∧ ([(1, (5 : Word)), (60, 6)].all fun p => p.1 < 61) = true ∧
    (match (running [rec0] State.reset).popFor 0 with
     | some (c, k, l, _, i) => c == 0 && k == 0 && ((((running [rec0] State.reset).grotto 0).queue l)[i]?).any fun r => !(r.resume && r.tid.isSome && (running [rec0] State.reset).spillTransit r)
     | none => false) = true ∧
    (let s := running [] State.reset
     0 < (s.grotto 0).want ∧ (s.grotto 0).started = true ∧ s.idleCore 0 = some (0, 0) ∧
     ((List.range 7).map fun i => 0 / 8 * 8 + (0 + 1 + i) % 8).find? (fun v => (s.grotto v).surplus) = some 1 ∧
     (s.grotto 1).spareLevel = some 2 ∧ (s.grotto 1).spare 2 = some 0 ∧ ((s.grotto 1).queue 2)[0]? = some rec0) ∧
    (let h : Handler := ⟨0x200000, 0x400000, 64, 1, 0, 0⟩
     let s := (running [] State.reset).modCore 0 fun x => { x with handlers := [h] }
     (s.core 0).freeCtxs = [0, 1, 2, 3] ∧ (s.core 0).handlers = [h] ∧ s.handlerFirst 0 = true ∧ h.code.extractLsb' 0 3 = 0 ∧ eaTop h.code = false) := by
  decide +kernel

/-- Four contexts wait on futures and a record is ready; a wait entry whose future is full, and one whose is not; a walk with a step to
offer; a finished walk. -/
theorem test_witness_Scheduling_stops :
    (let t : Task := { task0 none with r := { rec0 with frame := 0x210000 } }
     let s := resident (running [rec0] ([0, 1, 2, 3].foldl (fun s k => s.modCtx 0 k fun x =>
       { x with task := some t, run := .waiting (.future 1 0x200000), since := k }) State.reset))
     s.mayStop 0 0 = true ∧ s.settled 0 0 = true ∧ (∀ j, j < 4 → s.mayStop 0 j = true → (s.ctx 0 0).since ≤ (s.ctx 0 j).since) ∧
     (s.core 0).started = true ∧ (s.core 0).freeCtxs = [] ∧ s.recordWaits 0 = true ∧ (s.grotto 0).waits.length < 256 ∧
     (s.ctx 0 0).task = some t ∧ (s.spillState 0 0 t).isSome = true) ∧
    (∀ b ∈ [0, 128], let w : WaitEntry := ⟨some (.future 1 0x200000), rec0.asResume 0 0, 0⟩
     let s := poke 0x8000007 [b] (withQueues (resident ((running [] State.reset).setGrotto 0 { Grotto.init with waits := [w] })))
     (s.grotto 0).waits[0]? = some w ∧ s.waitNow w = (if b = 128 then .result 1 0x8000000000000000 else .not) ∧
     (s.pushRec 0 { w.r with got := some (1, 0) } 0).isSome = true ∧
     ((resident (s.setGrotto 0 { Grotto.init with waits := [w] })).writeN 0x10008 4 0).pushRec 0 { w.r with got := some (1, 0) } 0 = none) ∧
    (let o : OpBlock := ⟨rec0, 1, 0, 1, 0, 0, 0, [⟨2, 1, 1⟩], [], 0x200000⟩
     let w : WalkBlk := ⟨0, o, [], 0, 0⟩
     let s := (running [] State.reset).setGrotto 0 { Grotto.init with started := true, blocks := [w], offers := [(0, 0, 0)] }
     (s.core 0).freeCtxs = [0, 1, 2, 3] ∧ (match s.nextSource 0 with | some (0, _, .step 0 0 0) => true | _ => false) = true ∧ s.handlerFirst 0 = false ∧
     s.blk 0 0 = some w ∧ (s.grotto 0).blocks[0]? = some w ∧ w.finished ≠ o.steps ∧ o.steps = 2 ∧ o.r.joina = 0) := by decide +kernel

/-! ## Hypotheses are met: engines, events, matrix, crossbar -/

/-- The state after an instruction. -/
def after : Host.Outcome State Fault Refusal → State
  | .next t => t
  | _ => State.reset

/-- A task of the resident launch with 256 rows granted, and registers. -/
def busy (rs : List (Nat × Word)) : State :=
  resident ((boxP 0 rs).modMe fun x => { x with task := some (task0 none), grant := 0x10000000000 })

theorem ownOperand_go {s : State} {a : Word} {m : Option Word} {l : List Nat} (h1 : causeOf (s.ownOperand a m l (.trap 1000 0)) = 1000)
    (h2 : causeOf (s.ownOperand a m l (.trap 3000 0)) = 3000) : ∀ ok, s.ownOperand a m l ok = ok := fun ok =>
  Both.run (F := fun b => s.ownOperand a m l (b ())) () (fun _ _ => ownOperand_both _ _ _ _ _ _) h1 h2 fun _ => ok

/-- Move commands with legal operands: engine command, instruction of it, values of s6, s7, s8. -/
def moves : List (EF × (EF → Instr) × Word × Word × Word) :=
  [(ef 5 6 7 8 0, .cpy, 0x200000, 0x400000, 64), ({ ef 5 6 7 8 0 with sub := 1 }, .cpyFill, 7, 0x200000, 64),
   ({ ef 5 6 7 8 0 with sub := 2 }, .cpyFrom, 0, 0x400000, 768), ({ ef 5 6 7 8 0 with sub := 3 }, .cpyTo, 0x400000, 0, 768),
   (ef 5 6 7 8 0x1000100, .gath, 0x200000, 0x200040, 0x400000),
   ({ ef 5 6 7 8 0x1000101 with r := ⟨.always, 5, 6, 7, 8, 10, 0, 10⟩ }, .gathSum, 0x200000, 0x200040, 0x400000),
   ({ ef 5 6 7 8 0x1000100 with r := ⟨.always, 5, 6, 7, 8, 10, 0, 0⟩ }, .scad, 0x200000, 0x200040, 0x400000)]

theorem test_witness_EngineCommandsIssue_moves :
    (moves.all fun p => let s := busy [(6, p.2.2.1), (7, p.2.2.2.1), (8, p.2.2.2.2)]
      (s.goes 0 .always [6, 7, 8, (Machine.EF.lsrc p.1).toNat, (Machine.EF.ldst p.1).toNat] && (s.me.cmdBad (p.2.1 p.1) (s.vals p.1)).isNone &&
       !s.me.inStep && (cmdLays (p.2.1 p.1) (s.vals p.1)).isEmpty && s.slotFree p.1 0 0 && s.slotFree p.1 1 0 && s.me.discard.isNone &&
       (s.me.cmdBad (p.2.1 p.1) ⟨3, 3, 3, 0, 0⟩).isSome) && (s.myCore.term 0).masks == 0) = true ∧
    (∀ e ∈ [0, 1], let s := (busy []).modMy fun x => (List.range 64).foldl (fun x n => x.setSlot e n { Slot.init with used := true }) x
      s.myCore.freeSlots e = [] ∧ s.me.discard = none ∧ s.goes 0 .always [6, 7, 8, 0, 0] = true) := by decide +kernel

/-- COLL of 384 bytes and of 64 elements; a misaligned source; a tile step. -/
theorem test_witness_EngineCommandsIssue_coll :
    (let s := busy [(6, 0x200000), (7, 0x400000), (8, 0x200040)]
     let f := ef 5 6 7 8 0x1800000
     let g : EF := { ef 5 6 7 8 0x400000 with r := ⟨.always, 5, 6, 7, 8, 10, 0, 10⟩ }
     s.goes 0 .always [6, 7, 8] = true ∧ ([s.getS 6, s.getS 7, s.getS 8].all fun w => eaAligned w && eaPlain w) = true ∧
     (f.r.ty == 0 && f.r.fn == 0) = true ∧ 1 ≤ Machine.EF.count f ∧ Machine.EF.collSrc f true % 64 = 0 ∧ Machine.EF.collDst f true % 64 = 0 ∧
     ([10, 9].contains (Machine.EF.src g) && [10, 9, 11, 12].contains (Machine.EF.dst g) && Machine.EF.root g == 0) = true ∧ 1 ≤ Machine.EF.count g ∧
     Machine.EF.collSrc g false % 64 = 0 ∧ Machine.EF.collDst g false % 64 = 0 ∧ s.me.inStep = false ∧ s.slotFree f 2 0 = true ∧ s.slotFree g 2 0 = true) ∧
    eaAligned 0x200001 = false ∧ (busy [(6, 0x200001)]).goes 0 .always [6, 7, 8] = true ∧
    ((busy []).modMe fun x => { x with task := some (task0 (some ⟨0, 0, 0, []⟩)) }).me.inStep = true := by decide +kernel

/-- A requeue block in the own slice that holds `CPY s5, s6, s7, s8` of 64 bytes. -/
theorem test_witness_EngineCommandsIssue_renq :
    (let s := (((((busy [(2, 0x400000), (3, 1)]).writeWord 0x4000000000 0xC01461DF20000000).writeWord 0x4000000008 0x0600000000000000).writeWord
       0x4000000018 0x200000).writeWord 0x4000000020 0x400000).writeWord 0x4000000028 64
     let g := ef 5 6 7 8 0
     let w := fun n => s.readWord (0x4000000000 + 8 * n)
     s.goes 0 .always [2, 3] = true ∧ s.me.inStep = false ∧ s.accessPass .peek 0x400000 64 3 true 0x4000000000 rw = true ∧
     modOf 0x4000000000 = s.koyth.modId ∧ targetOf 0x4000000000 = .slice 0 0 ∧ renqIns false (w 0) (w 1) = some (.cpy g, g) ∧ w 6 = 0 ∧ w 7 = 0 ∧
     (w 2).extractLsb' 0 3 = 0 ∧ (s.core 1).retired = false ∧
     (let x := standIn (s.ctx 1 0) g (w 2) (w 3) (w 4) (w 5)
      let u := { s.setCtx 1 0 { x with task := if x.task.isSome then x.task else s.me.task } with curCore := 1, curCtx := 0 }
      u.renqBad 1 (.cpy g) g ⟨w 3, w 4, w 5, u.getS (Machine.EF.lsrc g), u.getS (Machine.EF.ldst g)⟩ = false) ∧
     s.releasePass = true ∧ (s.core 1).freeSlots 0 ≠ [] ∧ (renqIns true 0xC11461DF20000000 0x0600000000000000).isSome = false) ∧
    (0x400010 : Word).extractLsb' 0 6 ≠ 0 := by decide +kernel

/-- A CPY issued, started and running, on mapped pages. -/
def copying : State := after (exec (.cpy (ef 5 6 7 8 0)) (busy [(6, 0x200000), (7, 0x400000), (8, 64)]))
def copyStarted : State := after (exec (.engineCommandStart 0 0) copying)

/-- Cores 0 and 1 have each started a COLL.bcast of 64 bytes from member 0, over the group {0, 1}. -/
def collF : EF := ef 5 6 7 8 0x400000
def oneColl : State :=
  after (exec (.engineCommandStart 0 0) (after (exec (.collBcast collF)
    (poke 0x8000040 [7, 0, 0, 0, 2] (poke 0x8000084 [1] (busy [(6, 0x200100), (7, 0x200200), (8, 0x200040)]))))))
def twoColls : State :=
  let s := ({ oneColl with curCore := 1 } : State).modMe fun x =>
    { ((x.wr 6 0x200100).wr 7 0x200300).wr 8 0x200040 with task := some (task0 none) }
  { after (exec (.engineCommandStart 1 0) (after (exec (.collBcast collF) s))) with curCore := 0 }

theorem test_witness_EngineCommandsRun_copy :
    (match (copying.core 0).findCmd 0 with
     | some m => (Instr.ef m.ins).isSome && copying.mayStart 0 m && !copying.saving 0 m && m.fail.isNone && m.engine == .copy && !isMms m.ins &&
         !isMldw m.ins && !isProduct m.ins && m.slot == some 0 && m.engine.num == some 0
     | none => false) = true ∧
    (match (copyStarted.core 0).findCmd 0, Instr.ef (.cpy (ef 5 6 7 8 0)) with
     | some m, some f => m.st.running? && copyStarted.rlDone 0 m && !(copyStarted.core 0).held m && m.fail.isNone && !copyStarted.behind 0 m f && copyStarted.partsClear 0 m &&
         (copyStarted.runMove 0 m f).miss.clear && (copyStarted.firstMiss m.space (recTouch m)).clear && !copyStarted.mayStart 0 m
     | _, _ => false) = true := by decide +kernel

/-- A gather behind an earlier one that overlaps it. -/
theorem test_witness_EngineCommandsRun_behind :
    (let f : EF := { ef 5 6 7 8 0x1000100 with r := ⟨.always, 5, 6, 7, 8, 10, 0, 0⟩ }
     let s := after (exec (.engineCommandStart 0 0) (after (exec (.scad f) (busy [(6, 0x200000), (7, 0x200040), (8, 0x400000)]))))
     let s := after (exec (.scad f) (s.modMe fun x => { x with busy := [] }))
     match (s.core 0).findCmd 1 with
     | some m => s.behind 0 m f && m.engine == .gather
     | none => false) = true := by decide +kernel

/-- A collective alone, both matched, one cancelled, and one whose group has been ended. -/
theorem test_witness_EngineCommandsRun_coll :
    ([oneColl, twoColls].all fun s => match (s.core 0).findCmd 0 with
     | some m =>
       let me := s.koyth.modId * 2 ^ 11 + 0
       m.engine == .coll && m.st.running? && m.fail.isNone && !(s.core 0).held m && !m.cancel && s.deadStatus me m.seq == none &&
         ({ s with collDead := [(m.seq, [me], 7)] } : State).deadStatus me m.seq == some 7 && (s.group 0 m).bad == 0 && (s.group 0 m).ok &&
         (s.group 0 m).members.contains me && !(collBcast? m && decide ((s.group 0 m).nmem ≤ Machine.EF.root collF)) &&
         !((s.group 0 m).members.any fun w => w / 2 ^ 11 != s.koyth.modId) &&
         (((s.modCore 0 fun x => x.modCmd 0 fun m => { m with cancel := true }).core 0).findCmd 0).any (·.cancel)
     | none => false) = true ∧
    (match (oneColl.core 0).findCmd 0, (twoColls.core 0).findCmd 0 with
     | some m, some n =>
       let g := twoColls.group 0 n
       let found := twoColls.collFound n g
       !oneColl.collFull 0 m && twoColls.collFull 0 n && found.length == 2 &&
       found.all (fun p => collKey p.2 (twoColls.group p.1 p.2) == collKey n g) &&
       found.all fun p => (twoColls.firstMiss p.2.space (twoColls.collTouch p.1 p.2 collF (Machine.EF.collDst collF (collBcast? n)))).clear
     | _, _ => false) = true := by decide +kernel

/-- A handle kept by a save, one that names no slot, one never used (done), and that of a copy not yet started. -/
theorem test_witness_Handles :
    (let s := boxC 0 [(6, 9)] fun x => { x with task := some { task0 none with r := { (task0 none).r with recorded := [(9, 0x8000000000000000)] } } }
     s.goes 0 .always [6] = true ∧ (s.me.recorded.find? fun p => p.1 == s.getS 6) = some (9, 0x8000000000000000)) ∧
    ([(0x400000000 : Word), 0].all fun h => (box 0 [(6, h)]).goes 0 .always [6] && ((box 0 [(6, h)]).me.recorded.find? fun p => p.1 == h).isNone) = true ∧
    (box 0 []).badHandle 0x400000000 = true ∧ (box 0 []).badHandle 0 = false ∧ ((box 0 []).myCore.handleStatus 0).getLsbD 63 = true ∧
    (let s := copying.modMe fun x => { x with busy := [] }
     let h := s.getS 5
     s.goes 0 .always [5] = true ∧ s.badHandle h = false ∧ (s.myCore.handleStatus h).getLsbD 63 = false ∧
     (match s.myCore.handleCmd h with | some m => !m.st.started && m.ins == .cpy (ef 5 6 7 8 0) | none => false) = true ∧
     s.myCore.cmds.any s.countsHere = true ∧ s.goes 0 .always [] = true) ∧
    (box 0 []).myCore.cmds.any (box 0 []).countsHere = false ∧ (box 0 []).goes 0 .always [] = true := by decide +kernel

/-- Term 0 names counter 0 and a copy armed on it waits; the counter has reached its threshold. -/
def armed (v : Nat) : State :=
  let s := (busy [(6, 0x200000), (7, 0x400000), (8, 64), (9, 0x100), (10, 1)]).modMy fun x =>
    (x.setCnt 0 ⟨1, 0, v, false⟩).setTerm 0 ⟨1, true⟩
  (after (exec (.cpy { ef 5 6 7 8 0 with ev := true }) s)).modMe fun x => { x with busy := [] }

theorem test_witness_Events :
    (∀ s ∈ [armed 0, busy [(9, 0x100), (10, 1)]], s.goes 0 .always [9] = true ∧ s.goes 0 .always [10] = true ∧ s.goes 0 .always [] = true ∧
      s.goes 0 .always [] = true) ∧
    ((0x100 : Word).extractLsb' 16 48 = 0 ∧ (0x100 : Word).extractLsb' 4 4 = 0 ∧ ((0x100 : Word).extractLsb' 8 8).toNat ≠ 0 ∧
      ((0x100 : Word).extractLsb' 0 4).toNat ≤ 8 ∧ (1 : Word).extractLsb' 32 32 = 0) ∧
    ((armed 0).myCore.termWaits 0 = true ∧ ((armed 0).myCore.term 0).names 0 = true) ∧ (∀ k, k < 8 → (busy []).myCore.termWaits k = false) ∧
    (let x := { (busy []).myCore with pulses := [(1, true), (2, false), (1, true)] }
     ((x.setCnt 0 ⟨3, 1, 5, false⟩).repulse 0).cnt 0 = ⟨3, 1, 7, false⟩) ∧
    ((busy []).myCore.term 0).masks = 0 ∧ ((armed 0).myCore.term 0).masks ≠ 0 ∧ ((armed 0).core 0).termDue 0 = false ∧
    (((armed 1).core 0).term 0).armed = true ∧ ((armed 1).core 0).productHolds ((((armed 1).core 0).term 0).product 0) = true := by decide +kernel

/-- MSTN of macros 40 and 41 with 42 groups; then MLDW and MMS may enter. -/
def mstnF : EF := { ef 0 0 0 0 0xA020A80000 with sc := 0, r := { rf 0 0 0 with ty := 13 } }
def mldwF : EF := { ef 0 6 0 0 0xA0000A8000 with r := { rf 0 6 0 with ty := 13 } }
def mmsF : EF := { ef 20 21 0 0 0xA000C00400 with r := { rf 20 21 0 with ty := 11 } }
def scaccF : EF := ef 22 20 23 0 0x98000000
def stationed : State := after (exec (.mstn mstnF) (busy [(6, 0x200000), (20, 0), (21, 0x400000), (22, 96), (23, 0x401000)]))

theorem test_witness_Matrix_station :
    (let s := busy []
     s.goes 0 .always [] = true ∧ s.stationLegal mstnF = true ∧ s.me.inStep = false ∧ s.matrixFree mstnF = true ∧ s.stationLegal (ef 0 0 0 0 0) = false ∧
     s.myCore.region 40 = none) ∧
    ((busy []).modMe fun x => { x with task := some (task0 (some ⟨0, 0, 0, []⟩)) }).stationLegal mstnF = true ∧
    stationed.goes 0 .always [] = true ∧ (stationed.myCore.region 40).isSome = true ∧ Machine.EF.m0 (ef 0 0 0 0 0xA000000000) = 40 ∧
    (0xA000000000 : BitVec 40).extractLsb' 0 34 = 0 ∧ stationed.matrixFree (ef 0 0 0 0 0xA000000000) = true := by decide +kernel

theorem test_witness_Matrix_commands :
    stationed.goes 0 .always [6] = true ∧ eaAligned 0x200001 = false ∧ eaAligned 0x200000 = true ∧ eaPlain 0x200000 = true ∧
    mldwF.eng.extractLsb' 0 14 = 0 ∧ Machine.EF.m0 mldwF = 40 ∧
    (match stationed.myCore.region 40 with
     | some r => (mldwF.r.ty.toNat == r.ty && decide (Machine.EF.g0 mldwF + (mldwF.eng.extractLsb' 14 10).toNat ≤ r.ng)) && passLegal mmsF r &&
         decide (1 ≤ (mldwF.eng.extractLsb' 14 10).toNat) && !r.bad.contains 0 && (stationed.myCore.regionId r.id).isSome &&
         !stationed.macroRetired 0 r.m0 r.nm
     | none => false) = true ∧
    ((pagesIn 0x200000 (3072 * 42)).all fun v => match stationed.homeAnswer stationed.me.space v with | .hit e => !stationed.markedByte (e.pa v) | _ => false) = true ∧
    stationed.myCore.allowM.phase ≠ .tail ∧ stationed.matrixFree mldwF = true ∧
    (stationed.modMy fun x => { x with allowM := { x.allowM with phase := .tail } }).myCore.allowM.phase = .tail ∧
    stationed.goes 0 .always [20, 21, 0] = true ∧ stationed.goes 0 .always [22, 20, 23] = true ∧ (Machine.EF.m0 mmsF) = 40 ∧
    stationed.me.rowsBad 0 (Machine.EF.mmsNv mmsF * (Machine.EF.mmsNg mmsF / 2 ^ 0)) = none ∧ (stationed.me.rowsBad 250 96).isSome = true ∧
    eaAligned 0x400000 = true ∧ layoutOk 0 = false ∧ stationed.matrixFree mmsF = true ∧
    stationed.me.rowsBad 96 (Machine.EF.scNv scaccF) = none ∧ stationed.me.rowsBad 0 (Machine.EF.scNv scaccF * Machine.EF.scNb scaccF) = none ∧
    ¬(96 < 0 + Machine.EF.scNv scaccF * Machine.EF.scNb scaccF ∧ 0 < 96 + Machine.EF.scNv scaccF) ∧ 1 ≤ Machine.EF.scNv scaccF ∧ Machine.EF.scNv scaccF ≤ 1024 ∧
    1 ≤ Machine.EF.scNb scaccF ∧ Machine.EF.scNb scaccF ≤ 24 ∧ scaccF.eng.extractLsb' 0 24 = 0 ∧ stationed.matrixFree scaccF = true ∧
    (95 < 0 + 96 ∧ 0 < 95 + 4) := by decide +kernel

theorem test_mms_operand : ∀ ok, stationed.ownOperand 0x400000 (some (EF.word (.mms mmsF))) (lineBits 0x400000 (768 * 4)) ok = ok :=
  ownOperand_go (by decide +kernel) (by decide +kernel)

theorem test_scacc_operand : ∀ ok, stationed.ownOperand 0x401000 (some (EF.word (.scacc scaccF))) (lineBits 0x401000 (384 * 24)) ok = ok :=
  ownOperand_go (by decide +kernel) (by decide +kernel)

/-- A group load and a pair that are due, in the queue of the region's core. -/
def macItem : MacItem := ⟨40, 1, 0, 0, 0, List.replicate 3072 0x12, 0, false⟩
theorem test_witness_Matrix_items :
    (∀ i ∈ [Instr.mldw mldwF, .mms mmsF], let s := (after (exec i stationed)).modMy fun x => { x with macs := [macItem] }
      (s.core 0).macs.find? (fun i => i.mac == 40) = some macItem ∧
      (match (s.core 0).findCmd 1 with | some q => (Instr.ef q.ins).isSome && ((s.core 0).regionId q.reg).isSome && q.ins == i | none => false) = true ∧
      macItem.due ≤ (s.core 0).clock ∧ sidePoison ((s.core 0).side 0) = false ∧ macItem.bad = 0 ∧ macItem.a = false) ∧
    ({ macItem with bad := 2 } : MacItem).bad ≠ 0 ∧ isMldw (.mldw mldwF) = true ∧ isMms (.mms mmsF) = true := by decide +kernel

/-- A running MLDW whose first group's bytes arrive. -/
theorem test_witness_EngineCommandsRun_arrival :
    (let s := after (exec (.engineCommandStart 0 1) (after (exec (.mldw mldwF) stationed)))
     let s := s.modCore 0 fun x => x.modCmd 1 fun m => { m with st := .running 0 }
     match (s.core 0).findCmd 1 with
     | some m => isMldw m.ins && m.st.running? && (Instr.ef m.ins).isSome
     | none => false) = true := by decide +kernel

/-- MHINT at its limits: one place and eight, a lead of 0; a width of 0 is illegal. -/
theorem test_witness_Matrix_hints :
    (busy []).goes 0 .always [] = true ∧
    (∀ e ∈ [0x1000000100, 0x8FFFFFFF00], let f : BitVec 40 := BitVec.ofNat 40 e
      1 ≤ (f.extractLsb' 36 4).toNat ∧ (f.extractLsb' 36 4).toNat ≤ 8 ∧ 1 ≤ (f.extractLsb' 8 16).toNat ∧ f.extractLsb' 0 8 = 0) ∧
    ¬(1 ≤ ((0x100 : BitVec 40).extractLsb' 36 4).toNat) := by decide +kernel

/-- An allowance in each phase, with a hint of four places in force or none. -/
def allowed (u : AllowKind) (a : Nat) (p : AllowPhase) (up : Bool) (hs : List (Nat × Nat × Nat)) : State :=
  (box 0 []).modMy fun x => { x.setAllow u ⟨a, p, 0, up, hs⟩ with clock := 100 }

theorem test_witness_Allowances :
    (∀ u ∈ [AllowKind.macros, .tiles],
      ((allowed u 1 .active true [(4, 0, 200)]).trend 0 u = some true ∧ (((allowed u 1 .active true [(4, 0, 200)]).core 0).allow u).up = true ∧
        (((allowed u 1 .active true [(4, 0, 200)]).core 0).allow u).mark + allowStep u ≤ ((allowed u 1 .active true [(4, 0, 200)]).core 0).clock) ∧
      (∀ a ∈ [1, 9], (allowed u a .active false []).trend 0 u = some false ∧ (((allowed u a .active false []).core 0).allow u).up = false ∧
        (((allowed u a .active false []).core 0).allow u).mark + allowStep u ≤ ((allowed u a .active false []).core 0).clock) ∧
      (∀ p ∈ [AllowPhase.leadIn, .tail], (((allowed u 0 p true []).core 0).allow u).phase = p ∧ (((allowed u 0 p true []).core 0).allow u).mark ≤ 100) ∧
      (allowed u 0 .rest true []).trend 0 u = none) := by decide +kernel

/-- A tile in calibration. -/
def calibrated (rs : List (Nat × Word)) : State := (busy rs).modMy fun x => x.setTile 1 { x.tile 1 with calv := true }
def xmvF : EF := { ef 20 21 0 0 0x4010000000 with r := { rf 20 21 0 with ty := 9 } }
def xcalF : EF := { ef 0 0 0 0 0x4000000000 with sc := 0 }

theorem test_witness_Crossbar_issue :
    (let s := calibrated [(20, 0), (21, 0x400000)]
     let v := s.vals xmvF
     s.goes 0 .always [20, 21] = true ∧ s.me.rowsBad 0 (6 * Machine.EF.nv xmvF) = none ∧ (xbAddrs (.xmv xmvF) xmvF v).all eaAligned = true ∧
     xbLimit (.xmv xmvF) xmvF = true ∧ xbLimit (.xmv (ef 20 21 0 0 0)) (ef 20 21 0 0 0) = false ∧ Machine.EF.tileNo xmvF = 1 ∧ (s.myCore.tile 1).lf = false ∧
     (s.myCore.tile 1).rcal = false ∧ (s.myCore.tile 1).calv = true ∧ s.stepTiles / 2 ^ 1 % 2 = 1 ∧ s.me.inStep = false ∧
     xbScalars (.xmv xmvF) 0 = true ∧ s.tileFree xmvF = true ∧ s.me.discard = none) ∧
    (xbAddrs (.xmv xmvF) xmvF ⟨1, 0, 0, 0, 0⟩).find? (fun a => !eaAligned a) = some 1 ∧ ((busy []).myCore.tile 1).calv = false ∧
    (((busy []).modMy fun x => x.setTile 1 { x.tile 1 with lf := true }).myCore.tile 1).lf = true ∧
    (let s := (busy []).modMe fun x => { x with task := some (task0 (some ⟨0, 0, 0, []⟩)) }
     let b : WalkBlk := ⟨0, ⟨rec0, 1, 0, 1, 1, 0, 0, [⟨2, 1, 1⟩], [], 0⟩, [], 0, 0⟩
     (s.setGrotto 0 { Grotto.init with blocks := [b] }).stepTiles / 2 ^ 1 % 2 = 0) ∧
    (busy []).goes 1 .always [] = false ∧ (withPages pages (box 1 [])).goes 1 .always [] = true ∧
    xbScalars (.xupd (ef 0 0 0 0 0)) 0x7F800000 = false ∧
    (let s := (List.range 8).foldl (fun s _ => after (exec (.xstatBlk { ef 0 21 0 0 0x4000000000 with sub := 2 }) s)) (calibrated [(21, 0x400000)])
     s.myCore.tileQ 1 = 8 ∧ s.goes 0 .always [20, 21] = true) := by decide +kernel

theorem test_xmv_operand : ∀ ok, (calibrated [(20, 0), (21, 0x400000)]).ownOperand 0x400000 none (lineBits 0x400000 (2 * vecBytes 9)) ok = ok :=
  ownOperand_go (by decide +kernel) (by decide +kernel)

/-- An XSTAT block command running: not yet due, and due. -/
def statting (n : Nat) : State :=
  (after (exec (.engineCommandStart 0 0) (after (exec (.xstatBlk { ef 0 21 0 0 0x4000000000 with sub := 2 }) (calibrated [(21, 0x400000)]))))).modMy fun x =>
    { x with clock := x.clock + n }

theorem test_witness_Crossbar_run :
    ([0, 100000].all fun n => let s := statting n
      match (s.core 0).cmds.find? (fun m => m.engine == .tile 1 && m.st.running? && m.fail.isNone) with
      | some m => (match m.due with | some d => decide ((s.core 0).clock < d) == decide (n = 0) | none => false) && s.rlDone 0 m && s.partsClear 0 m &&
          (match Instr.ef m.ins with | some f => ((s.through m).firstMiss m.space (xbTouch m f)).clear | none => false)
      | none => false) = true ∧
    (let s := box 0 [(5, 0)]
     s.goes 0 .always [] = true ∧ (ef 5 0 0 0 0x4000000000).eng.extractLsb' 0 38 = 0 ∧ (s.myCore.tile 1).lf = false ∧ s.stepTiles / 2 ^ 1 % 2 = 1 ∧
     s.myCore.tileQ 1 = 0 ∧ (statting 0).myCore.tileQ 1 ≠ 0) ∧
    (let s := statting 0
     let m : Word := 0x8000000000003F80
     ((s.modMe fun x => { (x.wr 2 m) with level := 1, busy := [] }).goes 1 .always [2]) = true ∧ (0x69 : Nat) - 0x68 = 1) := by decide +kernel

/-- A product of two vectors that runs, before each of them: it is due, and its inputs translate. -/
theorem test_witness_Crossbar_vector :
    ([0, 1].all fun n => let s := (after (exec (.xmv xmvF) (calibrated [(20, 0), (21, 0x400000)]))).modMy fun x =>
        { x with cmds := x.cmds.map fun m => { m with st := .running 0, due := some x.clock, prog := n } }
      match (s.core 0).cmds.find? (fun m => m.engine == .tile 1 && m.st.running? && m.fail.isNone) with
      | some m => s.rlDone 0 m && s.partsClear 0 m && m.due == some (s.core 0).clock && isProduct m.ins &&
          (match Instr.ef m.ins with
            | some f => ((s.through m).firstMiss m.space (xbTouch m f)).clear && decide (m.prog + 1 < Machine.EF.nv f) == decide (n = 0)
            | none => false)
      | none => false) = true := by decide +kernel

/-- An idle sweep due to begin, running, and due to end; a core not started. -/
theorem test_witness_Crossbar_sweep :
    ((box 0 []).core 0).started = false ∧
    (∀ e ∈ [none, some 70000, some 65536], let s := (box 0 []).modMy fun x =>
      { x.setTile 1 { x.tile 1 with sweep := e } with started := true, clock := 65536 }
      (s.core 0).started = true ∧ ((s.core 0).tile 1).lastMeas + 65536 ≤ (s.core 0).clock ∧ ((s.core 0).tile 1).lf = false ∧ ((s.core 0).tile 1).sweep = e ∧
      (s.core 0).cmds.find? (fun m => m.engine == .tile 1 && m.st.running?) = none) := by decide +kernel

/-! ## Hypotheses are met: units, join units, windows, faults, links, moves -/

/-- Whether a control block may be read, with its bytes and its A bit to be judged. -/
def blockThat (s : State) (a : Word) (n : Nat) (p : List Byte → Bool → Bool) : Bool :=
  match s.block a n with
  | .ok bs apx => s.blockReady a n bs apx && p bs apx
  | _ => false

/-- A page of a compute-capable block beside the other pages. -/
def withC (s : State) : State := (s.modMy fun x => { x with tlb := ⟨0, 0xC00000, 0x200000, 0x860009B⟩ :: x.tlb }).writeWord (0x9010000 + 8 * 6) 0x860009B

/-- A relayout image at 0x200000: one row of 64 bytes per tile at slice offset 0. -/
def imaged (s : State) : State := poke 0x8000040 [0, 0, 0, 0, 1, 0, 0, 0, 64] (poke 0x8000000 [1, 0, 2] s)

def pcfgF : EF := ef 16 14 10 0 0

theorem test_witness_UnitCommands_pcfg :
    (let s := imaged (withC (busy [(14, 0x200000), (10, 0xC00000)]))
     let m : Cmd := { s.newCmd (.pcfg pcfgF) pcfgF .unit [] with vc := 0x8600000, prog := 1 }
     let g := s.imageOf 0 m
     let nw := fld g.bytes 2 2
     let dw := (List.range (min nw 1024)).map fun i => wordAt g.bytes (64 + 8 * i)
     s.goes 0 .always [14, 10] = true ∧ eaAligned 0x200000 = true ∧ (0xC00000 : Word).extractLsb' 0 21 = 0 ∧ eaPlain 0xC00000 = true ∧
     s.me.inStep = false ∧ s.look 0 0 0xC00000 = .ok 0x8600000 ⟨true, true, false, true, true, false, false⟩ ∧ s.inDomain (modOf 0x8600000) = true ∧
     s.slotFree pcfgF 0 0 = true ∧ g.a = false ∧ g.bad = 0 ∧ (zeros g.bytes 1 1 && zeros g.bytes 4 60 && imageOk (fld g.bytes 0 1) nw dw) = true ∧
     m.prog ≠ 0) ∧
    (let s := withC (busy [(14, 0x200000), (10, 0x200000)])
     let g := s.imageOf 0 (s.newCmd (.pcfg pcfgF) pcfgF .unit [])
     s.look 0 0 0x200000 = .ok 0x8000000 rw ∧ g.a = false ∧ g.bad = 0 ∧ imageOk (fld g.bytes 0 1) 0 [] = false) ∧
    (0x200040 : Word).extractLsb' 0 21 ≠ 0 ∧ eaAligned 0x200001 = false ∧ (ef 5 6 7 0 0).eng.extractLsb' 0 32 = 0 ∧ (0x3FF : Word).extractLsb' 10 54 = 0 := by
  decide +kernel

/-- RJCFG of a legal block, an illegal one, and one on a page with A. -/
theorem test_witness_UnitCommands_rjcfg :
    (let s := poke 0x8000000 [1, 0, 0, 0, 0, 0, 0, 0, 0, 0, 0, 0, 0, 0, 0, 0, 1, 0, 0, 0, 1] (busy [])
     blockThat s 0x200000 2 (fun bs a => !a && rjcfgOk ((List.range 16).map fun i => wordAt bs (8 * i))) &&
     blockThat s 0x200100 2 (fun bs a => !a && !rjcfgOk ((List.range 16).map fun i => wordAt bs (8 * i))) &&
     blockThat s 0xA00000 2 (fun _ a => a)) = true ∧
    (withPages pages (box 1 [(2, 0x200000)])).goes 1 .always [2] = true ∧
    (let s := poke 0x8000000 [1] (boxP 1 [(2, 0x200000)])
     blockThat s 0x200000 2 fun _ a => !a) = true ∧ (box 0 []).goes 0 .always [2] = true ∧ (box 0 []).me.inStep = false := by decide +kernel

/-- An enabled join unit. -/
def unitOn : JoinUnit := JoinUnit.init.configure [1, 0, 0x100000001] 0 0
/-- An entry for key 8 of four steps. -/
def entry8 : JEntry := ⟨0, 8, 4, 2, 0, 0, 0x200000, 0x8000000, 0, [(0x8000000, 0)], 0, 0, 0, 0, .held, []⟩
def unitAt (u : JoinUnit) (s : State) : State := s.setDie 0 { s.die 0 with unit := u }

/-- A seal block for key 8: two steps at 0x200040, no rewards expected yet. -/
def sealed (s : State) : State := poke 0x8000000 [8, 0, 0, 0, 0, 0, 0, 0, 2, 0, 0, 0, 2, 0, 0, 0, 0, 0, 0, 0, 0, 0, 0, 0, 0x40, 0, 0x20] s

theorem test_witness_UnitCommands_rjseal :
    (∀ u ∈ [JoinUnit.init, unitOn, { unitOn with entries := [entry8] }], let s := sealed (unitAt u (busy [(2, 0x200000)]))
      s.goes 0 .always [2] = true ∧ s.releasePass = true ∧
      blockThat s 0x200000 1 (fun bs a => !a && sealOk bs && eaPlain (wordAt bs 24) && decide ((wordAt bs 24).toNat + 32 * fld bs 8 4 ≤ 2 ^ 52) &&
        (match s.lookAll 0 0 (pageWords (wordAt bs 24) (32 * fld bs 8 4)) with | .ok trs => (trs.all fun t => t.2.r && t.2.w && !t.2.a) && !((s.stepUnits (wordAt bs 24) (32 * fld bs 8 4) trs).any fun p => s.misplaced p.1 p.2) | _ => false) &&
        wordAt bs 0 == 8) = true ∧
      blockThat s 0x200080 1 (fun bs a => !a && !sealOk bs) = true ∧ blockThat s 0xA00000 1 (fun _ a => a) = true ∧
      s.look 0 0 0x200000 = .ok 0x8000000 rw) ∧
    JoinUnit.init.on = false ∧ unitOn.on = true ∧ (unitOn.entry 8).isNone = true ∧ (({ unitOn with entries := [entry8] } : JoinUnit).entry 8).isSome = true ∧
    unitOn.entries.length < 65536 := by decide +kernel

/-- A full join table without an entry for key 16. -/
theorem test_full_join_table : ({ unitOn with entries := List.replicate 65536 entry8 } : JoinUnit).entries.length = 65536 ∧
    ({ unitOn with entries := List.replicate 65536 entry8 } : JoinUnit).entry 16 = none := by
  refine ⟨List.length_replicate .., ?_⟩
  simp only [JoinUnit.entry, List.find?_eq_none, List.mem_replicate]
  rintro x ⟨-, rfl⟩
  decide

/-- RJTAKE of every die number; request blocks that are legal, that are not, and on a page with A. -/
theorem test_witness_UnitCommands_requests :
    (box 0 [(2, 7)]).goes 0 .always [2] = true ∧ ((box 0 [(2, 7)]).getS 2).toNat ≤ 7 ∧ (box 0 []).me.inStep = false ∧
    (let s := poke 0x8000010 [1] (busy [])
     blockThat s 0x200000 1 (fun bs a => !a && strdOk bs) && blockThat s 0x200040 1 (fun bs a => !a && !strdOk bs)) = true ∧
    (let s := poke 0x8000000 [0, 0, 0, 0, 1, 0, 0, 0, 0, 0, 0, 0, 0, 0, 0, 0, 1, 0, 0, 0, 0, 0, 0, 0, 0, 0, 0x20, 0, 0, 0, 0, 0, 0x40, 0, 0, 0, 0x40, 0, 0, 0, 2, 0, 2] (busy [])
     blockThat s 0x200000 1 (fun bs a => !a && mdecOk bs) && blockThat s 0x200040 1 (fun bs a => !a && !mdecOk bs)) = true ∧
    (let s := poke 0x8000000 [0, 0, 0x20, 0, 0, 0, 0, 0, 0x40, 0, 0, 0, 8, 0, 0, 0, 2, 0, 2, 0, 0, 0, 0, 0, 1, 0, 1, 0, 1, 0, 1, 0, 0, 0, 0x20, 0, 0, 0, 0, 0,
       0x40, 0, 0, 0, 0x40] (busy [])
     blockThat s 0x200000 2 (fun bs a => !a && mrszOk 1 bs) && blockThat s 0x200080 2 (fun bs a => !a && !mrszOk 1 bs)) = true ∧
    (blockThat (busy []) 0xA00000 1 (fun _ a => a) && blockThat (busy []) 0xA00000 2 (fun _ a => a)) = true ∧
    (busy []).slotFree (ef 5 6 0 0 0) 0 0 = true := by decide +kernel

/-- A message for key 8 of die 0 (R362). -/
def msg8 (step : Nat) (seq : Nat) : JMsg := ⟨8, BitVec.ofNat 32 step, BitVec.ofNat 32 seq, 0, [], 0, 0⟩

theorem test_witness_JoinUnit_arrival :
    (∀ u ∈ [JoinUnit.init, unitOn, { unitOn with entries := [entry8] }], ∀ m ∈ [msg8 3 5, msg8 4 5],
      let s := unitAt { u with inbox := [m] } State.reset
      (s.die 0).unit.inbox = [m] ∧ (s.die 0).unit.judge = 0 ∧ (s.die 0).unit.on = u.on) ∧
    (∀ bs ∈ [leBytes 32 8, leBytes 32 9, leBytes 31 8], (bs.length = 32 ↔ bs ≠ leBytes 31 8) ∧ ((msgOf bs 0 65536 0).key.toNat % 8 = 0 ↔ bs ≠ leBytes 32 9)) ∧
    JoinUnit.init.on = false ∧ (msg8 4 5).malformed (some entry8) = true ∧ (msg8 3 5).malformed (some entry8) = false ∧ (msg8 3 5).malformed none = false ∧
    entry8.has 5 = none ∧ (({ entry8 with rewards := [⟨5, 3, 0⟩] } : JEntry).has 5).isSome = true ∧ entry8.st = .held ∧
    ({ unitOn with entries := [entry8] } : JoinUnit).stored < 4194304 ∧ unitOn.orphans.length < 16384 ∧
    JoinUnit.init.inbox = [] ∧ ({ unitOn with judge := 1 } : JoinUnit).judge ≠ 0 := by decide +kernel

theorem test_witness_JoinUnit_scan :
    (∀ j ∈ [0, 1, 2], ((unitAt { unitOn with judge := j } State.reset).die 0).unit.judge = j) ∧
    (let s := unitAt { unitOn with entries := [entry8], queued := [0] } State.reset
     (s.die 0).unit.queued = [0] ∧ ((s.die 0).unit.entries.find? fun e => e.serial == 0) = some entry8 ∧ (s.die 0).unit.stale entry8 = false ∧
     s.stepsLost 0 entry8 = false ∧ ({ s with poison := [0x200000] } : State).stepsLost 0 entry8 = true) ∧
    (let u := JoinUnit.init.configure [1, 0, 0x100000001, 1] 0 0
     u.stale entry8 = true ∧ u.sflag = false ∧ u.on = true) ∧ JoinUnit.init.on = false ∧ unitOn.push = none ∧ unitOn.ready = [] ∧ unitOn.queued = [] := by decide +kernel

theorem test_witness_JoinUnit_release :
    (let u : JoinUnit := { unitOn with entries := [entry8], ready := [0] }
     u.push = none ∧ u.ready = [0] ∧ (u.entries.find? fun e => e.serial == 0) = some entry8 ∧ u.on = true ∧ u.relq.length < 1024 ∧ u.ord = false ∧
     (∀ o ∈ u.entries, 0 ≤ o.serial)) ∧
    (let u : JoinUnit := { JoinUnit.init.configure [3, 0, 0x100000001] 0 0 with entries := [entry8, { entry8 with serial := 1 }], ready := [1] }
     u.ord = true ∧ ∃ o ∈ u.entries, o.serial < 1) ∧
    (({ unitOn with relq := List.replicate 1024 0 } : JoinUnit).relq.length = 1024) ∧
    (let s := unitAt { unitOn with push := some (0, rec0) } (resident State.reset)
     (s.die 0).unit.push = some (0, rec0) ∧ s.recLive rec0 = true ∧ (unitAt { unitOn with push := some (0, rec0) } State.reset).recLive rec0 = false ∧ (s.pushRec unitOn.grt rec0 0).isNone = true ∧ ((withQueues s).pushRec unitOn.grt rec0 0).isSome = true) := by decide +kernel

/-- A window store submitted by context 0 of core 0 to the block at 0x8600000, whose tiles hold a relayout image or are being configured. -/
def win (al size data off : Nat) : WindowStore :=
  ⟨0, 0, BitVec.ofNat 64 (al * 2 ^ 52 + 0xC00000 + off), 0x8600000 + off, size, true, BitVec.ofNat 64 data, 0⟩
def submits (w : WindowStore) (p : Pearl) : State :=
  ((boxC 0 [] fun x => { x with win := some ⟨w, none⟩ }).modPearl w.pa fun _ => p)
def relay : Pearl := { Pearl.init with kind := 1, image := [0x100000000, 64] }

theorem test_witness_StackWindows :
    (∀ p ∈ [Pearl.init, relay, { relay with configuring := true }, { relay with kind := 2, image := [0x100000000, 0x1000A0001, 0] },
        { relay with queue := List.replicate 64 ⟨1, 0, 0, 3, 0x8600000, 1, 0x8600000, none⟩ }],
      ∀ w ∈ [win 4 8 1 0, win 4 8 0 0, win 4 4 1 0], (submits w p).submitted w = true ∧ (submits w p).pearlAt w.pa = p ∧ eaAlias w.ea = 4) ∧
    (submits (win 4 8 1 0) relay).windowReject (win 4 8 1 0) = none ∧ (submits (win 4 8 0 0) relay).windowReject (win 4 8 0 0) = some 2 ∧
    (submits (win 4 4 1 0) relay).windowReject (win 4 4 1 0) = some 4 ∧ (submits (win 4 8 1 0) Pearl.init).windowReject (win 4 8 1 0) = some 3 ∧
    (∀ d ∈ [0, 1, 2, 3, 4], (submits (win 5 8 d 0) relay).submitted (win 5 8 d 0) = true ∧ eaAlias (win 5 8 d 0).ea = 5 ∧
      (submits (win 5 8 d 0) relay).windowReject (win 5 8 d 0) = if d = 4 then some 2 else none) ∧
    (∀ r ∈ [none, some ⟨[], [], []⟩, some ⟨[0, 1], [], []⟩], ∀ p ∈ [Pearl.init, { relay with queue := [⟨1, 0, 0, 3, 0x8600000, 1, 0x8600000, r⟩] }],
      ((State.reset.setPearl 3 p).pearl 3) = p ∧ p.configuring = false) := by decide +kernel

/-- An accepted store through each alias, ready to perform. -/
def windowed (al : Nat) (w : WindowStore) : State :=
  pend [{ acc (.window al w.data) (if al = 6 then 2 ^ 64 + w.pa % 0x10000 else w.pa) (8 * w.size) with ea := w.ea }]

theorem test_witness_WindowAccesses :
    (∀ al ∈ [1, 2, 3, 6], let w := win al 4 0x3F800000 64
      let s := windowed al w
      s.findWindow w = some 0 ∧ ((s.ctx 0 0).acc[0]?).isSome = true ∧ (s.ctx 0 0).acc.all (fun a => !s.accessError 0 a) = true ∧
      (s.pearlAt w.pa).configuring = false ∧ eaAlias w.ea = al ∧ s.anyPoison w.pa 4 = false) ∧
    (BankRows.init.counts = [] ∧ Tab.get (fun _ => 0) ([(3, 2048)] : Tab Nat) 3 = 2048 ∧ (7 : Nat) < 8 ∧ (191 : Nat) < 192 ∧ (15 : Nat) < 16) := by
  decide +kernel

/-- Die 0 with a fault ring of 16 slots at 0x8010000. -/
def ringed (s : State) : State := ((s.writeWord 0x20000 0x8010000).writeWord 0x20008 16)
/-- A fault record of a kind about context 0 of core 0. -/
def frec (kind : Nat) : FaultRec := ⟨0, kind, 0, 0x200000, 64, 0, 0, 0⟩

theorem test_witness_FaultRecords_ring :
    (∀ b ∈ [0, 128], let s := poke 0x8010007 [b] (ringed (State.reset.setDie 0 { Die.init with waiting := [frec 1] }))
      (s.die 0).waiting = [frec 1] ∧ s.ring 0 = some (0x8010000, 16) ∧ (s.readWord (0x8010000 + 64 * ((s.die 0).pushed % 16))).getLsbD 63 = decide (b = 128) ∧
      s.portBlock 0 + 24 ≤ 0x8010000) ∧
    (∀ k ∈ [1, 2, 3], ∀ a ∈ [0, 1, 2, 3], let s := poke 0x8010020 [a] (poke 0x8010027 [128]
        ((boxC 0 [] fun x => { x with task := some (task0 none), run := .parked 0 0x200000 }).setDie 0 { Die.init with placed := [(0x8010000, frec k)] }))
      (s.die 0).placed[0]? = some (0x8010000, frec k) ∧ (s.readWord 0x8010020).getLsbD 63 = true ∧ ((s.readWord 0x8010020).extractLsb' 0 2).toNat = a ∧
      s.parkedAt (frec k) = true ∧ (s.ctx 0 0).pulsed = false) ∧
    (State.reset.readWord 0x8010020).getLsbD 63 = false ∧
    (let s := (boxC 0 [] fun x => { x with task := some (task0 none), run := .parked 0 0x200000, acc := [acc (.load 5 false) 0x8000000 64] })
     s.parkedAt (frec 1) = true ∧ (s.core 0).drained 0 = false) := by decide +kernel

theorem test_witness_FaultRecords_units :
    (1023 : Nat) < 1024 ∧ (95 : Nat) < 96 ∧ (4095 : Nat) < 4096 ∧ ((box 0 []).ctx 0 0).task.isNone = true ∧
    ((boxC 0 [] fun x => { x with task := some (task0 none) }).ctx 0 0).task.isSome = true ∧
    (boxC 0 [] fun x => { x with task := some (task0 none) }).settled 0 0 = true ∧
    (boxC 0 [] fun x => { x with task := some (task0 none), acc := [acc (.store 5) 0x8000000 64] }).settled 0 0 = false ∧
    Tab.get (fun _ => 0) ((box 0 []).core 0).errs (3 + 3) = 0 ∧
    Tab.get (fun _ => 0) (((box 0 []).modMy (·.countErr 6)).core 0).errs (3 + 3) ≠ 0 ∧
    (∀ n ∈ [3, 4], (((box 0 []).modMy fun x => x.setTile 1 { x.tile 1 with winErr := n, winAcc := 2 ^ 20 }).core 0 |>.tile 1).winErr = n) ∧
    2 ^ 20 ≤ (((box 0 []).modMy fun x => x.setTile 1 { x.tile 1 with winErr := 4, winAcc := 2 ^ 20 }).core 0 |>.tile 1).winAcc ∧
    ((box 0 []).core 0 |>.tile 1).lf = false ∧ State.reset.koyth.retired.contains (unitCode (.scratchMacro 0 3)) = false := by decide +kernel

/-- The machine at reset with the Koyth die changed. -/
def linked (h : Koyth → Koyth) : State := { State.reset with koyth := h State.reset.koyth }

theorem test_witness_Links :
    (8 : Nat) < 9 ∧ (linked fun k => { k with ringDown := [2] }).koyth.ringDown.contains 2 = true ∧
    (∀ n ∈ [15, 16], Tab.get (fun _ => 0) (linked fun k => { k with retry := [(2, n)] }).koyth.retry 2 = n ∧
      (linked fun k => { k with retry := [(2, n)] }).koyth.ringDown.contains 2 = false) ∧
    (∀ n ∈ [3, 4], let s := linked fun k => { k with domain := [5], resent := [(5, n)] }
      35 < 36 ∧ 5 ≠ s.koyth.modId ∧ s.inDomain 5 = true ∧ s.koyth.unreachable.contains 5 = false ∧ Tab.get (fun _ => 0) s.koyth.resent 5 = n ∧
      s.koyth.noRoute = false) ∧
    (linked fun k => { k with linkDown := [7] }).koyth.linkDown.contains 7 = true ∧ State.reset.koyth.linkDown.contains 35 = false := by decide +kernel

/-- A request of die 0 for context 0 of core 0: operation and save area, beside a resident launch. -/
def asks (op : Nat) (a : Nat) (s : State) : State := poke 0x20045 [op, 0, 128] (s.writeWord 0x20048 (BitVec.ofNat 64 a))
/-- Context 0 of core 0 as a task that a pre-emption may meet. -/
def met (h : Ctx → Ctx) : State := resident (boxC 0 [] fun x => h { x with task := some (task0 none) })

theorem test_witness_Moves_preempt :
    (∀ s ∈ [asks 1 0x400000 State.reset, asks 1 0x400000 (met id), asks 1 0x8000000 (met id), asks 1 0x400000 (met fun x => { x with preempt := true }),
        asks 1 0x400000 (met fun x => { x with task := some { task0 none with handler := true } }),
        asks 1 0x400000 (met fun x => { x with task := some (task0 (some ⟨0, 0, 0, []⟩)) })],
      (s.rhdr 0).getLsbD 63 = true ∧ rhdrOp (s.rhdr 0) = 1 ∧ rhdrPlain (s.rhdr 0) = true ∧ dieOf ((s.rhdr 0).extractLsb' 16 11).toNat = 0) ∧
    rhdrPlain ((poke 0x20041 [1] (asks 1 0 State.reset)).rhdr 0) = false ∧ (State.reset.rhdr 0).getLsbD 63 = false ∧
    (State.reset.ctx 0 0).task.isNone = true ∧
    (let s := asks 1 0x400000 (met id)
     s.saveOk (s.ctx 0 0).space (s.savePtr 0) 64 = true ∧ (s.members 0 0).all (fun p => (s.ctx p.1 p.2).preempt && s.quiet p.1 p.2) = false ∧ s.saveTransit (s.ctx 0 0).space (s.savePtr 0) 64 = false) ∧
    (let s := asks 1 0x800001 (met id)
     s.saveOk (s.ctx 0 0).space (s.savePtr 0) 64 = false ∧ s.saveTransit (s.ctx 0 0).space (s.savePtr 0) 64 = false) ∧
    (let s : State := { asks 1 0x400000 (met id) with transit := some 0x9010010 }
     s.saveTransit (s.ctx 0 0).space (s.savePtr 0) 64 = true) ∧
    (let s := asks 1 0x400000 (met fun x => { x with preempt := true })
     s.saveOk (s.ctx 0 0).space (s.savePtr 0) 64 = true ∧
     (s.members 0 0).all (fun p => (s.ctx p.1 p.2).preempt && s.quiet p.1 p.2 && (s.cmdsOf p.1 p.2).isEmpty) = true) ∧
    (let s := asks 1 0x400000 ((armed 0).modMe fun x => { x with preempt := true })
     s.saveOk (s.ctx 0 0).space (s.savePtr 0) 64 = true ∧ ((s.members 0 0).all fun p => (s.ctx p.1 p.2).preempt && s.quiet p.1 p.2) = true ∧
     (0, 0) ∈ s.members 0 0 ∧ ((s.cmdsOf 0 0).any fun m => m.st == .armed 0) = true) ∧
    (∀ b, ((met fun x => { x with task := some (task0 (some ⟨0, 0, 0, []⟩)), pulsed := b }).ctx 0 0).pulsed = b) ∧
    ((met id).settled 0 0 = true ∧ ((met id).ctx 0 0).level = 0 ∧ ((met id).ctx 0 0).delay = none) ∧
    (met fun x => { x with acc := [acc (.store 0) 0x8000000 64] }).settled 0 0 = false := by decide +kernel

/-- A saved gang of one member, the one at 0x400000. -/
def gang0 : SavedGang := ⟨0x400000, 0x1000, none, [⟨(met id).ctx 0 0, 0, 0xFF, [], [], [], [], [], []⟩], none, []⟩

theorem test_witness_Moves_restore :
    (∀ g ∈ [[], [gang0]], let s : State := { asks 2 0x400000 (resident State.reset) with saved := g }
      (s.rhdr 0).getLsbD 63 = true ∧ rhdrOp (s.rhdr 0) = 2 ∧ s.pending.any (pendingDie 0) = false ∧ rhdrPlain (s.rhdr 0) = true ∧ eaAligned (s.savePtr 0) = true ∧
      s.saved.find? (fun g => g.save == (s.savePtr 0).toNat) = g.head? ∧ s.saveOk gang0.space (s.savePtr 0) (max 64 gang0.size) = true ∧
      (asks 2 0x400000 State.reset).saveOk gang0.space ((asks 2 0x400000 State.reset).savePtr 0) (max 64 gang0.size) = false ∧
      (asks 2 0x400000 State.reset).saveTransit gang0.space ((asks 2 0x400000 State.reset).savePtr 0) (max 64 gang0.size) = false) := by decide +kernel

/-- A launch's gang of one, and a saved gang, pending while grotto 0 has a core with free contexts, and while it has none. -/
def pends (p : PendingGang) (b : Bool) : State := { (State.reset.modCore 0 fun x => { x with started := b }) with pending := [p] }

theorem test_witness_Moves_admission : State.reset.pending = [] ∧
    (∀ p ∈ [PendingGang.fresh 0 0 [⟨rec0, 0, 0⟩] 1 2 0, .saved 0 gang0], ∀ b, (pends p b).pending = [p] ∧
      ((List.range 64).findSome? ((pends p b).placesFor p)).isSome = b) := by decide +kernel

/-- A migration request for the leaf of the page at 0x200000, to 0xA000000 or onto itself. -/
def migrates (new : Nat) (s : State) : State :=
  poke 0x20817 [128] (((resident s).writeWord 0x20800 0x9010008).writeWord 0x20808 (BitVec.ofNat 64 new))

theorem test_witness_Moves_migration :
    (∀ n ∈ [0xA000000, 0x8000000], let s := migrates n State.reset
      (s.readWord (s.migBlock + 16)).getLsbD 63 = true ∧ s.transit = none ∧ (s.readWord s.migBlock).toNat = 0x9010008 ∧ s.leafOk 0x9010008 = true ∧
      (s.readWord 0x9010008).extractLsb' 3 2 = 0 ∧ (s.readWord 0x9010008).getLsbD 6 = false ∧
      s.newpaOk (ptAddr (s.readWord 0x9010008)) n (s.leafBytes 0x9010008) = decide (n = 0xA000000)) ∧
    (State.reset.readWord (State.reset.migBlock + 16)).getLsbD 63 = false ∧ (migrates 0 State.reset).leafOk 0x9020000 = false ∧
    (let s := (migrates 0xA000000 State.reset).writeWord 0x9010008 0x80000DB
     s.leafOk 0x9010008 = true ∧ (s.readWord 0x9010008).extractLsb' 3 2 ≠ 0 ∧ (s.readWord 0x9010008).getLsbD 6 = true) ∧
    (∀ l ∈ [[], [acc (.store 0) 0x8000040 64]], let s : State := { migrates 0xA000000 (pend l) with transit := some 0x9010008 }
      s.transit = some 0x9010008 ∧ s.pageBusy (ptAddr (s.readWord 0x9010008)) (s.leafBytes 0x9010008) = !l.isEmpty) := by decide +kernel

/-- A query of context 0 of core 0 for the page at 0x200000, with its home slice asked or not. -/
def queries (va : Nat) (a : Bool) : State :=
  (resident (boxC 0 [] fun x => { x with query := some ⟨BitVec.ofNat 64 va, none⟩ })).modCore (homeSlice 0 va) fun x =>
    { x with asked := if a then [(0, 0)] else [] }

/-- A query that is answered, one not yet at its slice, a hit in the slice, a walk that runs; pages unmapped, malformed, in transit, mapped. -/
theorem test_witness_Moves_query :
    (∀ a ∈ [some true, none], ((boxC 0 [] fun x => { x with query := some ⟨0x200000, a⟩ }).ctx 0 0).query = some ⟨0x200000, a⟩) ∧
    (let h := homeSlice 0 0x200000
     ((queries 0x200000 false).core h).asked.contains (0, 0) = false ∧ ((queries 0x200000 true).core h).asked.contains (0, 0) = true ∧
     (queries 0x200000 true).sliceHit (0, 0x200000) = false ∧ ((queries 0x200000 true).walks h).contains (0, 0x200000 / 2 ^ 21) = true ∧
     ((queries 0x200000 true).modCore h fun x => { x with l2tlb := [⟨0, 0x200000, 0x200000, 0x8000083⟩] }).sliceHit (0, 0x200000) = true) ∧
    (resident State.reset).homeAnswer 0 0x2000000 = .miss ∧ ((resident State.reset).writeWord 0x9010008 3).homeAnswer 0 0x200000 = .malformed ∧
    ({ resident State.reset with transit := some 0x9010008 } : State).homeAnswer 0 0x200000 = .transit ∧
    (resident State.reset).homeAnswer 0 0x200000 = .hit ⟨0, 0x200000, 0x200000, 0x8000083⟩ := by decide +kernel

/-! ## Hypotheses are met: the host port and the controller -/

/-- The module as ready with queue pair 1 connected. -/
def up (s : State) : State := { s with io := { s.io with started := true, qps := [1] }, koyth := { s.koyth with state := 1, stage := 5 } }

/-- A message of 256 bytes with bytes set at places. -/
def msg (l : List (Nat × List Nat)) : HostReq :=
  ⟨1, (List.range 256).map fun i =>
    ((l.findSome? fun p => if p.1 ≤ i && i < p.1 + p.2.length then p.2[i - p.1]? else none).map (BitVec.ofNat 8)).getD 0⟩

theorem test_witness_HostServices_rdma :
    (let s : State := { State.reset with io := { State.reset.io with started := true } }
     s.io.started = true ∧ s.io.qps.contains 1 = false ∧ s.io.qps.length < 16 ∧ s.hears 1 = false) ∧
    (up State.reset).io.qps.contains 1 = true ∧ (up State.reset).hears 1 = true ∧ (∀ w, (up State.reset).hostOk 0x8000000 4 w = true) ∧
    (∀ w, (up State.reset).hostOk 0x100000 4 w = false) ∧ (up State.reset).anyPoison 0x8000000 4 = false ∧
    ({ up State.reset with poison := [0x200000] } : State).anyPoison 0x8000000 4 = true := by decide +kernel

/-- Each request of a type, legal and not; before STATE 1 and at it; with its launch or connection there and not. -/
theorem test_witness_HostServices_requests :
    (∀ t ∈ [2, 3, 4, 5], (up State.reset).takes (msg [(0, [t])]) t = true ∧ (up State.reset).takes (msg [(0, [t])]) (t + 1) = false ∧
      (up (resident State.reset)).takes (msg [(0, [t])]) t = true ∧
      ({ up State.reset with koyth := State.reset.koyth } : State).takes (msg [(0, [t])]) t = true ∧ State.reset.koyth.state ≠ 1 ∧ (up State.reset).koyth.state = 1) ∧
    (∀ t ∈ [2, 3, 4], let m := (msg [(0, [t])]).msg
      (zeros m 2 2 && decide (fld m 12 4 < 16) && zeros m 24 232 && zeros m 16 240 && zeros m 12 244) = true ∧ fld m 8 4 = 0) ∧
    zeros (msg [(0, [2, 0, 1])]).msg 2 2 = false ∧ openOk (msg [(0, [5]), (10, [9, 6, 1])]).msg = true ∧ openOk (msg [(0, [5])]).msg = false ∧
    ((up State.reset).launchOf 0).isNone = true ∧ (up (resident State.reset)).launchOf 0 = some launch0 ∧ (up (resident State.reset)).launchBusy 0 = false ∧
    (up (met id)).launchBusy 0 = true ∧ ((up State.reset).conn 0).isNone = true ∧
    ((up (State.reset.setConn 0 (some ⟨9, 1, none⟩))).conn 0) = some ⟨9, 1, none⟩ := by decide +kernel

/-- A close of no connection, of one that is idle, and of one with an STRD in flight. -/
theorem test_witness_HostServices_close :
    (let q := msg [(0, [6])]
     (up State.reset).takes q 6 = true ∧ zeros q.msg 2 2 = true ∧ fld q.msg 8 2 < 256 ∧ zeros q.msg 10 246 = true) ∧
    (let s := (up State.reset).setConn 0 (some ⟨9, 1, none⟩)
     s.takes (msg [(0, [6])]) 6 = true ∧ s.koyth.state = 1 ∧ s.connBusy 0 = false ∧
     (s.modCore 0 fun x => { x with cmds := [{ s.newCmd (.strd (ef 5 6 0 0 0)) (ef 5 6 0 0 0) .unit [] with reg := 1, blk := List.replicate 64 0 }] }).connBusy 0 =
       true) := by decide +kernel

/-- An image at 0x200000 with one entry and one gang, its header changed at a place; and the launch message for it. -/
def image (at' v : Nat) (s : State) : State :=
  poke (0x8000000 + at') [v] (poke 0x80000A4 [1] (poke 0x800009C [255, 255, 255, 255] (poke 0x8000084 [1] (poke 0x8000050 [192]
    (poke 0x8000048 [160] (poke 0x8000030 [128] (poke 0x800002C [1] (poke 0x8000020 [1] (poke 0x8000018 [0, 1]
      (poke 0x8000000 [0x46, 0x4C, 0x5A, 0x49, 1] (withQueues (up (resident s)))))))))))))
def launchMsg (kind : Nat) : HostReq := msg [(0, [1]), (2, [kind]), (10, [0x20]), (19, [9])]

/-- A launch of each kind that passes; a bad header, bad records, a feature lacked, no translation, a bad message, no entry. -/
theorem test_witness_Launching :
    (∀ k ∈ [0, 1], let s := image 0 0x46 State.reset
      let q := launchMsg k
      s.transit = none ∧ s.takes q 1 = true ∧ s.koyth.state = 1 ∧ s.launchOk q.msg = true ∧ s.freeSpace = some 1 ∧ fld q.msg 2 2 = k ∧
      (match s.imgRead (fld q.msg 16 8) (fld q.msg 8 8) 128 with
       | some h => hdrOk h && (match s.imgRead (fld q.msg 16 8) (fld q.msg 8 8) (imgSize h) with
         | some img => recsOk h img && (lackedBit h).isNone && (match itemEntries q.msg h img with
           | some _ => (fld q.msg 48 8 != 0 || imgPipes h == 0) && s.pipesOk (fld q.msg 16 8) (fld q.msg 48 8) (pipeBytes h img) &&
               (k != 1 || (decide (fld (imgRec h img 72 (fld q.msg 24 4)) 4 4 ≤ 8) &&
                 !(BitVec.ofNat 32 (fld q.msg 28 4)).getLsbD 4 && s.pending.isEmpty))
           | none => false)
         | none => false)
       | none => false) = true) ∧
    (∀ p ∈ [(0, 0), (131, 1), (23, 128)], let s := image p.1 p.2 State.reset
      (match s.imgRead 0x9000000 0x200000 128 with
       | some h => if p.1 = 0 then !hdrOk h else hdrOk h && (match s.imgRead 0x9000000 0x200000 (imgSize h) with
         | some img => if p.1 = 131 then !recsOk h img else recsOk h img && (lackedBit h).isSome
         | none => false)
       | none => false) = true) ∧
    (image 0 0x46 State.reset).imgRead 0x9000000 0x2000000 128 = none ∧ (image 0 0x46 State.reset).launchOk (msg [(0, [1]), (8, [1])]).msg = false ∧
    ((image 0x84 0 State.reset).imgRead 0x9000000 0x200000 256).map (fun img => itemEntries (launchMsg 0).msg (img.take 128) img) = some none ∧
    -- a launch whose push waits, with room and without, and one that waits for a migration
    (let q := launchMsg 0
     let s : State := { up State.reset with launching := [(q, rec0, 1)] }
     s.launching.find? (fun p => p.1 == q) = some (q, rec0, 1) ∧ s.pushRec 0 rec0 64 = none ∧ ((withQueues s).pushRec 0 rec0 64).isSome = true) ∧
    ({ State.reset with transit := some 0 } : State).transit.isSome = true ∧ State.reset.launching = [] := by decide +kernel

/-- Stages of the start. -/
def staged (n : Nat) (r : Bool) : State := linked fun k => { k with stage := n, recovery := r }

theorem test_witness_StartOrder :
    State.reset.koyth.stage = 0 ∧ (staged 1 false).koyth.stage = 1 ∧ (staged 1 false).koyth.state ≠ 3 ∧
    (linked fun k => { k with flash := [0] }).flashImage = [0] ∧ (staged 2 false).koyth.recovery = false ∧ ((staged 2 false).die 0).started = false ∧
    (staged 2 false).startedBelow (8 * 0) = true ∧
    (let s := (staged 2 false).setDie 0 { Die.init with started := true }
     (s.die (0 / 8)).started = true ∧ (s.grotto 0).started = false ∧ s.startedBelow 0 = true ∧ 31 / 32 = 0 ∧ ({ s.core 31 with tiles := [] } : Core) = Core.init 31) ∧
    (staged 3 false).koyth.stage = 3 ∧ (staged 4 false).koyth.stage = 4 ∧ (staged 2 true).koyth.recovery = true := by decide +kernel

/-- A flash image that is no firmware. -/
theorem test_witness_StartOrder_refused : fwGood (linked fun k => { k with flash := [0] }).flashImage = false := by
  have h : (linked fun k => { k with flash := [0] }).flashImage = [0] := rfl
  rw [h]; simp [fwGood]

/-- An image of 160 bytes that is accepted wherever its signature is: SVN 3 is at or above a floor of 3. -/
def firmware : List Byte := ([0x51, 0x4B, 0x46, 0x57, 3] ++ List.replicate 155 0).map (BitVec.ofNat 8)
theorem test_witness_StartOrder_signed (h : Config.imageSigned firmware = true) :
    fwGood (linked fun k => { k with flash := firmware }).flashImage = true ∧ fwSvn firmware = 3 := by
  have e : (linked fun k => { k with flash := firmware }).flashImage = firmware := rfl
  have t : firmware.take (64 + fwBody firmware + 96) = firmware := by decide +kernel
  have a : (firmware.take 4 == [0x51, 0x4B, 0x46, 0x57] && zeros firmware 16 48 && decide (64 + fwBody firmware + 96 ≤ firmware.length)) = true := by
    decide +kernel
  refine ⟨?_, by decide +kernel⟩
  rw [e]; unfold fwGood; rw [t, h, a]; rfl

theorem test_witness_ControllerEvents_power :
    (staged 5 false).koyth.recovery = false ∧ 16 < 17 ∧ (if 16 < 9 then 95 else 85) ≤ 85 ∧ (if 8 < 9 then 95 else 85) ≤ 95 ∧ 94 < (if 8 < 9 then 95 else 85) ∧
    (List.replicate 17 84).length = 17 ∧ (∀ i, i < 17 → 84 < if i < 9 then 95 else 85) ∧ (if 16 < 9 then 105 else 95) ≤ 95 ∧ (if 0 < 9 then 105 else 95) ≤ 105 ∧
    isNext (exec (.thermalStop 16 95) (staged 1 false)) = true ∧ (after (exec (.thermalStop 16 95) (staged 1 false))).inputs = [] := by decide +kernel

/-- Requests 0x11 with an image in HBM, whole and poisoned, 0x12 for no launch and for the module, 0x13. -/
theorem test_witness_ControllerEvents_requests :
    (let s := { up State.reset with mem := (State.reset.putBytes 0x8000000 firmware).mem }
     let q := msg [(0, [0x11]), (11, [8]), (16, [160])]
     s.takes q 0x11 = true ∧ zeros q.msg 2 2 = true ∧ zeros q.msg 24 232 = true ∧ fld q.msg 8 8 % 64 = 0 ∧ fld q.msg 16 8 ≤ 2 ^ 25 ∧
     s.hostOk (fld q.msg 8 8) (fld q.msg 16 8) false = true ∧ s.bytes (fld q.msg 8 8) (fld q.msg 16 8) = firmware ∧ s.anyPoison 0x8000000 160 = false ∧
     ({ s with poison := [0x200000] } : State).anyPoison 0x8000000 160 = true ∧ s.koyth.floor ≤ fwSvn firmware ∧
     fwSvn firmware < (linked fun k => { k with floor := 4 }).koyth.floor) ∧
    (∀ f ∈ [[0, 0, 0, 0], [255, 255, 255, 255]], let q := msg [(0, [0x12]), (8, f), (19, [8])]
     let s := up State.reset
     s.takes q 0x12 = true ∧ s.koyth.recovery = false ∧ zeros q.msg 2 2 = true ∧ zeros q.msg 12 4 = true ∧ zeros q.msg 24 8 = true ∧ zeros q.msg 80 176 = true ∧
     s.hostOk (fld q.msg 16 8) 512 true = true ∧ (fld q.msg 8 4 = 0xFFFFFFFF ∨ s.launchOf (fld q.msg 8 4) = none)) ∧
    (let q := msg [(0, [0x13]), (19, [8])]
     (up State.reset).takes q 0x13 = true ∧ zeros q.msg 2 2 = true ∧ zeros q.msg 8 8 = true ∧ zeros q.msg 24 232 = true ∧
     (up State.reset).hostOk (fld q.msg 16 8) 4096 true = true) := by decide +kernel

/-! ## Rounding: the worked cases of chapter 8 (R140, R141) -/

/-- A rounding to bf16 (9) or e4 (11) of a signed magnitude, with random word `g`. -/
def rnd (ty rm : Nat) (neg : Bool) (v : Rat) (g : Nat) : Option Nat := (fmtOf ty).map fun f => f.round rm (.fin neg v) g

theorem test_round_bf16 :
    [0, 1, 2, 3].map (fun rm => rnd 9 rm false (259 / 256) 0) = [some 0x3F82, some 0x3F81, some 0x3F82, some 0x3F81] ∧
    [0, 1, 2, 3].map (fun rm => rnd 9 rm true (259 / 256) 0) = [some 0xBF82, some 0xBF81, some 0xBF81, some 0xBF82] ∧
    rnd 9 4 false (259 / 256) 0x7FFF = some 0x3F81 ∧ rnd 9 4 false (259 / 256) 0x8000 = some 0x3F82 ∧
    [0, 2].map (fun rm => rnd 9 rm false (513 / 512) 0) = [some 0x3F80, some 0x3F81] ∧
    rnd 9 4 false (513 / 512) 0xBFFF = some 0x3F80 ∧ rnd 9 4 false (513 / 512) 0xC000 = some 0x3F81 := by decide +kernel

theorem test_round_e4 :
    [0, 1, 2, 3].map (fun rm => rnd 11 rm false 464 0) = [some 0x7E, some 0x7E, some 0x7F, some 0x7E] ∧
    [0, 1, 2, 3, 4].map (fun rm => rnd 11 rm false 500 0) = List.replicate 5 (some 0x7F) ∧
    [0, 1, 2, 3].map (fun rm => rnd 11 rm true (1 / 1024) 0) = [some 0x80, some 0x80, some 0x80, some 0x81] ∧
    rnd 11 4 true (1 / 1024) 0x7FFF = some 0x80 ∧ rnd 11 4 true (1 / 1024) 0x8000 = some 0x81 := by decide +kernel

/-! ## Single steps, each result taken from a rule or computed from it by hand -/

/-- Register `d` of the issuing context after an instruction. -/
def reg (o : Host.Outcome State Fault Refusal) (d : Nat) : Word := (after o).me.rd d

theorem test_add_wraps : reg (exec (.add (rf 1 2 3)) (box 0 [(2, 0xFFFFFFFFFFFFFFFF), (3, 2)])) 1 = 1 := by decide +kernel
theorem test_sub_source_is_destination : reg (exec (.sub (rf 2 3 2)) (box 0 [(2, 5), (3, 3)])) 2 = 0xFFFFFFFFFFFFFFFE := by decide +kernel
theorem test_add_to_s0 : reg (exec (.add (rf 0 2 3)) (box 0 [(2, 5)])) 0 = 0 := by decide +kernel
theorem test_mulh_signs : reg (exec (.mulh (rf 1 2 3)) (box 0 [(2, 0xFFFFFFFFFFFFFFFF), (3, 1)])) 1 = 0xFFFFFFFFFFFFFFFF ∧
    reg (exec (.mulhw (rf 1 2 3)) (box 0 [(2, 0xFFFFFFFFFFFFFFFF), (3, 1)])) 1 = 0 := by decide +kernel
theorem test_div_corners : reg (exec (.div (rf 1 2 3)) (box 0 [(2, 7)])) 1 = 0xFFFFFFFFFFFFFFFF ∧ reg (exec (.rem (rf 1 2 3)) (box 0 [(2, 7)])) 1 = 7 ∧
    reg (exec (.div (rf 1 2 3)) (box 0 [(2, 0x8000000000000000), (3, 0xFFFFFFFFFFFFFFFF)])) 1 = 0x8000000000000000 := by decide +kernel
theorem test_rem_sign : reg (exec (.rem (rf 1 2 3)) (box 0 [(2, 0xFFFFFFFFFFFFFFF9), (3, 2)])) 1 = 0xFFFFFFFFFFFFFFFF := by decide +kernel
theorem test_sar_past_width : reg (exec (.sar (rf 1 2 3)) (box 0 [(2, 0x8000000000000000), (3, 64)])) 1 = 0xFFFFFFFFFFFFFFFF ∧
    reg (exec (.shl (rf 1 2 3)) (box 0 [(2, 1), (3, 64)])) 1 = 0 := by decide +kernel
theorem test_bfx_signed : reg (exec (.bfx ⟨.always, 1, 2, 0, 4, 3, 0, 4⟩) (box 0 [(2, 0xF0)])) 1 = 0xFFFFFFFFFFFFFFFF ∧
    reg (exec (.bfx ⟨.always, 1, 2, 0, 4, 7, 0, 4⟩) (box 0 [(2, 0xF0)])) 1 = 15 := by decide +kernel
theorem test_lih_keeps_low : reg (exec (.lih (imm 1 0 0x400012)) (box 0 [(1, 0xFFFFFFFF12345678)])) 1 = 0x0040001212345678 := by decide +kernel
theorem test_addi_sign : reg (exec (.addi (imm 1 2 0xFFFFFFFF)) (box 0 [(2, 5)])) 1 = 4 := by decide +kernel
theorem test_cmp_unsigned : ((after (exec (.cmp { rf 1 2 3 with fn := 6 }) (box 0 [(2, 1), (3, 0xFFFFFFFFFFFFFFFF)]))).me.rdP 1) = allLanes ∧
    ((after (exec (.cmp { rf 1 2 3 with fn := 2 }) (box 0 [(2, 1), (3, 0xFFFFFFFFFFFFFFFF)]))).me.rdP 1) = 0 := by decide +kernel
/-- 1 + 2^-24 is a tie that rne sends to the even 1 (R140). -/
theorem test_fadd_tie : reg (exec (.fadd { rf 1 2 3 with ty := 10 }) (box 0 [(2, 0x3F800000), (3, 0x33800000)])) 1 = 0x3F800000 ∧
    reg (exec (.fadd { rf 1 2 3 with ty := 10, rm := 2 }) (box 0 [(2, 0x3F800000), (3, 0x33800000)])) 1 = 0x3F800001 := by decide +kernel
/-- An exact zero sum is −0 under rdn alone (R140). -/
theorem test_fsub_zero : reg (exec (.fsub { rf 1 2 2 with ty := 10 }) (box 0 [(2, 0x3F800000)])) 1 = 0 ∧
    reg (exec (.fsub { rf 1 2 2 with ty := 10, rm := 3 }) (box 0 [(2, 0x3F800000)])) 1 = 0x80000000 := by decide +kernel
theorem test_fsqrt_negative : reg (exec (.fsqrt { rf 1 2 0 with ty := 10 }) (box 0 [(2, 0xBF800000)])) 1 = 0x7FC00000 := by decide +kernel
theorem test_plen_limits : ((after (exec (.plen (rf 1 2 0)) (box 0 [(2, 200)]))).me.rdP 1) = allLanes ∧
    ((after (exec (.plen (rf 1 2 0)) (box 0 [(2, 3)]))).me.rdP 1) = 7 := by decide +kernel
/-- A trap at task level: cause, PREV 0, the address of the instruction, 64 bytes a cause from trap.base (R280). -/
theorem test_trap_entry : let t := after (exec (.trap (imm 0 0 7)) (boxC 0 [] fun x => { x with pc := 64, trapBase := 0x1000 }))
    t.me.trapCause = 0x12 ∧ t.me.trapInfo = 7 ∧ t.me.trapPc = 64 ∧ t.me.pc = 0x1000 + 64 * 0x12 ∧ t.me.level = 1 := by decide +kernel
theorem test_eret_returns : let t := after (exec (.eret (rf 0 0 0)) (boxC 1 [] fun x => { x with trapPc := 72, trapCause := 0x11 }))
    t.me.pc = 72 ∧ t.me.level = 0 := by decide +kernel
/-- lk := a + 24 (R60). -/
theorem test_btl_link : (after (exec (.btl (rf 0 1 0)) (code [0x0400001F00000000, 0x0100001F00000000, 0x0100001F00000000]))).me.rd 63 = 0x200018 := by
  decide +kernel
/-- The inner loop of no iterations of chapter 3 ends past its body. -/
theorem test_loopr_zero_trip : (after (exec (.loopr { lf 1 0 1 with a := 3 }) (box 0 []))).me.pc = 16 := by decide +kernel
/-- LDS.w8 of 0x80 reads −128; byte order is little-endian (R75, R77). -/
theorem test_load_returns : (after (exec (.loadReturn 0 0 0) (poke 0x8000000 [0x80, 1] (pend [acc (.load 5 true) 0x8000000 8])))).me.rd 5 = 0xFFFFFFFFFFFFFF80 ∧
    (after (exec (.loadReturn 0 0 0) (poke 0x8000000 [0x80, 1] (pend [acc (.load 5 false) 0x8000000 16])))).me.rd 5 = 0x180 := by decide +kernel
theorem test_aadd_returns_old : let t := after (exec (.loadReturn 0 0 0) (poke 0x8000000 [0xFF] (pend [acc (.amo 5 0x4E 1 0) 0x8000000 32])))
    t.me.rd 5 = 0xFF ∧ t.readWord 0x8000000 = 0x100 := by decide +kernel
/-- VADD.i32 of 2^31 − 1 and 1 wraps; the row lands after 3 cycles (R93, R95). -/
theorem test_vadd_lands : let t := after (exec (.vadd { rf 1 2 3 with ty := 2 }) ((box 0 []).modMy fun x =>
      (x.landEff (.gran (x.ctx 0 |>.vRow 2 |> (x.ctx 0).rowGran 0) 0x7FFFFFFF (BitVec.allOnes 512) .exact)).landEff
        (.gran (x.ctx 0 |>.vRow 3 |> (x.ctx 0).rowGran 0) 1 (BitVec.allOnes 512) .exact)))
    t.myCore.landings.map (·.due) = [3] ∧
    elem 32 ((after (exec (.resultLanding 0) (t.modMy fun x => { x with clock := 3 }))).refRow (t.me.vRow 1)) 0 = 0x80000000 := by decide +kernel
/-- R149, R148: KMIX and the word of core 0's first cycle, computed from their pseudocode outside Lean. -/
theorem test_kmix : kmix 0 0 = 0x9574B45 ∧ kmix 0x0123456789ABCDEF 0xFFFFFFFFFFFFFFFF = 0x503F03CA := by decide +kernel
theorem test_generator : rngStep (seedState 0) = 0xDC1B77AE0BF34DAD := by decide +kernel
theorem test_mfc_core_id : reg (exec (.mfc (imm 5 0 0x10)) { box 0 [] with curCore := 37 }) 5 = 37 := by decide +kernel
/-- RNGT of 100 with k × p = 8: ceil(100 / 8) = 13 (R162). -/
theorem test_rngt_chunk : reg (exec (.rngt (rf 7 0 0)) ((box 0 []).modMyGrotto fun x => x.setRange 0 ⟨100, 40, 1, 2, 4⟩)) 7 = 0xD0000000028 := by decide +kernel

/-! ## Hypotheses are met: more clauses of statements already met -/

/-- Two started cores: a turn owed to core 0 is taken first, and one chosen freely needs none owed. -/
theorem test_witness_StepRunsDecoded_many :
    (let s : State := { (code [0x0C0420DF00000000]).modCore 1 fun x => { x with started := true } with owed := [.core 0, .core 1] }
     s.koyth.state ≠ 3 ∧ s.inputs = [] ∧ s.startStep.isNone = true ∧ s.due.isNone = true ∧ s.openSteps = [] ∧ s.running = [0, 1] ∧
     (s.core 0).issued = false ∧ (s.core 0).chosen = some 0) ∧
    (let s : State := { (code [0x0C0420DF00000000]).modCore 1 fun x => { x with started := true } with owed := [], patience := 1 }
     s.owed = [] ∧ s.patience ≠ 0 ∧ s.running.contains 0 = true ∧ s.openSteps = [] ∧
     s.openSteps[Config.pick s.tick % (s.openSteps.length + 1)]? = none) := by
  refine ⟨by decide +kernel, by decide +kernel, by decide +kernel, by decide +kernel, by decide +kernel, ?_⟩
  generalize Config.pick _ = n
  have h : State.openSteps { (code [0x0C0420DF00000000]).modCore 1 fun x => { x with started := true } with owed := [], patience := 1 } = [] := by
    decide +kernel
  rw [h]; rfl

theorem test_witness_FalseGuard_levels :
    (let s := boxC 1 [] fun x => { x with trapCause := 0x111 }
     s.guardOk notP1 = true ∧ s.me.guardTrue notP1 = false ∧ 1 ≤ s.me.level ∧ (s.me.trapCause.extractLsb' 8 2).toNat ≤ s.me.level) ∧
    readLevel 0x20 ≤ (box 0 []).me.level ∧ readLevel 0 ≤ (box 1 []).me.level := by decide +kernel

/-- A page of module 1, which cannot be reached, with a reservation of the line. -/
theorem test_witness_Atomics_dead :
    let s := { (withPages [(0x200000, 0x40000008000083)] (box 0 [(2, 0x200040)])).modMe fun x => { x with resv := some ⟨0x200040, 2 ^ 54 + 0x8000040, 3, 0⟩ }
      with koyth := { State.reset.koyth with domain := [1], unreachable := [1] } }
    let pa := 2 ^ 54 + 0x8000040
    let b := s.scalarAccess (mf 4 2 3 0) (.store (s.getS 3)) (s.eaBase (mf 4 2 3 0)) [8 * pa] rw pa
    s.goes 0 .always [2, 3] = true ∧ s.accessPass .storeX (s.eaBase (mf 4 2 3 0)) 8 3 false pa rw = true ∧ s.orderOk b = true ∧ b.dead = true ∧
    s.me.resv = some ⟨s.eaBase (mf 4 2 3 0) &&& ~~~63, 2 ^ 54 + 0x8000040, 3, 0⟩ ∧ s.me.discard = none := by decide +kernel

/-- Three landings, two of them due. -/
theorem test_witness_ResultsLand_many :
    let s := State.reset.modCore 0 fun x => { x with clock := 2, landings := [⟨2, 0, [.poisonVc 0]⟩, ⟨3, 0, [.poisonVc 0]⟩, ⟨1, 0, [.poisonVc 0]⟩] }
    ((s.core 0).landings.filter fun l => decide (l.due ≤ (s.core 0).clock)) = [⟨2, 0, [.poisonVc 0]⟩, ⟨1, 0, [.poisonVc 0]⟩] ∧
    ((s.core 1).landings.filter fun l => decide (l.due ≤ (s.core 1).clock)) = [] := by decide +kernel

/-- A table slot that loads, and one that a TEV still reads. -/
theorem test_witness_TableEngine_held :
    ∀ t ∈ [{ TabSlot.init with loading := true }, { TabSlot.init with evUntil := 5 }],
      let s := (header (boxP 0 [(2, 0x200000)])).modMy fun x => x.setTab 1 t
      s.goes 0 .always [2, 0] = true ∧ s.goesV .always [] = true ∧ s.eaIndexed (mf 1 2 0 0) = 0x200000 ∧
      s.accessPass .peek 0x200000 64 3 false 0x8000000 rw = true ∧
      s.orderOk (s.newAccess (.table 1) 0x200000 [8 * 0x8000000] 512 rw (s.holdOf 0x200000) 0 3 false false 0) = true ∧
      (s.tableHeader 0x8000000).map (·.nseg) = some 1 ∧
      (∀ i, i < 1 → s.accessPass .peek (0x200000 + BitVec.ofNat 64 (64 + 16 * i)) 16 3 false 0x8000040 rw = true) ∧
      ((s.myCore.tab 1).loading = true ∨ s.now < (s.myCore.tab 1).evUntil) := by decide +kernel

/-- YIELD.q of a task that a pre-emption will stop. -/
theorem test_witness_Waiting_preempted :
    let s := boxC 0 [] fun x => { x with task := some (task0 none), preempt := true }
    s.goes 0 .always [] = true ∧ s.myCore.landed 0 = true ∧ s.me.preempt = true ∧ s.me.inStep = false := by decide +kernel

/-! Translations in their home slices, and places that an engine writes. -/

/-- `resident` with every page of `pages` in its home slice. -/
def sliced (s : State) : State :=
  pages.foldl (fun s p => s.modCore (homeSlice 0 p.1) fun x => { x with l2tlb := ⟨0, p.1, 0x200000, BitVec.ofNat 64 p.2⟩ :: x.l2tlb }) (resident s)

/-- `placesAt`, computed. -/
def placesB (s : State) (own : Option Nat) (va w n : Nat) (needA : Bool) (d : Nat → Nat) : Bool :=
  (List.range n).all fun i => s.inSlice 0 (va + w * i) && (match s.reach 0 (va + w * i) true with | .ok p _ 0 => p == d i | _ => false) &&
    (s.writeGot own 0 (va + w * i) needA).bad == 0

theorem placesAt_of {s : State} {own : Option Nat} {va w n : Nat} {needA : Bool} {d : Nat → Nat} (h : placesB s own va w n needA d = true) :
    s.placesAt own 0 va w n needA d := by
  intro i hi
  have := List.all_eq_true.mp h i (List.mem_range.mpr hi)
  simp only [Bool.and_eq_true, beq_iff_eq] at this
  obtain ⟨⟨h1, h2⟩, h3⟩ := this
  refine ⟨h1, ?_, h3⟩
  split at h2
  · rename_i p a e
    exact ⟨a, by rw [e, beq_iff_eq.mp h2]⟩
  · cases h2

/-- A finished walk whose join counter is at 0x200000. -/
theorem test_witness_Scheduling_joined :
    let o : OpBlock := ⟨{ rec0 with joina := 0x200000 }, 1, 0, 1, 0, 0, 0, [⟨2, 1, 1⟩], [], 0x200000⟩
    let w : WalkBlk := ⟨0, o, [], 2, 0⟩
    let s := sliced (poke 0x8000000 [3] (State.reset.setGrotto 0 { Grotto.init with started := true, blocks := [w] }))
    (s.grotto 0).blocks[0]? = some w ∧ w.finished = o.steps ∧ w.copies = 0 ∧ o.r.joina ≠ 0 ∧ eaPlain o.r.joina = true ∧
    (match s.reach 0 0x200000 true with | .ok pa a 0 => pa == 0x8000000 && !a.a && a.r | _ => false) = true ∧
    ((s.setGrotto 0 { s.grotto 0 with blocks := (s.grotto 0).blocks.eraseIdx 0 }).decrement none 0 0 0 0x8000000 0).isSome = true := by decide +kernel

/-- A command as it runs: instruction, values of its registers. -/
def running' (i : Instr) (f : EF) (a b c : Nat) : Cmd :=
  { State.reset.newCmd i f .copy [] with va := BitVec.ofNat 64 a, vb := BitVec.ofNat 64 b, vc := BitVec.ofNat 64 c }

/-- Places of an engine's writes, in HBM, in the own slice of a tile step, on a page with A, of a completion record, and where a line is
poisoned; and its reads. -/
theorem test_witness_EngineCommandsRun_places :
    (let s := sliced State.reset
     placesB s none 0x200000 64 12 false (fun i => 0x8000000 + 64 * i) && placesB s (some 0) 0x400000 64 12 false (fun i => 0x4000000000 + 64 * i) &&
       placesB s none 0xA00000 64 2 true (fun i => 0x8400000 + 64 * i) && placesB s none 0x200040 8 1 false (fun _ => 0x8000040) &&
       placesB s none 0x200000 32 2 false (fun i => 0x8000000 + 32 * i)) = true ∧
    (let s := sliced State.reset
     (∀ j, j < 2 → (match s.reach 0 (0x200000 + 32 * j) false with | .ok p _ 0 => p == 0x8000000 + 32 * j | _ => false) = true) ∧
     (s.engReads 0 0 0x400000 24).clean = true ∧ ({ s with poison := [0x200000] }.engReads 0 0 0x200000 24).bad = 3 ∧
     sidePoison ((s.core 0).side 0) = false ∧ (sideTag ((s.core 0).side 0)).b = false) ∧
    (let s := sliced State.reset
     let f := ef 5 6 7 8 0
     let m := running' (.cpy f) f 0x200000 0x400000 64
     m.ins = .cpy f ∧ (s.cpySource 0 m 0 2).clean = true ∧ s.cpyLine 0 m 0 ≠ some (0x4000000000 / 64) ∧ Machine.EF.src f = 0 ∧ Machine.EF.dst f = 0 ∧
     Machine.EF.lsrc f = 0 ∧ Machine.EF.ldst f = 0) := by decide +kernel

/-- A copy of one row to a layout of plain rows, and one from it. -/
theorem test_witness_EngineCommandsRun_layout :
    let s := sliced State.reset
    let m := { running' (.cpy (ef 5 6 7 8 0)) (ef 5 6 7 8 0) 0x200000 0x400000 768 with ldst := 0xC000C, lsrc := 0xC000C }
    let l := layOf m.ldst
    layoutOk m.ldst = true ∧ s.inSlice 0 0x400000 = true ∧ l.n = 192 ∧ l.e = 32 ∧ (s.engReads 0 0 0x200000 24).clean = true ∧
    s.layMismatch 0 0x400000 l 1 6144 = false ∧ ((s.layRow 0 0 0x400000 l 0).2).clean = true ∧
    ([0, 191].all fun k => let bit := 8 * 0x400000 + l.at 0 k
      let pa := 0x4000000000 + 4 * k
      bit == 8 * (0x400000 + 4 * k) && placesB s none (bit / 8) 1 1 false (fun _ => pa) &&
      (match s.layReach 0 (s.baseSlice 0 0x400000) (bit / 8) true with | .refused => false | _ => true) &&
      (List.range 4).all fun x => !(s.laySource { m with lsrc := 0 } (ef 5 6 7 8 0) 1).has (pa + x) && s.roByte (pa + x) == 0 && !s.blurred (pa + x)) = true := by
  decide +kernel

/-- Gathers of one index that names row 0, and a SCAD on a row of the own slice. -/
theorem test_witness_EngineCommandsRun_gather :
    let s := sliced State.reset
    let f : EF := ef 5 6 7 8 0x1000100
    let g : EF := { ef 5 6 7 8 0x1000101 with r := ⟨.always, 5, 6, 7, 8, 10, 0, 10⟩ }
    let h : EF := { ef 5 6 7 8 0x1000100 with r := ⟨.always, 5, 6, 7, 8, 10, 0, 0⟩ }
    let m := running' (.gath f) f 0x200000 0x200040 0x400000
    gathTypes (.gath f) f = true ∧ gathTypes (.gathSum g) g = true ∧ gathTypes (.scad h) h = true ∧
    Machine.EF.nidx f = 1 ∧ Machine.EF.rowu f = 64 ∧ Machine.EF.gathRow f = 64 ∧ Machine.EF.piece g = 64 ∧ Machine.EF.bag g = 1 ∧
    (s.index 0 m f 0).1 = some 0 ∧ (s.index 0 m f 0).2.clean = true ∧ (s.engReads 0 0 0x200000 2).clean = true ∧
    ((poke 0x8000040 [255, 255, 255, 255] s).index 0 m f 0).1 = none ∧ placesB s none 0x400000 64 1 false (fun _ => 0x4000000000) = true ∧
    s.inSlice 0 0x400020 = true ∧ (s.engReads 0 0 0x400000 2).bad = 0 ∧
    (match s.reach 0 0x400020 false with | .ok p _ 0 => p == 0x4000000020 | _ => false) = true ∧
    ((List.range 64).all fun x => s.roByte (0x4000000000 + x) == 0 && !s.blurred (0x4000000000 + x)) = true := by decide +kernel

/-- A match of two members whose operands are at hand; a group with a member in another module, and one that cannot be reached; a
collective that every member has issued, one that core 1 has not, and one of whose members a descriptor cannot be read yet. -/
theorem test_witness_EngineCommandsRun_match :
    (let s := pages.foldl (fun s p => s.modCore (homeSlice 0 p.1) fun x => { x with l2tlb := ⟨0, p.1, 0x200000, BitVec.ofNat 64 p.2⟩ :: x.l2tlb }) twoColls
     match (s.core 0).findCmd 0 with
     | some m => let found := s.collFound m (s.group 0 m)
       found.length == 2 && (found[Machine.EF.root collF]?).any (fun p => (s.engReads p.1 p.2.space p.2.va.toNat (Machine.EF.collSrc collF true / 32)).clean) &&
       found.all (fun p => placesB s none p.2.vb.toNat 64 1 false fun _ => if p.1 = 0 then 0x8000200 else 0x8000300) &&
       s.collIssued 0 m && !s.collUnknown 0 m
     | none => false) = true ∧
    ([[], [1]].all fun u => let s : State := { poke 0x8000084 [1, 8] oneColl with koyth := { State.reset.koyth with domain := [1], unreachable := u } }
     match (s.core 0).findCmd 0 with
     | some m => s.spans (s.group 0 m) && (s.group 0 m).bad == 0 && (s.group 0 m).ok && decide (4 ≤ { collF with sc := 4 }.sc.toNat) && !s.collFar.contains m.seq &&
       ((s.group 0 m).members.any fun w => s.koyth.unreachable.contains (w / 2 ^ 11)) == !u.isEmpty
     | none => false) = true ∧
    (match (oneColl.core 0).findCmd 0 with
     | some m => !oneColl.collIssued 0 m && !oneColl.collUnknown 0 m && m.fail.isNone && !oneColl.spans (oneColl.group 0 m) &&
       (oneColl.modCore 1 fun x => { x with cmds := [{ m with reg := 0, vc := 0x2000000 }] }).collUnknown 0 m
     | none => false) = true := by decide +kernel

/-- A product as it runs: its vector at hand, on an unmapped page, and poisoned; a row to add to, clean and poisoned. -/
theorem test_witness_Crossbar_product :
    (let s := sliced (calibrated [])
     let m := { running' (.xmv xmvF) xmvF 0x400000 0 0 with product := ⟨false, true, false, false, 0⟩ }
     m.ins = .xmv xmvF ∧ m.product.rcal = false ∧ m.product.calv = true ∧ 0 ≤ ((s.core 0).tile 1).wmax ∧
     ((s.through m).engReads 0 0 0x400000 (vecBytes 9 / 32)).bad = 0 ∧ ((s.through m).engReads 0 0 0x2000000 (vecBytes 9 / 32)).bad = 2 ∧
     ((({ s with poison := [0x100000000] } : State).through m).engReads 0 0 0x400000 (vecBytes 9 / 32)).bad = 3 ∧
     Machine.EF.add xmvF = false ∧ Machine.EF.add { xmvF with eng := 0x5010000000 } = true ∧ sidePoison ((s.core 0).side 0) = false) ∧
    sidePoison (mkSide .exact true) = true := by decide +kernel

/-- XUPD, XDEP, XSYM and XRD with their records in the own slice or on a page with A. -/
theorem test_witness_Crossbar_records :
    let s := sliced (calibrated [])
    let f : EF := ef 0 0 0 44 0x8002000
    let r : EF := ef 0 0 0 44 0
    Machine.EF.first f + Machine.EF.many f ≤ 1024 ∧ Machine.EF.many f ≠ 0 ∧ f.r.c ≠ 0 ∧ r.r.a = 0 ∧
    (List.replicate (2 * vecBytes 9) (0 : Byte)).length = 2 * vecBytes 9 ∧
    placesB s (some 0) 0x400000 64 128 false (fun i => 0x4000000000 + 64 * i) = true ∧
    placesB s (some 0) 0x400000 64 ((4 * Machine.EF.many f + 63) / 64) false (fun i => 0x4000000000 + 64 * i) = true ∧
    placesB s none 0xA00000 64 64 true (fun i => 0x8400000 + 64 * i) = true ∧
    |((s.core 0).tile 1).symVal 0| ≤ 1 ∧ 1 % 4 ^ Machine.EF.lrep r = 0 ∧ 1 % 4 ^ 1 ≠ 0 ∧
    (0 : Nat) < 1024 ∧ (List.replicate 2048 (0 : Byte)).length = 2048 ∧ (s.engReads 0 0 0x200000 64).bad = 0 := by decide +kernel

/-- A tile with weights up to 1 and a drip gain of 1, whose references stand where they were calibrated. -/
def tile1 : Tile := { Tile.init with gain := 0x3F8000003F80, calv := true, expects := List.replicate 8 0 }
theorem test_witness_Crossbar_tile : tile1.wmax ≠ 0 ∧ 0 ≤ tile1.errLim 0 * tile1.wmax / tile1.gd ∧
    ¬(0x0080 ≤ (Tile.init.gain.extractLsb' 32 16).toNat) ∧
    0x0080 ≤ (tile1.gain.extractLsb' 32 16).toNat ∧ (tile1.gain.extractLsb' 32 16).toNat < 0x7F80 ∧
    (∀ k, k < 8 → |tile1.refs.getD k 0 - refLevel k| ≤ 1 / 8) := by decide +kernel

/-- XCAL writes a positive finite GS and GD where the mean stone step of the tile gives them. -/
theorem test_witness_Crossbar_calibrates (h : let g := bf16Of (32 * tile1.wmax * stoneStep 1); 0 < g.toNat ∧ g.toNat < 0x7F80) :
    let wm := tile1.gain.extractLsb' 32 16
    let g := tile1.thr ++ wm ++ wm ++ bf16Of (32 * tile1.wmax * stoneStep 1)
    (0 < (g.extractLsb' 0 16).toNat ∧ (g.extractLsb' 0 16).toNat < 0x7F80) ∧
    (0 < (g.extractLsb' 16 16).toNat ∧ (g.extractLsb' 16 16).toNat < 0x7F80) := by
  have e : ∀ (a b c d : BitVec 16), (a ++ b ++ c ++ d).extractLsb' 0 16 = d ∧ (a ++ b ++ c ++ d).extractLsb' 16 16 = c := by
    intro a b c d
    constructor <;> ext i hi <;> simp only [BitVec.getElem_extractLsb', BitVec.getLsbD_append] <;> simp_all
  refine ⟨?_, ?_⟩
  · rw [(e _ _ _ _).1]; exact h
  · rw [(e _ _ _ _).2]; decide +kernel

/-- An estimate of a row; a device with no free error. -/
theorem test_witness_Crossbar_estimate : ∃ e, (Tile.init.estimates ⟨true, true, false, false, 0⟩ 0 0 0 [5])[0]? = some e ∧ [5][0]? = some 5 := ⟨_, rfl, rfl⟩

/-- Served commands under way: their operands, RESULT words and destinations. -/
theorem test_witness_UnitCommands_sent :
    let f : EF := ef 5 6 7 0 0
    let s := sliced (after (exec (.engineCommandStart 0 0) (after (exec (.rjsend f) (busy [(6, 0x200000), (7, 0)])))))
    (match (s.core 0).findCmd 0 with
     | some m => m.engine == .unit && m.st.running? && s.rlDone 0 m && !(s.core 0).held m && s.partsClear 0 m && m.fail.isNone && s.served 0 m &&
         (s.firstMiss m.space (unitTouch s 0 m f)).clear && (s.firstMiss m.space (recTouch m)).clear && m.prog == 0 && !(s.core 0).sendsBefore m &&
         (s.engReads 0 m.space m.va.toNat (Machine.EF.msgs f)).clean && (s.engReads 0 m.space 0xA00000 1).a &&
         (s.engReads 0 m.space 0x2000000 1).bad != 0 && s.inDomain 0 && !s.inDomain 5 && !s.koyth.unreachable.contains 0 && m.vb.toNat == s.koyth.modId &&
         ({ s with koyth := { s.koyth with domain := [5], unreachable := [5] } } : State).inDomain 5 &&
         ({ s.core 0 with cmds := m :: [{ m with id := 1 }] } : Core).sendsBefore { m with id := 1 }
     | none => false) = true := by decide +kernel

/-- A read of one block of 512 bytes through an open connection to the page at 0x200000, and where a destination is not in HBM. -/
theorem test_witness_UnitCommands_read :
    let s := sliced (State.reset.setConn 0 (some ⟨9, 1, none⟩))
    let f : EF := ef 5 6 0 0 0
    let m := { running' (.strd f) f 0x600000 0 0 with blk := leBytes 16 0 ++ leBytes 8 1 ++ leBytes 40 0x200000 }
    m.ins = .strd f ∧ m.cancel = false ∧ fld m.blk 24 8 = 0x200000 ∧ s.strdBytes m.blk = 512 ∧ eaPlain (wordAt m.blk 24) = true ∧
    s.dstOk m.space 0x200000 512 = true ∧ s.dstOk m.space 0x400000 512 = false ∧
    placesB s none 0x200000 64 8 false (fun i => 0x8000000 + 64 * i) = true ∧ placesB s none 0xA00020 8 1 false (fun _ => 0x8400020) = true ∧
    ({ m with reg := 1 } : Cmd).reg ≠ 0 ∧ m.reg = 0 ∧
    (match (s.modCore 0 fun x => { x with cmds := [{ m with engine := .unit, st := .armed 0 }] }).core 0 |>.findCmd m.id with
     | some n => (s.modCore 0 fun x => { x with cmds := [n] }).served 0 n
     | none => true) = false := by decide +kernel

theorem decoding_lost {s : State} {c : Nat} {m : Cmd} (h : (s.stream c m.space (fld m.blk 8 8) (fld m.blk 16 8)).bad = 0) :
    (s.decoding c m).lost = 0 := by simp [State.decoding, h]

/-- The block of a decode of frames of 2 by 2 samples, 64 bytes a row and at most one frame, of a stream of 64 bytes. -/
def frameBlk (pitch : Nat) : List Byte :=
  leBytes 4 0 ++ leBytes 4 1 ++ leBytes 8 0x200000 ++ leBytes 8 64 ++ leBytes 8 0xA00000 ++ leBytes 4 pitch ++ leBytes 4 64 ++ leBytes 2 2 ++ leBytes 22 2
theorem test_witness_UnitCommands_decode :
    let s := sliced State.reset
    let f : EF := ef 5 6 0 0 0
    let m := { running' (.mdec f) f 0x200040 0 0 with blk := frameBlk 256 }
    (m.ins = .mdec f ∧ m.cancel = false ∧ mdecOk m.blk = true ∧ surface (mdecRowp m.blk) (mdecH m.blk) ≤ mdecPitch m.blk ∧
      mdecPitch (frameBlk 64) < surface (mdecRowp (frameBlk 64)) (mdecH (frameBlk 64)) ∧ eaPlain (wordAt m.blk 8) = true ∧
      eaPlain (wordAt m.blk 24) = true ∧ mdecH m.blk * 3 / 2 = 3 ∧ mdecDst m.blk = 0xA00000 ∧
      (List.range 3).all (fun y => placesB s none (0xA00000 + 64 * y) 64 1 true fun _ => 0x8400000 + 64 * y) = true ∧
      (List.range 3).all (fun y => s.putPoison 0 (0xA00000 + 64 * y) 2 == 0) = true ∧
      placesB s none 0x200070 8 1 false (fun _ => 0x8000070) = true) ∧
    (s.decoding 0 m).lost = 0 :=
  ⟨by decide +kernel, decoding_lost (by decide +kernel)⟩

/-- The block of a resize of 2 by 2 samples of 8 bits to one element. -/
def resizeBlk : List Byte :=
  leBytes 8 0x200000 ++ leBytes 4 64 ++ leBytes 4 8 ++ leBytes 2 2 ++ leBytes 2 2 ++ leBytes 4 0 ++ leBytes 2 2 ++ leBytes 2 2 ++ leBytes 2 1 ++ leBytes 2 1 ++
  leBytes 8 0x200200 ++ leBytes 4 64 ++ leBytes 80 64
theorem test_witness_UnitCommands_resize :
    let s := sliced State.reset
    let q := resizeOf resizeBlk
    mrszOk 1 resizeBlk = true ∧ eaPlain (BitVec.ofNat 64 q.src) = true ∧ eaPlain (BitVec.ofNat 64 q.dst) = true ∧
    (q.reads.map fun p => s.stream 0 0 p.1 p.2).any (·.bad != 0) = false ∧
    ((q.reads.map fun p => ({ s with poison := [0x200000] } : State).stream 0 0 p.1 p.2).any (·.bad != 0)) = true ∧
    (pagesIn q.src (surface q.srowp q.sh)).any (fun a => match s.reach 0 a false with | .ok _ t _ => t.a | _ => false) = false ∧
    q.oh = 1 ∧ (List.range 3).all (fun i => placesB s none (q.dst + i / q.oh * q.dplane + i % q.oh * q.drowp) 64 1 false fun _ => 0x8000200 + 64 * i) = true ∧
    placesB s none 0x200048 8 1 false (fun _ => 0x8000048) = true := by decide +kernel

/-- A scan of one step apart from its descriptor; messages that conflict, that repeat an orphan, and that find no room. -/
theorem test_witness_JoinUnit_bytes :
    (let e : JEntry := { entry8 with len := 1, descPa := 0x8000100 }
     let s := unitAt { unitOn with entries := [e], queued := [0] } State.reset
     (s.die 0).unit.queued = [0] ∧ ((s.die 0).unit.entries.find? fun e => e.serial == 0) = some e ∧ (s.die 0).unit.on = true ∧ (s.die 0).unit.judge = 0 ∧
     (s.die 0).unit.stale e = false ∧ s.stepsLost 0 e = false ∧ (∀ i, i < e.len → (e.stepPa i).2 = 0) ∧ e.descHold = 0 ∧
     ∀ i, i < e.len → (e.stepPa i).1 + 32 ≤ e.descPa + 20) ∧
    (let e : JEntry := { entry8 with rewards := [⟨5, 3, 1⟩] }
     (msg8 3 5).malformed (some e) = false ∧ e.has 5 = some ⟨5, 3, 1⟩ ∧ conflicts ⟨5, 3, 1⟩ (msg8 3 5) = true ∧ conflicts ⟨5, 3, 0⟩ (msg8 3 5) = false) ∧
    (let u : JoinUnit := { unitOn with orphans := [⟨msg8 3 5, 0⟩] }
     (u.orphans.find? fun o => o.m.key == (msg8 3 5).key && o.m.seq == (msg8 3 5).seq) = some ⟨msg8 3 5, 0⟩ ∧
     (u.orphans.any fun o => o.m.key == (msg8 3 6).key && o.m.seq == (msg8 3 6).seq) = false) ∧
    ({ entry8 with st := .queued } : JEntry).st ≠ .held ∧
    (let u : JoinUnit := { JoinUnit.init.configure [3, 0, 0x100000001] 0 0 with entries := [entry8, { entry8 with serial := 1 }], ready := [1, 0] }
     u.ord = true ∧ u.ready = [1] ++ 0 :: [] ∧ (∃ o ∈ u.entries, o.serial < 1) ∧ ∀ o ∈ u.entries, 0 ≤ o.serial) := by decide +kernel

/-- A relayout of one row of one granule and a pooling command over a list of one index, both begun. -/
theorem test_witness_StackWindows_granules :
    (let m : StackCmd := ⟨1, 0, 0, 3, 0x8600000, 1, 0x8000000, some ⟨[0], [], List.replicate 64 7⟩⟩
     let p := { relay with queue := [m] }
     let s := State.reset.setPearl 3 p
     (s.pearl 3).queue = [m] ∧ p.configuring = false ∧ m.n = 1 ∧ p.srb = 64 ∧ p.prl = 64 ∧ placeOk (m.block + p.rowAt m.j) true = true ∧
     (m.block + p.rowAt m.j + 63 < m.src ∨ m.src + 64 ≤ m.block + p.rowAt m.j) ∧ (List.range 64).all (fun i => placeOk (m.src + i) false && !s.blurred (m.src + i)) = true ∧
     ¬(∃ h, h < 1 ∧ h ∉ [0]) ∧ (∃ h, h < 2 ∧ h ∉ [0])) ∧
    (let m : StackCmd := ⟨2, 0, 0, 3, 0x8600000, 1, 0x8000000, some ⟨[0], [0], []⟩⟩
     let p : Pearl := { Pearl.init with kind := 2, image := [0x100000000, 0x1000A0001, 0x1000], queue := [m] }
     let s := State.reset.setPearl 3 p
     p.ne = 1 ∧ p.nrows = 1 ∧ p.ety = 10 ∧ placeOk (p.outAt m) true = true ∧ (List.range 4).all (fun i => !p.inTable ((p.outAt m + i) % blockBytes)) = true ∧
     p.outAt m + 4 > m.src + 4 ∧ (List.range 4).all (fun i => placeOk (m.block + p.rowAt 0 + i) false && !s.blurred (m.block + p.rowAt 0 + i)) = true) := by decide +kernel

/-- A record held until its context has drained stands before one that may be placed; a core whose accumulator store has failed. -/
theorem test_witness_FaultRecords_held :
    (let s := ringed ((boxC 0 [] fun x => { x with task := some (task0 none), run := .parked 0 0x200000, acc := [acc (.load 5 false) 0x8000000 64] }).setDie 0
       { Die.init with waiting := [frec 1] ++ frec 2 :: [] })
     (s.die 0).waiting = [frec 1] ++ frec 2 :: [] ∧ s.ring 0 = some (0x8010000, 16) ∧ (frec 1).kind = 1 ∧ s.parkedAt (frec 1) = true ∧
     (s.core 0).drained 0 = false ∧ (frec 2).kind ≠ 1 ∧ (s.readWord (0x8010000 + 64 * ((s.die 0).pushed % 16))).getLsbD 63 = false) ∧
    (let s := (stationed.modMe fun x => { x with task := some (task0 none) }).modMy (·.countErr 0)
     s.koyth.retired.contains (unitCode (.accStore 0)) = false ∧ Tab.get (fun _ => 0) (s.core 0).errs 0 ≠ 0 ∧ (s.core 0).regions ≠ [] ∧
     (s.ctx 0 0).task = some (task0 none) ∧ (task0 none).step = none ∧ (s.ctx 0 0).run = .ready) := by decide +kernel

/-- A copy under way whose source page lies in module 5, beside cores with no command. -/
def farCopy : State :=
  { copyStarted.modCore (homeSlice 0 0x200000) fun x => { x with l2tlb := [⟨0, 0x200000, 0x200000, 0x140000008000083⟩] } with
    koyth := { State.reset.koyth with domain := [5], resent := [(5, 4)] } }

theorem test_witness_Links_cut :
    (match farCopy.cores with
     | [(0, x), (1, y)] => x.cmds.length == 1 && y.cmds.isEmpty && (match x.cmds with
       | [cm] => (Instr.ef cm.ins).isSome && cm.st.running? && cm.fail.isNone && cm.engine == .copy &&
         (let u := farCopy.cutOff 7 5
          ((u.cmdTouch 0 cm (ef 5 6 7 8 0)).any fun r => (pagesIn r.1 (max r.2.1 1)).any fun va =>
            match u.reach cm.space va r.2.2 with | .ok pa _ _ => modOf pa == 5 | _ => false) && (u.runMove 0 cm (ef 5 6 7 8 0)).st == 9)
       | _ => false)
     | _ => false) = true ∧
    5 ≠ farCopy.koyth.modId ∧ farCopy.inDomain 5 = true ∧ farCopy.koyth.unreachable.contains 5 = false ∧
    4 ≤ Tab.get (fun _ => 0) farCopy.koyth.resent 5 ∧
    (let s := boxC 0 [] fun x => { x with win := some ⟨win 1 4 0 64, none⟩ }
     (s.ctx 0 0).win = some ⟨win 1 4 0 64, none⟩ ∧ ((List.range 9).any fun b => (List.range 8).any fun d => s.crosses b d (win 1 4 0 64).pa) = true) := by decide +kernel

/-- A dead load and a dead store, which may perform; a recorded discard told by each kind of instruction, and one of another module. -/
theorem test_witness_Links_told :
    (∀ kind ∈ [AccKind.load 5 false, .store 7], let a := { acc kind 0x8000000 64 with dead := true }
      let s := pend [a]
      (s.ctx 0 0).acc[0]? = some a ∧ a.dead = true ∧ s.mayPerform 0 0 0 = true ∧ (s.ctx 0 0).answered = false ∧ (s.ctx 0 0).run = .ready ∧
      (s.ctx 0 0).delay = none ∧ ((s.modCtx 0 0 (·.takeAcc 0)).core 0).drained 0 = true ∧
      (s.ctx 0 0).discard.or (some (a.ea, a.modl)) = some (0x8000000, 0)) ∧
    (∀ md ∈ [0, 1], let s := (boxP 0 [(2, 0x200000)]).modMe fun x => { x with discard := some (0x300000, md) }
      let u := s.modMe fun x => { x with discard := none }
      s.me.discard = some (0x300000, md) ∧ s.goes 0 .always [] = true ∧ s.myCore.landed 0 = true ∧ s.me.acc = [] ∧ s.goes 0 .always [2, 0] = true ∧
      s.goes 0 .always [2, 0, 3] = true ∧ s.me.loadRoom = true ∧ s.me.storeRoom = true ∧ s.me.answered = false ∧ s.eaIndexed (mf 3 2 3 0) = 0x200000 ∧
      u.accessPass .load 0x200000 8 3 false 0x8000000 rw = true ∧ u.accessPass .store 0x200000 8 3 false 0x8000000 rw = true ∧
      u.accessPass .store 0x200000 8 3 true 0x8000000 rw = true) := by decide +kernel

/-- A host write that moves a queue, a power-up at the last stage, a region to be cleared. -/
theorem test_witness_StartOrder_again :
    (staged 5 false).koyth.stage = 5 ∧ (staged 5 false).koyth.state ≠ 3 ∧ (linked fun k => { k with state := 3 }).koyth.state = 3 ∧
    (∀ d ∈ [1, 1023], d < 1024) ∧ Memory.wf (poke 0x8000000 [1] State.reset).mem = true ∧ (poke 0x8000000 [1] State.reset).mem.all (fun p => decide (p.1 < 2 ^ 54)) = true ∧
    (staged 4 false).koyth.recovery = false ∧ (staged 2 true).koyth.stage = 2 := by decide +kernel

/-- A firmware request taken up, one already in progress, its second step; a report on a resident launch. -/
theorem test_witness_ControllerEvents_progress :
    (let q := msg [(0, [0x11]), (11, [8]), (16, [160])]
     ∀ l ∈ [none, some q, some { msg [(0, [0x11])] with qp := 2 }], let s := up { State.reset with mem := (State.reset.putBytes 0x8000000 firmware).mem }
      let t : State := { s with koyth := { s.koyth with loading := l } }
      (l = some q ∨ t.takes q 0x11 = true) ∧ t.koyth.loading = l ∧ zeros q.msg 2 2 = true ∧ zeros q.msg 24 232 = true ∧ fld q.msg 8 8 % 64 = 0 ∧ fld q.msg 16 8 ≤ 2 ^ 25 ∧
      t.hostOk (fld q.msg 8 8) (fld q.msg 16 8) false = true ∧ t.seen 0x8000000 160 = firmware) ∧
    (let q := msg [(0, [0x12]), (19, [8])]
     let s := up (resident State.reset)
     s.takes q 0x12 = true ∧ fld q.msg 8 4 ≠ 0xFFFFFFFF ∧ s.launchOf (fld q.msg 8 4) = some launch0 ∧ s.hostOk (fld q.msg 16 8) 512 true = true) := by decide +kernel

/-- A ring of grotto 0 given up by a host's write of its BASE. -/
theorem test_witness_HostServices_rings :
    let s := up (withQueues (State.reset.setGrotto 0 { Grotto.init with started := true }))
    let t : State := { s with rings := s.queueRings }
    t.hears 1 = true ∧ t.hostOk 0x10000 8 true = true ∧ (0xA000000, 32 * 256) ∈ t.rings ∧
    (0xA000000, 32 * 256) ∉ (t.storeD (some ioParty) 0x10000 0 (leBytes 8 0xB000000) none).queueRings ∧ t.roByte 0x10000 = 0 := by decide +kernel

end Sys2Proof.Tests
end

section
/-! Branch targets (spec/03 R57): the checks of a target, what a trap raised at issue leaves of the targets, and O14. -/

namespace Sys2Proof.Machine

/-! ## The checks of a target (R57, R257) -/

theorem checkTarget_misaligned {t : Word} {ok : Issue} (h : t.extractLsb' 0 3 ≠ 0) : checkTarget t ok = .trap 0x08 t :=
  if_pos (bne_iff_ne.2 h)

/-- An aligned target is left to the check of its top byte. -/
theorem checkTarget_aligned {t : Word} {ok : Issue} (h : t.extractLsb' 0 3 = 0) :
    checkTarget t ok = if t.extractLsb' 56 8 = 0 then ok else .trap 0x0E t := by
  simp [checkTarget, eaTop, h]

/-! ## PTB and PTBR that go on -/

theorem exec_ptb_goes {s : State} {f : IF} (h : s.goes 0 f.gd [] = true) :
    exec (.ptb f) s = .next ((s.modMe fun x => x.setBt f.d.toNat (x.pc + 8 * f.x.signExtend 64)).stepped 1) := by
  change execPtb f s = _
  rw [execPtb, State.issue_goes h, State.finish_done _ _ _ (State.modMe_curCtx s _)]

/-- PTBR ends as the checks of its target do. -/
theorem exec_ptbr_goes {s : State} {f : RF} (h : s.goes 0 f.gd [f.a.toNat] = true) :
    exec (.ptbr f) s =
      .next (s.finish 1 (checkTarget (s.getS f.a) (.done (s.modMe fun x => x.setBt f.d.toNat (s.getS f.a))))) := by
  change execPtbr f s = _
  rw [execPtbr, State.issue_goes h]

/-! ## A trap raised at issue keeps the targets -/

theorem State.me_modMe_bts {s : State} {f : Ctx → Ctx} (h : ∀ x, (f x).bts = x.bts) : (s.modMe f).me.bts = s.me.bts := by
  rw [State.me_modMe, h]

theorem State.me_raise_bts (s : State) (cause : Nat) (info pc : Word) :
    (s.raise s.curCore s.curCtx cause info pc).me.bts = s.me.bts := by
  unfold State.raise
  split
  · exact State.me_modMe_bts fun x => Ctx.enterTrap_bts _ x cause info pc
  · exact State.me_modMe_bts Ctx.stopClear_bts

/-- Noting who issued touches no context, and entering or awaiting the handler touches no target. -/
theorem State.me_trapped_bt (s : State) (cause : Nat) (info : Word) (n : Nat) : (s.trapped cause info).me.bt n = s.me.bt n := by
  have hraise := State.me_raise_bts (s.modMy fun x => { x with last := s.curCtx, issued := true }) cause info s.me.pc
  rw [State.me_modMy] at hraise
  exact congrArg (fun bts => Tab.get (fun _ => 0) bts n) hraise

/-! ## A target a whole number of words away is aligned alike -/

theorem low3_add_eight_mul (x y : Word) : (x + 8 * y).extractLsb' 0 3 = x.extractLsb' 0 3 := by
  apply BitVec.eq_of_toNat_eq
  have h8 : (8 : Word).toNat = 8 := rfl
  simp only [BitVec.extractLsb'_toNat, BitVec.toNat_add, BitVec.toNat_mul, h8, Nat.shiftRight_zero]
  omega

/-- Settles O14: PTB and PTBR run their bodies, PTBR by the outcome of its target's checks; a trap keeps the targets; the distance of
a PTB is a multiple of 8. -/
theorem branchTargets : Obligations.BranchTargets := by
  unfold Obligations.BranchTargets
  intro s f g
  refine ⟨exec_ptb_goes, fun hgo => ⟨fun hlow => ?_, fun hlow htop => ?_, fun hlow htop => ?_⟩,
    State.me_trapped_bt s, fun hpc => ?_⟩
  · rw [exec_ptbr_goes hgo, checkTarget_misaligned hlow, State.finish_trap]
  · rw [exec_ptbr_goes hgo, checkTarget_aligned hlow, if_neg htop, State.finish_trap]
  · rw [exec_ptbr_goes hgo, checkTarget_aligned hlow, if_pos htop, State.finish_done _ _ _ (State.modMe_curCtx s _)]
  · rw [low3_add_eight_mul, hpc]

end Sys2Proof.Machine
end

section
/-! System calls (spec/15 R259): the decoding of an unguarded word of the I format, a trap taken with nothing in flight, and O17. -/

namespace Sys2Proof.Machine

/-! ## Decoding words of the I format (R21, R23, R33) -/

/-- A field of a field is a field of the word. -/
theorem extractLsb'_extractLsb'_add {n : Nat} (x : BitVec n) {base width start len : Nat} (h : start + len ≤ width) :
    (x.extractLsb' base width).extractLsb' start len = x.extractLsb' (base + start) len := by
  apply BitVec.eq_of_getLsbD_eq
  intro i hi
  have hin : start + i < width := by omega
  simp [hi, hin, Nat.add_assoc]

/-- Bits 32 to 55 hold D = A = B = 0 and no guard (R21). -/
theorem unpackI_unguarded {w : Word} (h : w.extractLsb' 32 24 = 0x1F) : unpackI w = ⟨.always, 0, 0, 0, w.extractLsb' 0 32⟩ := by
  have hfield (start len : Nat) (hin : start + len ≤ 24) :
      w.extractLsb' (32 + start) len = (0x1F : BitVec 24).extractLsb' start len := by
    rw [← h, extractLsb'_extractLsb'_add w hin]
  have hg : w.extractLsb' 32 5 = 31 := hfield 0 5 (by decide)
  have hgn : w.getLsbD 37 = false := by simpa using congrArg (·.getLsbD 5) h
  have hb : w.extractLsb' 38 6 = 0 := hfield 6 6 (by decide)
  have ha : w.extractLsb' 44 6 = 0 := hfield 12 6 (by decide)
  have hd : w.extractLsb' 50 6 = 0 := hfield 18 6 (by decide)
  simp only [unpackI, guardOf, dOf, aOf, bOf, xOf, hg, hgn, hb, ha, hd, Guard.always]

/-- A word of the I format decodes to the instruction its opcode selects, where the fields of that are allowed. -/
theorem decode_formatI {w : Word} {i : Instr} (v : Option Word) (hfmt : formatOf (opOf w) = some .i)
    (hsel : selectI (opOf w) (unpackI w) = some i) (hwf : i.wf0 = true) : decode w v = .instr i 1 := by
  simp [decode, decodeSingle, selectWord, checkWord0, hfmt, hsel, hwf]

/-- OP 0x60 is SYSC, whatever its immediate. -/
theorem decode_sysc {w : Word} (v : Option Word) (hop : w.extractLsb' 56 8 = 0x60) (hfields : w.extractLsb' 32 24 = 0x1F) :
    decode w v = .instr (.sysc ⟨.always, 0, 0, 0, w.extractLsb' 0 32⟩) 1 := by
  have hopOf : opOf w = 0x60 := congrArg BitVec.toNat hop
  refine decode_formatI v ?_ ?_ rfl
  · rw [hopOf]; rfl
  · rw [hopOf, unpackI_unguarded hfields]; rfl

/-! ## A trap with nothing in flight (R129, R280) -/

theorem State.me_raise_drained {s : State} (h : s.myCore.drained s.curCtx = true) (cause : Nat) (info pc : Word) :
    (s.raise s.curCore s.curCtx cause info pc).me = s.me.enterTrap s.myCore.fwvec cause info pc := by
  have henter : s.raise s.curCore s.curCtx cause info pc = s.enterTrap s.curCore s.curCtx cause info pc := if_pos h
  rw [henter]
  exact State.me_modMe s _

/-- Noting who issued leaves the context and what it has in flight as they were. -/
theorem State.me_trapped_drained {s : State} (h : s.myCore.drained s.curCtx = true) (cause : Nat) (info : Word) :
    (s.trapped cause info).me = s.me.enterTrap s.myCore.fwvec cause info s.me.pc := by
  have hcore := State.myCore_modMy s fun x => { x with last := s.curCtx, issued := true }
  have hraise := State.me_raise_drained (s := s.modMy fun x => { x with last := s.curCtx, issued := true })
    (by rw [hcore]; exact h) cause info s.me.pc
  rw [hcore, State.me_modMy] at hraise
  exact hraise

/-! ## SYSC (R259) -/

theorem exec_sysc_goes {s : State} {f : IF} (h : s.goes 0 f.gd [] = true) :
    exec (.sysc f) s = .next (s.trapped 0x11 (f.x.setWidth 64)) := by
  change execSysc f s = _
  rw [execSysc, State.issue_goes h, State.finish_trap]

/-- Settles O17: the fields of the word give the instruction; a SYSC that goes on raises trap 0x11, which enters the handler at once
where nothing is in flight. -/
theorem systemCall : Obligations.SystemCall := by
  unfold Obligations.SystemCall
  refine ⟨fun w v x hop hfields hx => ?_, decode_sysc none rfl rfl, fun s f hgo hdrained => ?_⟩
  · rw [decode_sysc v hop hfields, hx]
  · refine ⟨_, exec_sysc_goes hgo, ?_⟩
    rw [State.me_trapped_drained hdrained]
    exact ⟨rfl, rfl, rfl⟩

end Sys2Proof.Machine
end
